-- ==== Sys2Proof/Word.lean ====
section
/-!
DEFINITION. The word types and the plain numbers that name the parts of the module (R10).
-/

namespace Sys2Proof

/-- A register or a sequencer general register (R9, R35). -/
abbrev Word := BitVec 32
/-- Eight bytes: a descriptor word (R124), an 8-byte access (R357), a plain count of nanoseconds. -/
abbrev DWord := BitVec 64
/-- One byte of a well, a cistern or a message. -/
abbrev Byte := BitVec 8
/-- A device physical or a partition virtual address, 48 bits (R30, R206). -/
abbrev Addr := BitVec 48
/-- One 64-byte granule (R56, R112) or cache line (R254). -/
abbrev Line := BitVec 512
/-- One vector register of 256 bytes (R97). -/
abbrev VWord := BitVec 2048
/-- A run of bytes, first byte at the lowest address. -/
abbrev Bytes := List Byte
/-- A SHA-384 hash (R343, R345), taken as the value the environment delivers. -/
abbrev Hash := BitVec 384

/-- Logical tile index t = r × 88 + c (R10). -/
abbrev Tile := Fin 4224
/-- Reticle field F00 … F47 (R10, R12). -/
abbrev Field := Fin 48
/-- Partition P0 … P15 (R193). -/
abbrev Part := Fin 16
/-- Yurno port Y00 … Y23 (R218). -/
abbrev Port := Fin 24
/-- Subport a … d of a Yurno port (R219). -/
abbrev Sub := Fin 4
/-- Lane L0 … L65 of a Yurno port (R219). -/
abbrev Lane := Fin 66
/-- Host port H0 … H3 (R244). -/
abbrev HostPort := Fin 4
/-- DMA channel of a tile (R120). -/
abbrev Chan := Fin 4
/-- General register g0 … g31 (R35). -/
abbrev GReg := Fin 32
/-- Vector register v0 … v15 (R97). -/
abbrev VReg := Fin 16

end Sys2Proof
end

