-- ==== Sys2Proof/Syntax.lean ====
section
/-!
DEFINITION. The commands of the block: one constructor of Instr for each row of spec/opcode_table.json,
with the operands the row's rule gives it. A command names the unit that acts (a tile, a field, a partition,
a port), the master where a register is written (R257, R258), and whatever arrives from outside with it.
-/

namespace Sys2Proof

/-- The masters that write register pages (R257, R258). -/
inductive Master where
  | svp
  | pf (h : HostPort)
  | vf (h : HostPort) (n : Part)
  | tile (t : Tile)
  deriving DecidableEq, Repr

/-- The four seam adapters of a field (R173). -/
inductive Adapter where
  | xp | xm | yp | ym
  deriving DecidableEq, Repr

/-- Shapes of a compute instruction (Table 3.7). -/
inductive Shape where
  | full | half | quad | narrow
  deriving DecidableEq, Repr

/-- The common fields of a vector instruction (R100): prec is true for binary32. -/
structure VOp where
  vd : VReg
  va : VReg
  vb : VReg
  vc : VReg
  prec : Bool
  rm : BitVec 3
  deriving DecidableEq, Repr

/-- Who orders a channel action of Table 5.8: DMA.CTL of the tile, or a master writing DMA_CTL. -/
inductive DmaOrder where
  | instr
  | reg (m : Master)
  deriving DecidableEq, Repr

/-- A page that holds an arbiter (R190, R243). -/
inductive PortPage where
  | tilePort (f : Field) (s : Fin 96)
  | wellPort (f : Field) (s : Fin 96)
  | seam (f : Field) (a : Adapter)
  | spine (f : Field)
  | attach (f : Field)
  | hub (h : HostPort)
  deriving DecidableEq, Repr

/-- The operands of a map command (R207): size is true for a 1 GiB page. -/
structure MapArgs where
  va : Addr
  tgt : Addr
  size : Bool
  r : Bool
  w : Bool
  deriving DecidableEq, Repr

/-- A received flit (R222): its 256 bytes, and whether an uncorrectable FEC codeword carried part of it. -/
structure Flit where
  bytes : Bytes
  fecBad : Bool
  deriving DecidableEq, Repr

/-- An incoming one-sided request, as its header names it (Table 10.6) and as the fabric delivers its source (R234).
opNo is the operation number of R231; rsv is true when a header bit marked 0 is not 0. -/
structure YReq where
  srcModule : BitVec 16
  srcPart : Part
  part : Part
  rva : Addr
  len : BitVec 17
  opNo : BitVec 32
  rsv : Bool
  deriving DecidableEq, Repr

/-- The operands of an incoming atomic (Table 10.6): arg, and the compare value of CAS64. -/
structure YAtomic where
  arg : DWord
  cmp : DWord
  deriving DecidableEq, Repr

/-- Where a host access goes (Table 11.2, R247, R347). -/
inductive HostAddr where
  | pfBar0 (off : Addr)
  | vfBar0 (n : Part) (off : Addr)
  | vfBar2 (n : Part) (off : Addr)
  | vfBar4 (n : Part) (off : Addr)
  | window (p : Part) (off : Addr)
  deriving DecidableEq, Repr

/-- One complete image for one geometry (Table 2.4). The manual gives the sections of a step image and not its
bytes, so START carries what they say: the tiles the placement map names, the handles named and assigned, the
closing handle of each step, per tile and step the code range, the limit and the handler, and per tile the slot table and
the twin entries. The guard entries of its region table are loaded by each step's own prologue (R49). -/
structure ImageBody where
  geometryId : Word
  steps : Nat
  tiles : List Tile
  fields : List Field
  handles : List (BitVec 10)
  weirMap : List (BitVec 10 × Word × Word)
  closing : List (BitVec 10)
  stepLimit : List (Tile × Nat × Word)
  code : List (Tile × Nat × Addr)
  tvec : List (Tile × Nat × Word)
  vslot : List (Tile × Fin 8 × Word)
  twins : List (Tile × Fin 8 × Word × Word × Word)
  deriving DecidableEq, Repr

/-- A step image with its fallback variants in image order (Table 2.4, R41). -/
structure Image where
  body : ImageBody
  variants : List ImageBody
  deriving DecidableEq, Repr

/-- A monitored point (Table 12.6, R278). -/
inductive RailPoint where
  | field (f : Field) (i : Fin 294)
  | module (i : Fin 52)
  deriving DecidableEq, Repr

/-- What a maquette update works on (R288, R289). The node coefficients are measured at casting and not given by
the manual, so the 64 node temperatures and the 24 predictions arrive with the command, in 0.1 °C. busy lists, for
each physical tile s of the field, the busy array quadrants (R290). -/
structure MqMeasure where
  nodes : List Nat
  pred : List Nat
  busy : List (Fin 96 × Fin 4)
  deriving DecidableEq, Repr

/-- What a LAG check works on (R292): the power the workload would draw without injection and the fixed power in W,
the mean injected fraction of each field over the last 10 ms in thousandths, and the limits that bind: the
maquette, and a converter's, the supply's or a tile regulator's. -/
structure LagEval where
  p : Nat
  pfix : Nat
  inj : List Nat
  thermal : Bool
  supply : Bool
  deriving DecidableEq, Repr

/-- A schedule entry (R297). -/
structure SchedEntry where
  time : DWord
  up : BitVec 8
  dn : BitVec 8
  ceil : BitVec 16
  valid : Bool
  deriving DecidableEq, Repr

/-- The measured values of one telemetry set (R305), in the units of the telemetry page. -/
structure TelemetrySet where
  p : BitVec 16
  tin : BitVec 16
  tout : BitVec 16
  q : BitVec 16
  tdie : BitVec 16
  ft : List (BitVec 16 × BitVec 16)
  deriving DecidableEq, Repr

/-- A trained element of the ledger (R316): a crossing of a shaft (R24), a bank of a shaft, a Yurno lane, a path
resistance (R275), the maquette of a field (R288), P_fix (R292), the VLOGIC trim of a physical tile (R294). -/
inductive LedgerElem where
  | crossing (f : Field) (shaft : Fin 96) (c : Fin 5)
  | bank (f : Field) (shaft : Fin 96) (b : Fin 32)
  | lane (y : Port) (l : Lane)
  | path (f : Field) (i : Fin 294)
  | maquette (f : Field)
  | pfix
  | vlogic (f : Field) (shaft : Fin 96)
  deriving DecidableEq, Repr

/-- What a stage measures of one trained element (R316): the reading of its nearest junction sensor in °C before the
training, whether a valid ledger entry passes its verification, and the setting that a retraining finds. -/
structure ElemReport where
  elem : LedgerElem
  temp : Nat
  verifies : Bool
  found : Nat
  deriving DecidableEq, Repr

/-- What the end of a casting stage found (Table 14.1): physical tiles that failed in stages 8 and 10, single failing
cell rows (tile, group, row), the trained elements, the host ports trained, and the ports trained. -/
structure StageReport where
  failed : List (Fin 96 × Fin 48)
  cellRows : List (Fin 96 × Fin 48 × Fin 8 × Fin 33)
  elems : List ElemReport
  hostTrained : List HostPort
  portsUp : List Port
  converterFailed : List Field
  tieFailed : List (Field × Bool)
  linkFailed : List (Fin 96 × Fin 48 × Fin 4)
  deriving DecidableEq, Repr

/-- The contents of a DISCOVER message (R317). -/
structure DiscoverInfo where
  serial : BitVec 128
  moduleId : BitVec 16
  port : BitVec 8
  split : BitVec 2
  deriving DecidableEq, Repr

/-- The tile faults of R323 that a detector reports on its own. -/
inductive TileFaultCause where
  | bParity (row : Fin 256)
  | accUe
  | cisternUe (quarter : Nat)
  | ivr
  | checker
  deriving DecidableEq, Repr

/-- A transport endpoint of the service processor (R343, R347). -/
inductive Endpoint where
  | i3c
  | host (h : HostPort)
  | mailbox
  deriving DecidableEq, Repr

/-- PLDM numeric sensors: values of the latest telemetry set (R344). -/
inductive NumSensor where
  | power | inlet | outlet | flow | die
  | fieldTemp (f : Field)
  | fieldPower (f : Field)
  deriving DecidableEq, Repr

/-- PLDM state sensors (R344). -/
inductive StateSensor where
  | casting | svcMode | stopped
  deriving DecidableEq, Repr

/-- A firmware component to activate (R346). -/
inductive FwComponent where
  | sniwin (version : Nat) (hash : Hash)
  | serdes (y : Port) (version : Nat) (hash : Hash)
  | microcode (p : Part) (latenciesOk : Bool) (version : Nat) (hash : Hash)
  deriving DecidableEq, Repr

/-- The commands. Each constructor is one row of the table, under its rule. -/
inductive Instr where
  /-- ADD (R356). -/
  | add (t : Tile) (gd : GReg) (ga : GReg) (gb : GReg)
  /-- SUB (R356). -/
  | sub (t : Tile) (gd : GReg) (ga : GReg) (gb : GReg)
  /-- AND (R356). -/
  | and (t : Tile) (gd : GReg) (ga : GReg) (gb : GReg)
  /-- OR (R356). -/
  | or (t : Tile) (gd : GReg) (ga : GReg) (gb : GReg)
  /-- XOR (R356). -/
  | xor (t : Tile) (gd : GReg) (ga : GReg) (gb : GReg)
  /-- SLL (R356). -/
  | sll (t : Tile) (gd : GReg) (ga : GReg) (gb : GReg)
  /-- SRL (R356). -/
  | srl (t : Tile) (gd : GReg) (ga : GReg) (gb : GReg)
  /-- SRA (R356). -/
  | sra (t : Tile) (gd : GReg) (ga : GReg) (gb : GReg)
  /-- SLT (R356). -/
  | slt (t : Tile) (gd : GReg) (ga : GReg) (gb : GReg)
  /-- SLTU (R356). -/
  | sltu (t : Tile) (gd : GReg) (ga : GReg) (gb : GReg)
  /-- MUL (R356). -/
  | mul (t : Tile) (gd : GReg) (ga : GReg) (gb : GReg)
  /-- MULHU (R356). -/
  | mulhu (t : Tile) (gd : GReg) (ga : GReg) (gb : GReg)
  /-- MULH (R356). -/
  | mulh (t : Tile) (gd : GReg) (ga : GReg) (gb : GReg)
  /-- ADDI (R356). -/
  | addi (t : Tile) (gd : GReg) (ga : GReg) (imm : BitVec 16)
  /-- ANDI (R356). -/
  | andi (t : Tile) (gd : GReg) (ga : GReg) (imm : BitVec 16)
  /-- ORI (R356). -/
  | ori (t : Tile) (gd : GReg) (ga : GReg) (imm : BitVec 16)
  /-- XORI (R356). -/
  | xori (t : Tile) (gd : GReg) (ga : GReg) (imm : BitVec 16)
  /-- SLTI (R356). -/
  | slti (t : Tile) (gd : GReg) (ga : GReg) (imm : BitVec 16)
  /-- LUI (R356). -/
  | lui (t : Tile) (gd : GReg) (imm : BitVec 16)
  /-- SLLI (R356). -/
  | slli (t : Tile) (gd : GReg) (ga : GReg) (amount : BitVec 5)
  /-- SRLI (R356). -/
  | srli (t : Tile) (gd : GReg) (ga : GReg) (amount : BitVec 5)
  /-- SRAI (R356). -/
  | srai (t : Tile) (gd : GReg) (ga : GReg) (amount : BitVec 5)
  /-- UNDEFINED_INSTRUCTION (R35). -/
  | undefinedInstruction (t : Tile) (w : BitVec 32)
  /-- LOAD (R357). -/
  | load (t : Tile) (gr : GReg) (ga : GReg) (size : BitVec 2) (sx : Bool) (space : BitVec 2) (imm : BitVec 9)
  /-- STORE (R357). -/
  | store (t : Tile) (gr : GReg) (ga : GReg) (size : BitVec 2) (sx : Bool) (space : BitVec 2) (imm : BitVec 9)
  /-- BRANCH_EQ (R358). -/
  | branchEq (t : Tile) (ga : GReg) (gb : GReg) (off : BitVec 12)
  /-- BRANCH_NE (R358). -/
  | branchNe (t : Tile) (ga : GReg) (gb : GReg) (off : BitVec 12)
  /-- BRANCH_LT (R358). -/
  | branchLt (t : Tile) (ga : GReg) (gb : GReg) (off : BitVec 12)
  /-- BRANCH_GE (R358). -/
  | branchGe (t : Tile) (ga : GReg) (gb : GReg) (off : BitVec 12)
  /-- BRANCH_LTU (R358). -/
  | branchLtu (t : Tile) (ga : GReg) (gb : GReg) (off : BitVec 12)
  /-- BRANCH_GEU (R358). -/
  | branchGeu (t : Tile) (ga : GReg) (gb : GReg) (off : BitVec 12)
  /-- JR (R358). -/
  | jr (t : Tile) (ga : GReg) (gb : GReg)
  /-- JAL (R358). -/
  | jal (t : Tile) (ga : GReg) (off : BitVec 12)
  /-- BRANCH_PLUMB_ALARM (R110). -/
  | branchPlumbAlarm (t : Tile) (clr : Bool) (off : BitVec 12)
  /-- PHASE (R284). -/
  | phase (t : Tile) (id : BitVec 10)
  /-- HALT (R40). -/
  | halt (t : Tile)
  /-- TRET (R40). -/
  | tret (t : Tile)
  /-- IBUF_SWAP (R36). -/
  | ibufSwap (t : Tile)
  /-- TRAP_ENTRY (R38). -/
  | trapEntry (t : Tile)
  /-- TRAP_STEP_OVERRUN (R54). -/
  | trapStepOverrun (t : Tile)
  /-- SEQ_RUN (R40). -/
  | seqRun (m : Master) (t : Tile)
  /-- SEQ_HALT_REQ (R40). -/
  | seqHaltReq (m : Master) (t : Tile)
  /-- IBUF_FILL_COMPLETE (R36). -/
  | ibufFillComplete (t : Tile) (src : BitVec 48)
  /-- STORE_BUFFER_DRAIN (R56). -/
  | storeBufferDrain (t : Tile) (granule : BitVec 48)
  /-- FENCE (R203). -/
  | fence (t : Tile)
  /-- ARRIVE (R203). -/
  | arrive (t : Tile) (handle : BitVec 10) (gn : GReg) (gd : GReg)
  /-- ARRIVE_STEP (R50). -/
  | arriveStep (t : Tile) (handle : BitVec 10) (gd : GReg)
  /-- WAIT (R203). -/
  | wait (t : Tile) (handle : BitVec 10) (gs : GReg)
  /-- WEIR_RESET (R203). -/
  | weirReset (t : Tile) (handle : BitVec 10)
  /-- IMAGE_END (R55). -/
  | imageEnd (p : Part)
  /-- VSLOT_WRITE (R46). -/
  | vslotWrite (m : Master) (t : Tile) (w : Fin 8) (v : BitVec 32)
  /-- FLD_REMAP_WRITE (R17). -/
  | fldRemapWrite (m : Master) (f : Field) (v : BitVec 32)
  /-- FLD_WMAP_WRITE (R17). -/
  | fldWmapWrite (m : Master) (f : Field) (v : BitVec 32)
  /-- LTRIM_WRITE (R25). -/
  | ltrimWrite (m : Master) (f : Field) (shaft : Fin 96) (v : BitVec 32)
  /-- SEAM_HELD_RELEASE (R28). -/
  | seamHeldRelease (f : Field) (a : Adapter)
  /-- SELF_REFRESH_EXIT (R23). -/
  | selfRefreshExit (f : Field)
  /-- MM_FULL (R77). -/
  | mmFull (t : Tile) (passes : BitVec 2) (acc : Bool) (ga : GReg) (gm : GReg) (gd : GReg) (afmt : BitVec 4)
  /-- MM_HALF (R77). -/
  | mmHalf (t : Tile) (passes : BitVec 2) (acc : Bool) (ga : GReg) (gm : GReg) (gd : GReg) (afmt : BitVec 4)
  /-- MM_QUAD (R68). -/
  | mmQuad (t : Tile) (passes : BitVec 2) (acc : Bool) (ga : GReg) (gm : GReg) (gd : GReg) (afmt : BitVec 4)
  /-- MM_NARROW (R77). -/
  | mmNarrow (t : Tile) (passes : BitVec 2) (acc : Bool) (ga : GReg) (gm : GReg) (gd : GReg) (afmt : BitVec 4)
  /-- MM_LDB (R65). -/
  | mmLdb (t : Tile) (shape : Shape) (bfmt : BitVec 4) (gb : GReg) (gn : GReg)
  /-- B_LOAD_COMPLETE (R64). -/
  | bLoadComplete (t : Tile)
  /-- MM_RDOUT (R74). -/
  | mmRdout (t : Tile) (gs : GReg) (gc : GReg) (ofmt : BitVec 4) (gk : GReg) (clr : Bool) (int : Bool)
  /-- MM_WAIT (R78). -/
  | mmWait (t : Tile)
  /-- B_PARITY_CHECK (R75). -/
  | bParityCheck (t : Tile) (cellRow : Fin 256)
  /-- ARR_SPARE_WRITE (R61). -/
  | arrSpareWrite (m : Master) (t : Tile) (hi : Bool) (v : BitVec 32)
  /-- V_ADD (R98). -/
  | vAdd (t : Tile) (o : VOp)
  /-- V_SUB (R98). -/
  | vSub (t : Tile) (o : VOp)
  /-- V_MUL (R98). -/
  | vMul (t : Tile) (o : VOp)
  /-- V_DIV (R98). -/
  | vDiv (t : Tile) (o : VOp)
  /-- V_SQRT (R98). -/
  | vSqrt (t : Tile) (o : VOp)
  /-- V_MIN (R98). -/
  | vMin (t : Tile) (o : VOp)
  /-- V_MAX (R98). -/
  | vMax (t : Tile) (o : VOp)
  /-- V_MINNUM (R98). -/
  | vMinnum (t : Tile) (o : VOp)
  /-- V_MAXNUM (R98). -/
  | vMaxnum (t : Tile) (o : VOp)
  /-- V_ABS (R98). -/
  | vAbs (t : Tile) (o : VOp)
  /-- V_NEG (R98). -/
  | vNeg (t : Tile) (o : VOp)
  /-- V_CPSGN (R98). -/
  | vCpsgn (t : Tile) (o : VOp)
  /-- V_RINT (R98). -/
  | vRint (t : Tile) (o : VOp)
  /-- V_SCALEB (R98). -/
  | vScaleb (t : Tile) (o : VOp)
  /-- V_LOGB (R98). -/
  | vLogb (t : Tile) (o : VOp)
  /-- FMA (R100). -/
  | fma (t : Tile) (o : VOp)
  /-- FMS (R100). -/
  | fms (t : Tile) (o : VOp)
  /-- NFMA (R100). -/
  | nfma (t : Tile) (o : VOp)
  /-- NFMS (R100). -/
  | nfms (t : Tile) (o : VOp)
  /-- CVT (R94). -/
  | cvt (t : Tile) (vd : VReg) (va : VReg) (src : BitVec 4) (dst : BitVec 4) (prec : Bool) (rm : BitVec 3)
  /-- CVT_MX (R101). -/
  | cvtMx (t : Tile) (vd : VReg) (va : VReg) (dst : BitVec 4) (prec : Bool) (rm : BitVec 3)
  /-- CVT_I (R100). -/
  | cvtI (t : Tile) (o : VOp)
  /-- VCMP_EQ (R100). -/
  | vcmpEq (t : Tile) (o : VOp)
  /-- VCMP_LT (R100). -/
  | vcmpLt (t : Tile) (o : VOp)
  /-- VCMP_LE (R100). -/
  | vcmpLe (t : Tile) (o : VOp)
  /-- VCMP_UN (R100). -/
  | vcmpUn (t : Tile) (o : VOp)
  /-- VCMP_SLT (R100). -/
  | vcmpSlt (t : Tile) (o : VOp)
  /-- VCMP_SLE (R100). -/
  | vcmpSle (t : Tile) (o : VOp)
  /-- VCMP_CLASS (R100). -/
  | vcmpClass (t : Tile) (o : VOp)
  /-- PADD (R102). -/
  | padd (t : Tile) (o : VOp)
  /-- PRED (R102). -/
  | pred (t : Tile) (o : VOp)
  /-- PFIN (R102). -/
  | pfin (t : Tile) (o : VOp)
  /-- VLD (R100). -/
  | vld (t : Tile) (vd : VReg) (ga : GReg)
  /-- VST (R100). -/
  | vst (t : Tile) (vd : VReg) (ga : GReg)
  /-- VRED_SUM (R100). -/
  | vredSum (t : Tile) (o : VOp)
  /-- VRED_MAX (R100). -/
  | vredMax (t : Tile) (o : VOp)
  /-- VRED_MIN (R100). -/
  | vredMin (t : Tile) (o : VOp)
  /-- FMODE_WRITE (R95). -/
  | fmodeWrite (m : Master) (t : Tile) (v : BitVec 32)
  /-- PLB_CTL_WRITE (R106). -/
  | plbCtlWrite (m : Master) (t : Tile) (v : BitVec 32)
  /-- PLB_CLR (R109). -/
  | plbClr (m : Master) (t : Tile)
  /-- PLUMB_RECOMPUTE_DONE (R108). -/
  | plumbRecomputeDone (t : Tile)
  /-- DMA_GO (R122). -/
  | dmaGo (t : Tile) (ch : Chan) (gr : GReg) (tag : BitVec 8)
  /-- DMA_WAIT (R123). -/
  | dmaWait (t : Tile) (ch : Chan) (all : Bool) (gd : GReg) (tag : BitVec 8)
  /-- DMA_PROG (R132). -/
  | dmaProg (t : Tile) (ch : Chan) (gd : GReg)
  /-- DMA_RESUME (R135). -/
  | dmaResume (who : DmaOrder) (t : Tile) (ch : Chan)
  /-- DMA_CLEAR (R135). -/
  | dmaClear (who : DmaOrder) (t : Tile) (ch : Chan)
  /-- DMA_ABORT (R135). -/
  | dmaAbort (who : DmaOrder) (t : Tile) (ch : Chan)
  /-- DMA_LINEAR (R124). -/
  | dmaLinear (t : Tile) (ch : Chan)
  /-- DMA_STRIDED (R124). -/
  | dmaStrided (t : Tile) (ch : Chan)
  /-- DMA_GATHER (R130). -/
  | dmaGather (t : Tile) (ch : Chan)
  /-- DMA_SCATTER (R130). -/
  | dmaScatter (t : Tile) (ch : Chan)
  /-- DMA_SKEW (R127). -/
  | dmaSkew (t : Tile) (ch : Chan)
  /-- DMA_TRANSPOSE (R128). -/
  | dmaTranspose (t : Tile) (ch : Chan)
  /-- DMA_RAGGED_WALK (R129). -/
  | dmaRaggedWalk (t : Tile) (ch : Chan)
  /-- DMA_ENGINE_COMMAND_LIST (R130). -/
  | dmaEngineCommandList (t : Tile) (ch : Chan)
  /-- DMA_CISTERN_FILL (R131). -/
  | dmaCisternFill (t : Tile) (ch : Chan)
  /-- DMA_CISTERN_COPY (R131). -/
  | dmaCisternCopy (t : Tile) (ch : Chan)
  /-- DMA_MODE_UNDEFINED (R126). -/
  | dmaModeUndefined (t : Tile) (ch : Chan)
  /-- DMA_GRANULE (R132). -/
  | dmaGranule (t : Tile) (ch : Chan)
  /-- ECC_WRITE_BACK (R118). -/
  | eccWriteBack (t : Tile) (quarter : Nat)
  /-- ENG_ISSUE (R151). -/
  | engIssue (t : Tile) (gr : GReg)
  /-- ENG_WAIT (R151). -/
  | engWait (t : Tile) (gd : GReg)
  /-- ENG_ENTRY_ACCEPT (R150). -/
  | engEntryAccept (t : Tile) (entry : BitVec 128)
  /-- WADD (R148). -/
  | wadd (t : Tile) (bank : Fin 32)
  /-- WSCALE (R148). -/
  | wscale (t : Tile) (bank : Fin 32)
  /-- WAXPY (R148). -/
  | waxpy (t : Tile) (bank : Fin 32)
  /-- WREDUCE (R148). -/
  | wreduce (t : Tile) (bank : Fin 32)
  /-- WFILL (R148). -/
  | wfill (t : Tile) (bank : Fin 32)
  /-- WCOPY (R148). -/
  | wcopy (t : Tile) (bank : Fin 32)
  /-- WXPND (R158). -/
  | wxpnd (t : Tile) (bank : Fin 32)
  /-- WSCRUB (R159). -/
  | wscrub (t : Tile) (bank : Fin 32)
  /-- ENG_COMMAND_COMPLETE (R152). -/
  | engCommandComplete (t : Tile) (bank : Fin 32)
  /-- REFRESH (R141). -/
  | refresh (f : Field)
  /-- TWIN_MIRROR (R146). -/
  | twinMirror (t : Tile) (granule : BitVec 48)
  /-- TWIN_RETRY (R147). -/
  | twinRetry (t : Tile) (granule : BitVec 48)
  /-- TWIN_WRITE (R145). -/
  | twinWrite (m : Master) (t : Tile) (e : Fin 8) (word : Fin 4) (v : BitVec 32)
  /-- SCRUB_START (R159). -/
  | scrubStart (m : Master) (t : Tile) (v : BitVec 32)
  /-- SCRUB_DONE (R159). -/
  | scrubDone (t : Tile)
  /-- BACKOFF_EXPIRY (R185). -/
  | backoffExpiry (pp : PortPage) (req : Nat)
  /-- PORT_FREEZE (R188). -/
  | portFreeze (m : Master) (pp : PortPage)
  /-- PORT_RELEASE (R188). -/
  | portRelease (m : Master) (pp : PortPage)
  /-- PORT_DRAINED (R188). -/
  | portDrained (pp : PortPage)
  /-- SOFT_RESET (R256). -/
  | softReset (m : Master) (page : BitVec 48)
  /-- ARB_CTL_WRITE (R190). -/
  | arbCtlWrite (m : Master) (pp : PortPage) (v : BitVec 32)
  /-- SEAM_CTL_WRITE (R192). -/
  | seamCtlWrite (m : Master) (f : Field) (a : Adapter) (v : BitVec 32)
  /-- PART_CFG_WRITE (R193). -/
  | partCfgWrite (m : Master) (p : Part) (v : BitVec 32)
  /-- ENABLE (R194). -/
  | enable (m : Master) (p : Part)
  /-- DISABLE (R194). -/
  | disable (m : Master) (p : Part)
  /-- STEP_PREEMPTION (R210). -/
  | stepPreemption (m : Master) (p : Part)
  /-- IMMEDIATE_PREEMPTION (R211). -/
  | immediatePreemption (m : Master) (p : Part)
  /-- SAVE_COMPLETE (R211). -/
  | saveComplete (p : Part)
  /-- RESTORE (R213). -/
  | restore (m : Master) (p : Part)
  /-- DISCARD_RECORD (R196). -/
  | discardRecord (m : Master) (p : Part)
  /-- GRACEFUL_RESET (R199). -/
  | gracefulReset (m : Master) (p : Part)
  /-- ABRUPT_RESET (R199). -/
  | abruptReset (m : Master) (p : Part)
  /-- RESET_COMPLETE (R199). -/
  | resetComplete (p : Part)
  /-- PART_CMD_UNDEFINED (R196). -/
  | partCmdUndefined (m : Master) (p : Part) (code : BitVec 4)
  /-- WEIR_MAP_WRITE (R201). -/
  | weirMapWrite (m : Master) (p : Part) (handle : BitVec 10) (thr : Bool) (v : BitVec 32)
  /-- TABLE_REGION_WRITE (R206). -/
  | tableRegionWrite (m : Master) (p : Part) (len : Bool) (v : BitVec 32)
  /-- MAP (R207). -/
  | map (m : Master) (p : Part) (c : MapArgs)
  /-- UNMAP (R207). -/
  | unmap (m : Master) (p : Part) (c : MapArgs)
  /-- PROTECT (R207). -/
  | protect (m : Master) (p : Part) (c : MapArgs)
  /-- MAP_OP_INVALID (R207). -/
  | mapOpInvalid (m : Master) (p : Part) (c : MapArgs)
  /-- MAP_COMMAND_COMPLETE (R209). -/
  | mapCommandComplete (p : Part)
  /-- TRANSLATION_WALK (R208). -/
  | translationWalk (t : Tile) (va : BitVec 48) (wr : Bool)
  /-- FLIT_RECEIVE (R225). -/
  | flitReceive (y : Port) (sub : Sub) (flit : Flit)
  /-- CREDIT_RETURN (R223). -/
  | creditReturn (y : Port) (sub : Sub) (vc : Fin 4)
  /-- SUBPORT_RETRAIN_DONE (R226). -/
  | subportRetrainDone (y : Port) (sub : Sub)
  /-- SUBPORT_LOST (R230). -/
  | subportLost (y : Port) (sub : Sub)
  /-- LANE_WINDOW (R227). -/
  | laneWindow (y : Port) (lane : Lane) (uc : Nat)
  /-- LANE_LOSS_OF_LOCK (R227). -/
  | laneLossOfLock (y : Port) (lane : Lane)
  /-- SWAP_REQUEST (R227). -/
  | swapRequest (y : Port) (lane : Lane)
  /-- LANE_RETRAIN_DONE (R228). -/
  | laneRetrainDone (y : Port) (lane : Lane) (pass : Bool)
  /-- BACKGROUND_RETRAIN (R229). -/
  | backgroundRetrain (y : Port)
  /-- YP_CTL_WRITE (R219). -/
  | ypCtlWrite (m : Master) (y : Port) (v : BitVec 32)
  /-- YP_ALT_WRITE (R230). -/
  | ypAltWrite (m : Master) (y : Port) (v : BitVec 32)
  /-- YOP_DOORBELL (R232). -/
  | yopDoorbell (t : Tile) (y : Port) (v : BitVec 32)
  /-- PUT (R234). -/
  | put (y : Port) (r : YReq) (data : Bytes)
  /-- GET (R234). -/
  | get (y : Port) (r : YReq)
  /-- ATOMIC_ADD64 (R234). -/
  | atomicAdd64 (y : Port) (r : YReq) (a : YAtomic)
  /-- ATOMIC_SWAP64 (R234). -/
  | atomicSwap64 (y : Port) (r : YReq) (a : YAtomic)
  /-- ATOMIC_CAS64 (R234). -/
  | atomicCas64 (y : Port) (r : YReq) (a : YAtomic)
  /-- ATOMIC_FADD32 (R234). -/
  | atomicFadd32 (y : Port) (r : YReq) (a : YAtomic)
  /-- REDUCE_SUM (R234). -/
  | reduceSum (y : Port) (r : YReq) (fmt : BitVec 4) (data : Bytes)
  /-- REDUCE_MAX (R234). -/
  | reduceMax (y : Port) (r : YReq) (fmt : BitVec 4) (data : Bytes)
  /-- REDUCE_MIN (R234). -/
  | reduceMin (y : Port) (r : YReq) (fmt : BitVec 4) (data : Bytes)
  /-- OPERATION_COMPLETE (R235). -/
  | operationComplete (y : Port) (opId : Nat) (status : BitVec 3) (data : Bytes)
  /-- YCOL_DOORBELL (R237). -/
  | ycolDoorbell (t : Tile) (y : Port) (v : BitVec 32)
  /-- REDUCE_SCATTER (R238). -/
  | reduceScatter (y : Port)
  /-- ALL_GATHER (R238). -/
  | allGather (y : Port)
  /-- REDUCE_SCATTER_ALL_GATHER (R237). -/
  | reduceScatterAllGather (y : Port)
  /-- COLLECTIVE_MESSAGE (R240). -/
  | collectiveMessage (y : Port) (cid : BitVec 32) (stepNo : BitVec 64) (rank : Nat) (chunk : Nat) (data : Bytes)
  /-- COLLECTIVE_TIMEOUT (R240). -/
  | collectiveTimeout (y : Port) (cid : BitVec 32)
  /-- SETPOINT (R242). -/
  | setpoint (y : Port) (src : BitVec 16) (group : BitVec 16) (seq : Nat) (code : BitVec 6) (time : BitVec 64)
  /-- ACK (R241). -/
  | ack (y : Port) (src : BitVec 16) (group : BitVec 16) (seq : Nat) (status : BitVec 2)
  /-- LAG (R241). -/
  | lag (y : Port) (src : BitVec 16) (group : BitVec 16) (seq : Nat) (code : BitVec 6) (cause : BitVec 2)
  /-- SETPOINT_APPLY (R27). -/
  | setpointApply
  /-- DISCOVER (R317). -/
  | discover (y : Port) (d : DiscoverInfo)
  /-- HALT_MESSAGE (R303). -/
  | haltMessage (y : Port)
  /-- RESUME_MESSAGE (R303). -/
  | resumeMessage (y : Port)
  /-- DOWN_MESSAGE (R303). -/
  | downMessage (y : Port)
  /-- HOST_LINK_DOWN (R245). -/
  | hostLinkDown (h : HostPort)
  /-- HOST_LINK_UP (R245). -/
  | hostLinkUp (h : HostPort)
  /-- HOST_MEMORY_READ (R248). -/
  | hostMemoryRead (h : HostPort) (a : HostAddr) (n : Nat) (own : Bool)
  /-- HOST_MEMORY_WRITE (R248). -/
  | hostMemoryWrite (h : HostPort) (a : HostAddr) (data : Bytes)
  /-- HOST_WRITEBACK (R255). -/
  | hostWriteback (h : HostPort) (p : Part) (offset : BitVec 48) (d : Line)
  /-- HDM_DECODER_COMMIT (R247). -/
  | hdmDecoderCommit (h : HostPort) (p : Part) (size : BitVec 48)
  /-- BISNP_RESPONSE (R254). -/
  | bisnpResponse (h : HostPort) (p : Part) (offset : BitVec 48) (dirty : (Option Line))
  /-- BI_TIMEOUT (R254). -/
  | biTimeout (p : Part) (offset : BitVec 48)
  /-- SQ_DOORBELL (R250). -/
  | sqDoorbell (m : Master) (p : Part) (q : Fin 64) (tail : BitVec 6)
  /-- START (R41). -/
  | start (p : Part) (q : Fin 64) (img : Image)
  /-- PCMD (R250). -/
  | pcmd (p : Part) (q : Fin 64)
  /-- SQ_MAP (R250). -/
  | sqMap (p : Part) (q : Fin 64)
  /-- SQ_FENCE (R250). -/
  | sqFence (p : Part) (q : Fin 64)
  /-- SQ_UNDEFINED (R250). -/
  | sqUndefined (p : Part) (q : Fin 64)
  /-- CQ_HEAD_WRITE (R251). -/
  | cqHeadWrite (m : Master) (p : Part) (q : Fin 64) (v : BitVec 32)
  /-- HQ_POST_ID_WRITE (R252). -/
  | hqPostIdWrite (t : Tile) (q : Fin 64) (v : BitVec 32)
  /-- HQ_POST (R252). -/
  | hqPost (t : Tile) (q : Fin 64) (v : BitVec 64)
  /-- EVT_EN_WRITE (R256). -/
  | evtEnWrite (m : Master) (page : BitVec 48) (v : BitVec 32)
  /-- EVT_INJ (R256). -/
  | evtInj (m : Master) (page : BitVec 48) (v : BitVec 32)
  /-- OWNER_WRITE (R257). -/
  | ownerWrite (m : Master) (page : BitVec 48) (v : BitVec 32)
  /-- LOCK_WRITE (R257). -/
  | lockWrite (m : Master) (page : BitVec 48) (v : BitVec 32)
  /-- REGISTER_WRITE (R258). -/
  | registerWrite (m : Master) (addr : BitVec 48) (v : BitVec 32)
  /-- VIN_OUT_OF_RANGE (R261). -/
  | vinOutOfRange (mv : Nat)
  /-- VIN_LOW (R280). -/
  | vinLow (mv : Nat)
  /-- VIN_UNDERVOLTAGE (R301). -/
  | vinUndervoltage (mv : Nat)
  /-- VIN_COLLAPSE (R261). -/
  | vinCollapse (mv : Nat)
  /-- VIN_OVERVOLTAGE (R261). -/
  | vinOvervoltage (mv : Nat)
  /-- VIN_RECOVERED (R301). -/
  | vinRecovered (mv : Nat)
  /-- VHK_LOSS (R262). -/
  | vhkLoss
  /-- TIE_CLOSE (R266). -/
  | tieClose (f : Field) (next : Bool) (feeding : Bool) (mv : Nat)
  /-- TIE_OPEN (R266). -/
  | tieOpen (f : Field) (next : Bool)
  /-- CONVERTER_FAIL_OPEN (R267). -/
  | converterFailOpen (f : Field)
  /-- CONVERTER_FAIL_SHORT (R268). -/
  | converterFailShort (f : Field)
  /-- IVR_PHASE_FAIL (R272). -/
  | ivrPhaseFail (f : Field) (shaft : Fin 96)
  /-- RAIL_SAMPLE (R274). -/
  | railSample (p : RailPoint) (mv : Nat) (amps : Nat)
  /-- DEGRADE_DETECT (R275). -/
  | degradeDetect (f : Field) (path : Nat) (drop : Nat) (expected : Nat) (ms : Nat)
  /-- RAIL_MIN_READ (R274). -/
  | railMinRead (m : Master) (p : RailPoint)
  /-- CAP_RECOMPUTE (R279). -/
  | capRecompute
  /-- GOV_HCAP_WRITE (R280). -/
  | govHcapWrite (m : Master) (v : BitVec 32)
  /-- GOV_SCAP_WRITE (R280). -/
  | govScapWrite (m : Master) (v : BitVec 32)
  /-- ENERGY_UPDATE (R281). -/
  | energyUpdate (mj : Nat)
  /-- ENERGY_LO_READ (R281). -/
  | energyLoRead (m : Master)
  /-- RTH_MEASURE (R282). -/
  | rthMeasure (tdie : Nat) (tin : Nat) (pw : Nat) (stopped : Bool)
  /-- FIELD_BUDGET_ALLOCATE (R286). -/
  | fieldBudgetAllocate (paux : Nat)
  /-- FIELD_GOVERNOR_TICK (R287). -/
  | fieldGovernorTick (f : Field) (power : Nat)
  /-- TILE_GOVERNOR_TICK (R287). -/
  | tileGovernorTick (t : Tile) (amps : Nat)
  /-- MAQUETTE_UPDATE (R289). -/
  | maquetteUpdate (f : Field) (meas : MqMeasure)
  /-- TLIM_HIT (R289). -/
  | tlimHit (t : Tile) (temp : Nat)
  /-- GOV_FCEIL_WRITE (R291). -/
  | govFceilWrite (m : Master) (v : BitVec 32)
  /-- LAG_CHECK (R292). -/
  | lagCheck (e : LagEval)
  /-- BRIDGE_OVER (R293). -/
  | bridgeOver
  /-- LAG_RESEND (R293). -/
  | lagResend
  /-- RAMP_WINDOW (R295). -/
  | rampWindow (mean : Nat)
  /-- SCHED_WRITE (R297). -/
  | schedWrite (m : Master) (e : Fin 32) (c : SchedEntry)
  /-- KW_CTL_WRITE (R298). -/
  | kwCtlWrite (m : Master) (v : BitVec 32)
  /-- FLOW_ESTIMATE (R299). -/
  | flowEstimate (pw : Nat) (tout : Nat) (tin : Nat)
  /-- TELEMETRY_UPDATE (R305). -/
  | telemetryUpdate (d : TelemetrySet)
  /-- PPS_LOSS (R22). -/
  | ppsLoss
  /-- INTERNAL_THERMAL_TRIP (R301). -/
  | internalThermalTrip (f : Field) (temp : Nat)
  /-- TRAY_STOP (R301). -/
  | trayStop
  /-- TRAY_STOP_RELEASE (R301). -/
  | trayStopRelease
  /-- TRAY_FLOW_LOSS (R301). -/
  | trayFlowLoss
  /-- FLOW_RESTORED (R301). -/
  | flowRestored
  /-- GOV_STOP (R301). -/
  | govStop (m : Master)
  /-- GOV_RUN (R301). -/
  | govRun (m : Master) (hottest : Nat)
  /-- STOP_WAIT_TIMEOUT (R302). -/
  | stopWaitTimeout (hottest : Nat)
  /-- PWR_EN_RISE (R351). -/
  | pwrEnRise
  /-- PWR_EN_LOW (R351). -/
  | pwrEnLow
  /-- WARM_CASTING_REQUEST (R320). -/
  | warmCastingRequest (m : Master)
  /-- CAST_STAGE_END (R307). -/
  | castStageEnd (r : StageReport)
  /-- CAST_STAGE_TIMEOUT (R319). -/
  | castStageTimeout (f : Field) (fits : Bool)
  /-- IMAGE_BOOT_TIMEOUT (R308). -/
  | imageBootTimeout
  /-- MANIFEST_RECEIVE (R317). -/
  | manifestReceive (b : Bytes)
  /-- MANIFEST_TIMEOUT (R317). -/
  | manifestTimeout
  /-- DISCOVER_TIMEOUT (R317). -/
  | discoverTimeout (y : Port)
  /-- LEDGER_WRITE (R316). -/
  | ledgerWrite
  /-- NBR_TEST_GO (R313). -/
  | nbrTestGo (m : Master) (t : Tile)
  /-- TILE_FAULT (R323). -/
  | tileFault (t : Tile) (cause : TileFaultCause)
  /-- TILE_HANG (R323). -/
  | tileHang (t : Tile)
  /-- TILE_REPAIR (R325). -/
  | tileRepair (p : Part)
  /-- CHECKER_TEST (R324). -/
  | checkerTest (f : Field) (shaft : Fin 96) (ok : Bool)
  /-- DECANT_LINK_END (R329). -/
  | decantLinkEnd (f : Field)
  /-- STATIC_FALLBACK (R331). -/
  | staticFallback (p : Part)
  /-- RESYNC_COMPLETE (R333). -/
  | resyncComplete (t : Tile) (e : Fin 8)
  /-- RETURN_TO_SERVICE (R334). -/
  | returnToService (f : Field) (seg : Fin 8) (pass : Bool)
  /-- UPDATE_TILE_MICROCODE (R335). -/
  | updateTileMicrocode (p : Part) (latenciesOk : Bool) (hash : BitVec 384)
  /-- UPDATE_SERDES_FIRMWARE (R335). -/
  | updateSerdesFirmware (y : Port) (hash : BitVec 384)
  /-- UPDATE_SNIWIN (R335). -/
  | updateSniwin (version : Nat) (hash : BitVec 384)
  /-- SNIWIN_UPDATE_TIMEOUT (R335). -/
  | sniwinUpdateTimeout
  /-- SVP_WATCHDOG (R322). -/
  | svpWatchdog
  /-- SVC_TELEMETRY_READ (R336). -/
  | svcTelemetryRead
  /-- SVC_EVENT_LOG_READ (R336). -/
  | svcEventLogRead (back : BitVec 12)
  /-- SVC_MIN_VOLTAGE_READ (R336). -/
  | svcMinVoltageRead (p : RailPoint)
  /-- SVC_CAP_LOWERING (R336). -/
  | svcCapLowering (cap : BitVec 16)
  /-- SVC_STOP (R336). -/
  | svcStop
  /-- SVC_POWER_DOWN (R336). -/
  | svcPowerDown
  /-- SVC_ABRUPT_RESET (R336). -/
  | svcAbruptReset (p : Part)
  /-- FIELD_ISOLATION (R336). -/
  | fieldIsolation (f : Field)
  /-- SALVAGE_READ (R336). -/
  | salvageRead (a : BitVec 48) (n : Nat)
  /-- EVENT_LOG_FLUSH (R337). -/
  | eventLogFlush
  /-- FUSE_COMMIT (R339). -/
  | fuseCommit (m : Master)
  /-- FIRMWARE_ROOT_CHANGE (R339). -/
  | firmwareRootChange (m : Master) (root : BitVec 384)
  /-- DEBUG_UNLOCK (R339). -/
  | debugUnlock (m : Master)
  /-- COOLANT_TRIP_OVERRIDE (R339). -/
  | coolantTripOverride (m : Master)
  /-- PRESENCE_CONFIRM (R339). -/
  | presenceConfirm (sealIntact : Bool)
  /-- PRESENCE_WINDOW_EXPIRY (R339). -/
  | presenceWindowExpiry
  /-- SEAL_OPEN (R340). -/
  | sealOpen
  /-- OVERRIDE_EXPIRY (R339). -/
  | overrideExpiry
  /-- DBG_STOP (R342). -/
  | dbgStop (m : Master) (t : Tile)
  /-- DBG_RESUME (R342). -/
  | dbgResume (m : Master) (t : Tile)
  /-- DBG_STEP (R342). -/
  | dbgStep (m : Master) (t : Tile)
  /-- BREAKPOINT_HIT (R342). -/
  | breakpointHit (t : Tile)
  /-- GET_TID (R343). -/
  | getTid (e : Endpoint)
  /-- GET_PLDM_VERSION (R343). -/
  | getPldmVersion (e : Endpoint) (ty : BitVec 6)
  /-- GET_PLDM_TYPES (R343). -/
  | getPldmTypes (e : Endpoint)
  /-- GET_PLDM_COMMANDS (R343). -/
  | getPldmCommands (e : Endpoint) (ty : BitVec 6)
  /-- NUMERIC_SENSOR_READ (R344). -/
  | numericSensorRead (e : Endpoint) (sensor : NumSensor)
  /-- STATE_SENSOR_READ (R344). -/
  | stateSensorRead (e : Endpoint) (sensor : StateSensor)
  /-- REQUEST_UPDATE (R344). -/
  | requestUpdate (e : Endpoint)
  /-- ACTIVATE_FIRMWARE (R346). -/
  | activateFirmware (e : Endpoint) (c : FwComponent)
  /-- EVENT_LOG_FILE_READ (R343). -/
  | eventLogFileRead (e : Endpoint)
  /-- GET_DIGESTS (R343). -/
  | getDigests (e : Endpoint)
  /-- GET_CERTIFICATE (R343). -/
  | getCertificate (e : Endpoint) (slot : Nat)
  /-- CHALLENGE (R343). -/
  | challenge (e : Endpoint) (nonce : BitVec 256)
  /-- GET_MEASUREMENTS (R345). -/
  | getMeasurements (e : Endpoint) (idx : Nat) (sign : Bool)
  /-- MBX_GO (R347). -/
  | mbxGo (h : (Option HostPort))
  /-- MBX_ABORT (R347). -/
  | mbxAbort (m : Master)
  /-- SVC_BTN_PRESS (R350). -/
  | svcBtnPress (ms : Nat)
  /-- SVC_BTN_HOLD (R350). -/
  | svcBtnHold
  /-- READ_TO_CLEAR (R45). -/
  | readToClear (m : Master) (addr : BitVec 48)
  /-- PPS_RESTORED (R22). -/
  | ppsRestored
  /-- MCTP_CONTROL_MESSAGE (R343). -/
  | mctpControlMessage (e : Endpoint) (eid : BitVec 8)
  /-- ENTDAA (R343). -/
  | entdaa (addr : BitVec 7)
  deriving DecidableEq, Repr

end Sys2Proof
end

