-- ==== Sys2Proof/Decode.lean ====
section
/-!
DEFINITION. Reading an instruction from a 32-bit word: the classes of Table 2.2 (R35) with the encodings of Tables 2.8, 2.9,
2.10 (R356 … R358), R359, 3.7, 3.8 (R77, R78), 4.5 (R100), 5.4 (R121), 6.5 (R151) and 9.6 (R202). A word with an
undefined class or operation, or with a bit set that its encoding fixes at 0, is the undefined instruction. Checks that need
the registers, and values of a field that an instruction takes and then refuses, are the instruction's own.
-/

namespace Sys2Proof

/-- Bits n … n + k − 1 of an instruction word. -/
def wordFld (w : BitVec 32) (n k : Nat) : Nat := (w.extractLsb' n k).toNat

def wordBit (w : BitVec 32) (n : Nat) : Bool := w.getLsbD n

/-- The general register named by bits n … n + 4. -/
def gAt (w : BitVec 32) (n : Nat) : GReg := (w.extractLsb' n 5).toFin

/-- The vector register named by bits n … n + 3. -/
def vAt (w : BitVec 32) (n : Nat) : VReg := (w.extractLsb' n 4).toFin

/-- The channel named by bits [25:24]. -/
def chAt (w : BitVec 32) : Chan := (w.extractLsb' 24 2).toFin

/-- The shape named by bits [25:24] (Table 3.7). -/
def shapeAt (w : BitVec 32) : Shape :=
  match wordFld w 24 2 with
  | 0 => .full
  | 1 => .half
  | 2 => .quad
  | _ => .narrow

/-- The fields that the vector instructions share (R100). -/
def vopAt (w : BitVec 32) : VOp :=
  { vd := vAt w 18, va := vAt w 14, vb := vAt w 10, vc := vAt w 6, prec := wordBit w 5, rm := w.extractLsb' 2 3 }

/-- Classes 0x00 … 0x07 (Table 2.8). -/
def decodeAlu (t : Tile) (w : BitVec 32) : Instr :=
  let bad := Instr.undefinedInstruction t w
  let gd := gAt w 21
  let ga := gAt w 16
  let gb := gAt w 11
  let imm := w.extractLsb' 0 16
  match wordFld w 26 6 with
  | 0 =>
    if wordFld w 4 7 ≠ 0 then bad
    else match wordFld w 0 4 with
      | 0 => .add t gd ga gb
      | 1 => .sub t gd ga gb
      | 2 => .and t gd ga gb
      | 3 => .or t gd ga gb
      | 4 => .xor t gd ga gb
      | 5 => .sll t gd ga gb
      | 6 => .srl t gd ga gb
      | 7 => .sra t gd ga gb
      | 8 => .slt t gd ga gb
      | 9 => .sltu t gd ga gb
      | 10 => .mul t gd ga gb
      | 11 => .mulhu t gd ga gb
      | 12 => .mulh t gd ga gb
      | _ => bad
  | 1 => .addi t gd ga imm
  | 2 => .andi t gd ga imm
  | 3 => .ori t gd ga imm
  | 4 => .xori t gd ga imm
  | 5 => if wordFld w 16 5 ≠ 0 then bad else .lui t gd imm
  | 6 =>
    if wordFld w 5 9 ≠ 0 then bad
    else match wordFld w 14 2 with
      | 0 => .slli t gd ga (w.extractLsb' 0 5)
      | 1 => .srli t gd ga (w.extractLsb' 0 5)
      | 2 => .srai t gd ga (w.extractLsb' 0 5)
      | _ => bad
  | 7 => .slti t gd ga imm
  | _ => bad

/-- Class 0x08 (Table 2.9). -/
def decodeMem (t : Tile) (w : BitVec 32) : Instr :=
  let space := w.extractLsb' 9 2
  if space = 3 then .undefinedInstruction t w
  else match wordFld w 14 2 with
    | 0 => .load t (gAt w 21) (gAt w 16) (w.extractLsb' 12 2) (wordBit w 11) space (w.extractLsb' 0 9)
    | 1 => .store t (gAt w 21) (gAt w 16) (w.extractLsb' 12 2) (wordBit w 11) space (w.extractLsb' 0 9)
    | _ => .undefinedInstruction t w

/-- Class 0x09 (Table 2.10). -/
def decodeBranch (t : Tile) (w : BitVec 32) : Instr :=
  let bad := Instr.undefinedInstruction t w
  let ga := gAt w 21
  let gb := gAt w 16
  let off := w.extractLsb' 0 12
  match wordFld w 12 4 with
  | 0 => .branchEq t ga gb off
  | 1 => .branchNe t ga gb off
  | 2 => .branchLt t ga gb off
  | 3 => .branchGe t ga gb off
  | 4 => .branchLtu t ga gb off
  | 5 => .branchGeu t ga gb off
  | 13 => if off = 0 then .jr t ga gb else bad
  | 14 => if wordFld w 22 4 = 0 ∧ gb = 0 then .branchPlumbAlarm t (wordBit w 21) off else bad
  | 15 => if gb = 0 then .jal t ga off else bad
  | _ => bad

/-- Class 0x0A (Table 9.6). -/
def decodeWeir (t : Tile) (w : BitVec 32) : Instr :=
  let bad := Instr.undefinedInstruction t w
  let handle := w.extractLsb' 13 10
  let gn := gAt w 8
  let gd := gAt w 3
  if wordFld w 0 3 ≠ 0 then bad
  else match wordFld w 23 3 with
    | 0 => if handle = 0 ∧ gn = 0 ∧ gd = 0 then .fence t else bad
    | 1 => .arrive t handle gn gd
    | 2 => if gn = 0 then .arriveStep t handle gd else bad
    | 3 => if gd = 0 then .wait t handle gn else bad
    | 4 => if gn = 0 ∧ gd = 0 then .weirReset t handle else bad
    | _ => bad

/-- Classes 0x10 … 0x17 (Tables 3.7 and 3.8). -/
def decodeArray (t : Tile) (w : BitVec 32) : Instr :=
  let bad := Instr.undefinedInstruction t w
  match wordFld w 26 6 with
  | 0x10 =>
    let passes := w.extractLsb' 22 2
    let acc := wordBit w 21
    let afmt := w.extractLsb' 2 4
    if wordFld w 0 2 ≠ 0 then bad
    else match shapeAt w with
      | .full => .mmFull t passes acc (gAt w 16) (gAt w 11) (gAt w 6) afmt
      | .half => .mmHalf t passes acc (gAt w 16) (gAt w 11) (gAt w 6) afmt
      | .quad => .mmQuad t passes acc (gAt w 16) (gAt w 11) (gAt w 6) afmt
      | .narrow => .mmNarrow t passes acc (gAt w 16) (gAt w 11) (gAt w 6) afmt
  | 0x11 => if wordFld w 0 10 ≠ 0 then bad else .mmLdb t (shapeAt w) (w.extractLsb' 20 4) (gAt w 15) (gAt w 10)
  | 0x12 =>
    if wordFld w 0 5 ≠ 0 then bad
    else .mmRdout t (gAt w 21) (gAt w 16) (w.extractLsb' 12 4) (gAt w 7) (wordBit w 6) (wordBit w 5)
  | 0x13 => if wordFld w 0 26 ≠ 0 then bad else .mmWait t
  | _ => bad

/-- Classes 0x18 … 0x1F (R100, Table 4.5). Every vector instruction has the rm field, VLD and VST too. -/
def decodeVector (t : Tile) (w : BitVec 32) : Instr :=
  let bad := Instr.undefinedInstruction t w
  let o := vopAt w
  if wordFld w 0 2 ≠ 0 then bad
  else match wordFld w 26 6, wordFld w 22 4 with
    | 0x18, 0 => .vAdd t o
    | 0x18, 1 => .vSub t o
    | 0x18, 2 => .vMul t o
    | 0x18, 3 => .vDiv t o
    | 0x18, 4 => .vSqrt t o
    | 0x18, 5 => .vMin t o
    | 0x18, 6 => .vMax t o
    | 0x18, 7 => .vMinnum t o
    | 0x18, 8 => .vMaxnum t o
    | 0x18, 9 => .vAbs t o
    | 0x18, 10 => .vNeg t o
    | 0x18, 11 => .vCpsgn t o
    | 0x18, 12 => .vRint t o
    | 0x18, 14 => .vScaleb t o
    | 0x18, 15 => .vLogb t o
    | 0x19, 0 => .fma t o
    | 0x19, 1 => .fms t o
    | 0x19, 2 => .nfma t o
    | 0x19, 3 => .nfms t o
    | 0x1A, 0 => .cvt t o.vd o.va (w.extractLsb' 10 4) (w.extractLsb' 6 4) o.prec o.rm
    | 0x1A, 1 => .cvtMx t o.vd o.va (w.extractLsb' 6 4) o.prec o.rm
    | 0x1A, 2 => .cvtI t o
    | 0x1B, 0 => .vcmpEq t o
    | 0x1B, 1 => .vcmpLt t o
    | 0x1B, 2 => .vcmpLe t o
    | 0x1B, 3 => .vcmpUn t o
    | 0x1B, 4 => .vcmpSlt t o
    | 0x1B, 5 => .vcmpSle t o
    | 0x1B, 6 => .vcmpClass t o
    | 0x1C, 0 => .padd t o
    | 0x1C, 1 => .pred t o
    | 0x1C, 2 => .pfin t o
    | 0x1D, 0 => if o.rm = 5 ∨ o.rm = 6 then bad else .vld t o.vd (gAt w 13)
    | 0x1D, 1 => if o.rm = 5 ∨ o.rm = 6 then bad else .vst t o.vd (gAt w 13)
    | 0x1E, 0 => .vredSum t o
    | 0x1E, 1 => .vredMax t o
    | 0x1E, 2 => .vredMin t o
    | _, _ => bad

/-- Classes 0x20 … 0x23 (Table 5.4). -/
def decodeDma (t : Tile) (w : BitVec 32) : Instr :=
  let bad := Instr.undefinedInstruction t w
  let ch := chAt w
  let tag := w.extractLsb' 8 8
  match wordFld w 26 6 with
  | 0x20 => if wordFld w 16 3 ≠ 0 ∨ wordFld w 0 8 ≠ 0 then bad else .dmaGo t ch (gAt w 19) tag
  | 0x21 => if wordFld w 16 2 ≠ 0 ∨ wordFld w 0 8 ≠ 0 then bad else .dmaWait t ch (wordBit w 23) (gAt w 18) tag
  | 0x22 => if wordBit w 23 ∨ wordFld w 0 18 ≠ 0 then bad else .dmaProg t ch (gAt w 18)
  | 0x23 =>
    if wordFld w 2 22 ≠ 0 then bad
    else match wordFld w 0 2 with
      | 0 => .dmaResume .instr t ch
      | 1 => .dmaClear .instr t ch
      | 2 => .dmaAbort .instr t ch
      | _ => bad
  | _ => bad

/-- Class 0x24 (Table 6.5). -/
def decodeEng (t : Tile) (w : BitVec 32) : Instr :=
  if wordFld w 0 19 ≠ 0 then .undefinedInstruction t w
  else match wordFld w 24 2 with
    | 0 => .engIssue t (gAt w 19)
    | 1 => .engWait t (gAt w 19)
    | _ => .undefinedInstruction t w

/-- Class 0x3F (R359). -/
def decodeSystem (t : Tile) (w : BitVec 32) : Instr :=
  if wordFld w 0 24 ≠ 0 then .undefinedInstruction t w
  else match wordFld w 24 2 with
    | 0 => .halt t
    | 1 => .tret t
    | 2 => .ibufSwap t
    | _ => .undefinedInstruction t w

/-- The instruction that a word is for the sequencer of tile t (Table 2.2). -/
def decodeWord (t : Tile) (w : BitVec 32) : Instr :=
  let c := wordFld w 26 6
  if c ≤ 7 then decodeAlu t w
  else if c = 0x08 then decodeMem t w
  else if c = 0x09 then decodeBranch t w
  else if c = 0x0A then decodeWeir t w
  else if c = 0x0B then (if wordFld w 10 16 ≠ 0 then .undefinedInstruction t w else .phase t (w.extractLsb' 0 10))
  else if 0x10 ≤ c ∧ c ≤ 0x17 then decodeArray t w
  else if 0x18 ≤ c ∧ c ≤ 0x1F then decodeVector t w
  else if 0x20 ≤ c ∧ c ≤ 0x23 then decodeDma t w
  else if c = 0x24 then decodeEng t w
  else if c = 0x3F then decodeSystem t w
  else .undefinedInstruction t w

/-- A word that is no instruction (R35, R356 … R359). -/
def undefinedWord (w : BitVec 32) : Bool := decide (decodeWord 0 w = .undefinedInstruction 0 w)

/-- The command that a word of nbits bits spells. Only the instructions of a sequencer have bits, 32 each (R35), and a word
does not name its tile; it is read for tile 0 (log 95). -/
def decodeTableWord (nbits w : Nat) : Option Instr :=
  if nbits = 32 ∧ w < 2 ^ 32 then some (decodeWord 0 (BitVec.ofNat 32 w)) else none

end Sys2Proof
end

