-- ==== Sys2Proof/Config.lean ====
section
/-!
DEFINITION. The values the manual leaves open after a step that goes on (log 8). None has a body: nothing in Lean
evaluates one. Each is applied to State.freeCtr, which the step advances, so every use is a fresh value.
-/

namespace Sys2Proof

/-- A free number: an amount the manual does not fix, used under the bound the rule states (R155). -/
opaque Config.freeNat : Nat → Nat

/-- A free bit: which of the two neighbouring register values a figure between them is shown as. -/
opaque Config.freeBit : Nat → Bool

/-- Free bits of any width up to 2,048: an operation result that the manual and IEEE 754 leave open. -/
opaque Config.freeBits : Nat → BitVec 2048

/-- A free digest or signature: the output of keys and images the manual does not give (R343, R345). -/
opaque Config.freeHash : Nat → Hash

/-- Block type, block number and revision of a register page (BLK_ID, BLK_VER: "per block", R256). -/
opaque Config.blkId : Nat → Word
opaque Config.blkVer : Nat → Word

/-- The code within its class of an event-log entry (Table 15.7 byte 13), by the cause the model numbers it with. -/
opaque Config.logCode : Nat → BitVec 8

/-- The class of an event-log entry whose rule says that the event is logged and names no class, by its cause (log 47). -/
opaque Config.openClass : Nat → Fin 7

/-- The 4-bit master field of an event-log entry (Table 15.7): the manual gives its width and no encoding. -/
opaque Config.logMaster : Nat → BitVec 4

/-- Which of the ten bits of a class mask a class sets (Table 4.5 gives the mask's width and no order). -/
opaque Config.classBit : Nat → Fin 10

/-- The set of the snoop filter that a line of a partition's window falls into (R254: 16-way; the manual gives no index). -/
opaque Config.sfSet : Nat → Nat → Nat

/-- Does a fused multiply-add of zero, infinity and a quiet NaN raise invalid? IEEE 754 leaves it to the implementation. -/
opaque Config.fmaNanInvalid : Bool

end Sys2Proof
end

