-- ==== Sys2Proof/Machine/Bits.lean ====
section
/-!
DEFINITION. Bit fields of registers (R9: ranges are written [hi:lo], bit 0 least significant), sign extension,
and byte order (little-endian everywhere the manual lays out bytes: R63, R85, R124).
-/

namespace Sys2Proof.Machine

/-- The n bits of w from bit lo up. -/
def fld (w : Word) (lo n : Nat) : BitVec n := w.extractLsb' lo n

/-- w with its n bits from bit lo up replaced by v. -/
def setFld (w : Word) (lo : Nat) {n : Nat} (v : BitVec n) : Word :=
  (w &&& ~~~((BitVec.allOnes n).setWidth 32 <<< lo)) ||| (v.setWidth 32 <<< lo)

/-- Bit i of w. -/
def bit (w : Word) (i : Nat) : Bool := w.getLsbD i

/-- w with bit i set to b. -/
def setBit (w : Word) (i : Nat) (b : Bool) : Word := setFld w i (BitVec.ofBool b)

/-- One bit as a word. -/
def bitW (i : Nat) : Word := 1#32 <<< i

/-- A counter that saturates at 0xFFFF_FFFF (R45, R104). -/
def satAdd (w : Word) (n : Nat) : Word := BitVec.ofNat 32 (min (w.toNat + n) 0xFFFFFFFF)

/-- The low n bits of a number, sign-extended. -/
def sext (n : Nat) (x : Nat) : Int := if 2 * (x % 2 ^ n) < 2 ^ n then ((x % 2 ^ n : Nat) : Int) else ((x % 2 ^ n : Nat) : Int) - 2 ^ n

/-- Bits [lo+n-1:lo] of a number. -/
def nbits (x lo n : Nat) : Nat := (x >>> lo) % 2 ^ n

/-- Little-endian value of bytes, first byte lowest. -/
def leNat : List (BitVec 8) → Nat
  | [] => 0
  | b :: bs => b.toNat + 256 * leNat bs

/-- The n low bytes of a number, first byte lowest. -/
def toLe : Nat → Nat → List (BitVec 8)
  | 0, _ => []
  | n + 1, v => BitVec.ofNat 8 v :: toLe n (v / 256)

/-- ⌈a ÷ b⌉. -/
def ceilDiv (a b : Nat) : Nat := (a + b - 1) / b

/-- a rounded up to a multiple of b. -/
def roundUp (a b : Nat) : Nat := ceilDiv a b * b

/-- One bit of the reflected CRC-32 (R315). -/
def crcBit (c : BitVec 32) : BitVec 32 := if c.getLsbD 0 then (c >>> 1) ^^^ 0xEDB88320#32 else c >>> 1

/-- One byte of the reflected CRC-32. -/
def crcByte (c : BitVec 32) (b : BitVec 8) : BitVec 32 :=
  (List.range 8).foldl (fun c _ => crcBit c) (c ^^^ b.setWidth 32)

/-- The CRC-32 of IEEE 802.3 over bytes (R315). -/
def crc32 (bs : List (BitVec 8)) : BitVec 32 := ~~~(bs.foldl crcByte 0xFFFFFFFF#32)

end Sys2Proof.Machine
end

