-- ==== Sys2Proof/Machine/Float.lean ====
section
/-!
DEFINITION. Floating point (R84, R94, R98, R99): formats, exact values, one rounding, and the operations of IEEE 754 on
bit patterns, each with the status flags it raises.
-/

namespace Sys2Proof.Machine

/-! ## Formats (Table 4.1) -/

/-- How a format holds NaN: not at all, as IEEE does, or in the one code S.1111.111. -/
inductive NanKind where
  | none | ieee | allOnes
  deriving DecidableEq, Repr

/-- A floating-point format: exponent and mantissa bits, bias, infinity, NaN, the largest exponent field of a finite
value and the largest mantissa field there. -/
structure FFmt where
  eb : Nat
  mb : Nat
  bias : Nat
  inf : Bool
  nan : NanKind
  topE : Nat
  topM : Nat
  deriving DecidableEq, Repr

def fp4 : FFmt := ⟨2, 1, 1, false, .none, 3, 1⟩
def fp6e3 : FFmt := ⟨3, 2, 3, false, .none, 7, 3⟩
def fp6e2 : FFmt := ⟨2, 3, 1, false, .none, 3, 7⟩
def e5m2 : FFmt := ⟨5, 2, 15, true, .ieee, 30, 3⟩
def e4m3 : FFmt := ⟨4, 3, 7, false, .allOnes, 15, 6⟩
def bf16 : FFmt := ⟨8, 7, 127, true, .ieee, 254, 127⟩
def fp16 : FFmt := ⟨5, 10, 15, true, .ieee, 30, 1023⟩
def f32 : FFmt := ⟨8, 23, 127, true, .ieee, 254, 0x7FFFFF⟩
def f64 : FFmt := ⟨11, 52, 1023, true, .ieee, 2046, 0xFFFFFFFFFFFFF⟩

/-- A floating format by its code. -/
def ffmtOf (code : Nat) : Option FFmt :=
  match code with
  | 1 => some fp4 | 2 => some fp6e3 | 3 => some fp6e2 | 4 => some e5m2 | 5 => some e4m3
  | 8 => some bf16 | 9 => some fp16 | 10 => some f32 | 11 => some f64 | _ => none

/-- Width of a code in bits (Table 4.1). -/
def fmtWidth (code : Nat) : Nat :=
  match code with
  | 0 => 2 | 1 => 4 | 2 => 6 | 3 => 6 | 4 => 8 | 5 => 8 | 6 => 4 | 7 => 8 | 8 => 16 | 9 => 16 | 10 => 32 | 11 => 64
  | _ => 8

/-- CPP of a code (Table 4.1). -/
def fmtCpp (code : Nat) : Nat :=
  match code with
  | 0 => 1 | 1 => 2 | 2 => 3 | 3 => 4 | 4 => 3 | 5 => 4 | 6 => 3 | 7 => 7 | 8 => 8 | 9 => 11 | 10 => 24 | _ => 0

/-- Bits of a pattern. -/
def FFmt.width (f : FFmt) : Nat := 1 + f.eb + f.mb
/-- Exponent of a unit of the smallest binade: subnormals are multiples of 2^qmin. -/
def FFmt.qmin (f : FFmt) : Int := 1 - (f.bias : Int) - f.mb
/-- Exponent of a unit of the largest binade. -/
def FFmt.qmax (f : FFmt) : Int := (f.topE : Int) - f.bias - f.mb
/-- The significand of the largest finite value. -/
def FFmt.topSig (f : FFmt) : Nat := f.topM + 2 ^ f.mb
/-- Smallest normal exponent. -/
def FFmt.emin (f : FFmt) : Int := 1 - (f.bias : Int)
/-- Pattern of the largest finite value. -/
def FFmt.maxBits (f : FFmt) (sgn : Bool) : Nat := (if sgn then 2 ^ (f.eb + f.mb) else 0) + f.topE * 2 ^ f.mb + f.topM
/-- Pattern of infinity. -/
def FFmt.infBits (f : FFmt) (sgn : Bool) : Nat := (if sgn then 2 ^ (f.eb + f.mb) else 0) + (2 ^ f.eb - 1) * 2 ^ f.mb
/-- Pattern of zero. -/
def FFmt.zeroBits (f : FFmt) (sgn : Bool) : Nat := if sgn then 2 ^ (f.eb + f.mb) else 0
/-- Default quiet NaN (R99). -/
def FFmt.qnan (f : FFmt) : Nat := (2 ^ f.eb - 1) * 2 ^ f.mb + 2 ^ (f.mb - 1)

/-- A decoded value: NaN with its mantissa field, infinity, or sign and m × 2^e. -/
inductive FVal where
  | nan (sgn : Bool) (pay : Nat)
  | inf (sgn : Bool)
  | fin (sgn : Bool) (m : Nat) (e : Int)
  deriving DecidableEq, Repr

/-- Decode a pattern. -/
def FFmt.dec (f : FFmt) (x : Nat) : FVal :=
  let sgn := x.testBit (f.eb + f.mb)
  let ef := nbits x f.mb f.eb
  let mf := x % 2 ^ f.mb
  if f.nan = .ieee ∧ ef = 2 ^ f.eb - 1 then (if mf = 0 then .inf sgn else .nan sgn mf)
  else if f.nan = .allOnes ∧ ef = 2 ^ f.eb - 1 ∧ mf = 2 ^ f.mb - 1 then .nan sgn mf
  else if ef = 0 then .fin sgn mf f.qmin
  else .fin sgn (mf + 2 ^ f.mb) ((ef : Int) - f.bias - f.mb)

/-- Is a NaN signalling? -/
def FFmt.snan (f : FFmt) (x : Nat) : Bool :=
  match f.dec x with
  | .nan _ p => decide (f.nan = .ieee) && !p.testBit (f.mb - 1)
  | _ => false

def FVal.isNan : FVal → Bool
  | .nan _ _ => true
  | _ => false

/-! ## Status flags (FSTAT) -/

def flNv : Nat := 1
def flDz : Nat := 2
def flOf : Nat := 4
def flUf : Nat := 8
def flNx : Nat := 16

/-! ## One rounding -/

/-- Rounding directions of FMODE.rm: 0 ties to even, 1 toward zero, 2 up, 3 down, 4 ties away. Does a value whose
dropped part is r of d (r < d) round away from zero, q being the kept part? -/
def roundsUp (rm : Nat) (sgn : Bool) (q r d : Nat) : Bool :=
  match rm with
  | 0 => decide (d < 2 * r ∨ (2 * r = d ∧ q % 2 = 1))
  | 1 => false
  | 2 => decide (0 < r) && !sgn
  | 3 => decide (0 < r) && sgn
  | _ => decide (d ≤ 2 * r)

/-- m × 2^e as a multiple of 2^q, rounded: the multiple, and whether anything was lost. -/
def roundAt (rm : Nat) (sgn : Bool) (m : Nat) (e q : Int) : Nat × Bool :=
  if q ≤ e then (m * 2 ^ (e - q).toNat, false)
  else
    let d := 2 ^ (q - e).toNat
    (m / d + (if roundsUp rm sgn (m / d) (m % d) d then 1 else 0), decide (m % d ≠ 0))

/-- Number of bits of a number. -/
def bitLen (n : Nat) : Nat := if n = 0 then 0 else n.log2 + 1

/-- What an overflow gives: infinity or the largest finite value by the rounding direction. -/
def ovfBits (f : FFmt) (rm : Nat) (sgn : Bool) : Nat :=
  if rm = 1 ∨ (rm = 2 ∧ sgn) ∨ (rm = 3 ∧ !sgn) then f.maxBits sgn else f.infBits sgn

/-- Round a finite value into a format (R98; tininess after rounding). sat: an overflow gives the largest finite value
(R94). Answers the pattern, the flags, and whether it overflowed. -/
def FFmt.round (f : FFmt) (rm : Nat) (sat : Bool) (sgn : Bool) (m : Nat) (e : Int) : Nat × Nat × Bool :=
  if m = 0 then (f.zeroBits sgn, 0, false)
  else
    let ex : Int := (bitLen m : Int) - 1 + e
    let q := max (ex - f.mb) f.qmin
    let (k, lost) := roundAt rm sgn m e q
    let (k, q) := if k = 2 ^ (f.mb + 1) then (2 ^ f.mb, q + 1) else (k, q)
    if f.qmax < q ∨ (q = f.qmax ∧ f.topSig < k) then
      (if sat || !f.inf then f.maxBits sgn else ovfBits f rm sgn, flOf + flNx, true)
    else
      let tiny := decide (ex < f.emin) && decide ((roundAt rm sgn m e (ex - f.mb)).1 < 2 ^ (f.emin - ex + f.mb).toNat)
      let fl := (if lost then flNx else 0) + (if lost && tiny then flUf else 0)
      let s := f.zeroBits sgn
      (if k < 2 ^ f.mb then s + k else s + (q + f.bias + f.mb).toNat * 2 ^ f.mb + (k - 2 ^ f.mb), fl, false)

/-- Convert a decoded value into a format (R94): NaN keeps its sign and the leading payload bits; a format without NaN
takes its largest finite value. srcMb is the width of the payload. DESIGN CHOICE (log 97): the rule speaks of overflow; a
source that is infinite stays infinite in a format that has infinity, whatever FMODE.ovf holds, and saturates in one that
has none. -/
def FFmt.ofVal (f : FFmt) (rm : Nat) (sat : Bool) (srcMb : Nat) : FVal → Nat × Nat × Bool
  | .nan sgn p =>
    match f.nan with
    | .none => (f.maxBits false, flNv, false)
    | .allOnes => (f.zeroBits sgn + 2 ^ (f.eb + f.mb) - 1, 0, false)
    | .ieee =>
      -- S.11111.10 in FP8-E5M2, whatever the payload
      if f.mb = 2 then (f.infBits sgn + 2, 0, false) else
      let pay := if f.mb ≤ srcMb then p / 2 ^ (srcMb - f.mb) else p * 2 ^ (f.mb - srcMb)
      (f.infBits sgn + (pay ||| 2 ^ (f.mb - 1)), 0, false)
  | .inf sgn => if f.inf then (f.infBits sgn, 0, false) else (f.maxBits sgn, flOf + flNx, true)
  | .fin sgn m e => f.round rm sat sgn m e

/-! ## Exact sums and products -/

/-- A signed integer and an exponent. -/
def signed (sgn : Bool) (m : Nat) : Int := if sgn then -(m : Int) else m

/-- Add m1 × 2^e1 and m2 × 2^e2 exactly. -/
def addExact (m1 : Int) (e1 : Int) (m2 : Int) (e2 : Int) : Int × Int :=
  if e1 ≤ e2 then (m1 + m2 * 2 ^ (e2 - e1).toNat, e1) else (m1 * 2 ^ (e1 - e2).toNat + m2, e2)

/-- Quiet a NaN pattern (R99). -/
def FFmt.quiet (f : FFmt) (x : Nat) : Nat := x ||| 2 ^ (f.mb - 1)

/-- The NaN result of operands of which at least one is NaN (R99): the first, quieted, and invalid for a signalling one. -/
def nanOf (f : FFmt) (l : List Nat) : Nat × Nat :=
  (f.quiet ((l.find? fun x => (f.dec x).isNan).getD f.qnan), if l.any f.snan then flNv else 0)

/-- An operation that is invalid without a NaN operand (R99). -/
def invalidOp (f : FFmt) : Nat × Nat := (f.qnan, flNv)

/-- Round a signed exact value. An exact zero has the sign zs. -/
def roundInt (f : FFmt) (rm : Nat) (m e : Int) (zs : Bool) : Nat × Nat :=
  if m = 0 then (f.zeroBits zs, 0)
  else
    let r := f.round rm false (decide (m < 0)) m.natAbs e
    (r.1, r.2.1)

/-- Sign of an exact zero sum. -/
def zeroSign (rm : Nat) (s1 s2 : Bool) : Bool := if s1 = s2 then s1 else decide (rm = 3)

/-- va + vb. -/
def fAdd (f : FFmt) (rm a b : Nat) : Nat × Nat :=
  match f.dec a, f.dec b with
  | .nan _ _, _ => nanOf f [a, b]
  | _, .nan _ _ => nanOf f [a, b]
  | .inf s, .inf s' => if s = s' then (f.infBits s, 0) else invalidOp f
  | .inf s, _ => (f.infBits s, 0)
  | _, .inf s => (f.infBits s, 0)
  | .fin s m e, .fin s' m' e' =>
    let (k, q) := addExact (signed s m) e (signed s' m') e'
    roundInt f rm k q (if m = 0 ∧ m' = 0 then zeroSign rm s s' else decide (rm = 3))

/-- Negate a pattern. -/
def fNeg (f : FFmt) (a : Nat) : Nat := a ^^^ 2 ^ (f.eb + f.mb)

/-- va − vb. A NaN vb keeps its own sign. -/
def fSub (f : FFmt) (rm a b : Nat) : Nat × Nat := if (f.dec b).isNan then fAdd f rm a b else fAdd f rm a (fNeg f b)

/-- va × vb. -/
def fMul (f : FFmt) (rm a b : Nat) : Nat × Nat :=
  match f.dec a, f.dec b with
  | .nan _ _, _ => nanOf f [a, b]
  | _, .nan _ _ => nanOf f [a, b]
  | .inf s, .inf s' => (f.infBits (s != s'), 0)
  | .inf s, .fin s' m _ => if m = 0 then invalidOp f else (f.infBits (s != s'), 0)
  | .fin s m _, .inf s' => if m = 0 then invalidOp f else (f.infBits (s != s'), 0)
  | .fin s m e, .fin s' m' e' => let r := f.round rm false (s != s') (m * m') (e + e'); (r.1, r.2.1)

/-- va ÷ vb: a quotient with enough bits and a sticky bit below them. -/
def fDiv (f : FFmt) (rm a b : Nat) : Nat × Nat :=
  match f.dec a, f.dec b with
  | .nan _ _, _ => nanOf f [a, b]
  | _, .nan _ _ => nanOf f [a, b]
  | .inf _, .inf _ => invalidOp f
  | .inf s, .fin s' _ _ => (f.infBits (s != s'), 0)
  | .fin s _ _, .inf s' => (f.zeroBits (s != s'), 0)
  | .fin s m e, .fin s' m' e' =>
    if m' = 0 then (if m = 0 then invalidOp f else (f.infBits (s != s'), flDz))
    else
      let k := 2 * f.mb + 6
      let q := m * 2 ^ k / m'
      let r := f.round rm false (s != s') (2 * q + (if m * 2 ^ k % m' = 0 then 0 else 1)) (e - e' - k - 1)
      (r.1, r.2.1)

/-- Square root of va, with a sticky bit. -/
def fSqrt (f : FFmt) (rm a : Nat) : Nat × Nat :=
  match f.dec a with
  | .nan _ _ => nanOf f [a]
  | .inf s => if s then invalidOp f else (a, 0)
  | .fin s m e =>
    if m = 0 then (a, 0)
    else if s then invalidOp f
    else
      let k := 2 * (f.mb + 4)
      let (m, e) := if (e - k) % 2 = 0 then (m * 2 ^ k, e - k) else (m * 2 ^ (k + 1), e - k - 1)
      let q := Nat.sqrt m
      let r := f.round rm false false (2 * q + (if q * q = m then 0 else 1)) (e / 2 - 1)
      (r.1, r.2.1)

/-- va × vb + vc with one rounding; np negates the product and nc the addend. -/
def fFma (f : FFmt) (rm : Nat) (np nc : Bool) (a b c : Nat) : Nat × Nat :=
  let va := f.dec a
  let vb := f.dec b
  let vc := f.dec c
  let zeroInf := match va, vb with
    | .inf _, .fin _ m _ => decide (m = 0)
    | .fin _ m _, .inf _ => decide (m = 0)
    | _, _ => false
  if va.isNan || vb.isNan || vc.isNan then
    let r := nanOf f [a, b, c]
    (r.1, if r.2 = 0 && zeroInf && Config.fmaNanInvalid then flNv else r.2)
  else if zeroInf then invalidOp f
  else
    match va, vb, vc with
    | .fin s m e, .fin s' m' e', .fin t k g =>
      let ps := (s != s') != np
      let ts := t != nc
      let (n, q) := addExact (signed ps (m * m')) (e + e') (signed ts k) g
      roundInt f rm n q (if m * m' = 0 ∧ k = 0 then zeroSign rm ps ts else decide (rm = 3))
    | .fin _ _ _, .fin _ _ _, .inf t => (f.infBits (t != nc), 0)
    | x, y, z =>
      let sx := match x with | .inf s => s | .fin s _ _ => s | .nan s _ => s
      let sy := match y with | .inf s => s | .fin s _ _ => s | .nan s _ => s
      let ps := (sx != sy) != np
      match z with
      | .inf t => if (t != nc) = ps then (f.infBits ps, 0) else invalidOp f
      | _ => (f.infBits ps, 0)

/-- An ordering key: signed value of a number that is not NaN, with −0 below +0. -/
def fKey (f : FFmt) (x : Nat) : Int :=
  if x.testBit (f.eb + f.mb) then -(x % 2 ^ (f.eb + f.mb) : Nat) - 1 else (x % 2 ^ (f.eb + f.mb) : Nat)

/-- minimum and maximum (a NaN operand gives NaN), and their number forms (a NaN gives the other operand). -/
def fMinMax (f : FFmt) (isMax num : Bool) (a b : Nat) : Nat × Nat :=
  let na := (f.dec a).isNan
  let nb := (f.dec b).isNan
  let pick := if (decide (fKey f a ≤ fKey f b)) != isMax then a else b
  if na || nb then
    if num && !(na && nb) then ((if na then b else a), if f.snan a || f.snan b then flNv else 0) else nanOf f [a, b]
  else (pick, 0)

/-- Absolute value, and the magnitude of va with the sign of vb. -/
def fAbs (f : FFmt) (a : Nat) : Nat := a % 2 ^ (f.eb + f.mb)
def fCpsgn (f : FFmt) (a b : Nat) : Nat := fAbs f a + (if b.testBit (f.eb + f.mb) then 2 ^ (f.eb + f.mb) else 0)

/-- Round to an integral value; a change raises inexact (log 20). -/
def fRint (f : FFmt) (rm a : Nat) : Nat × Nat :=
  match f.dec a with
  | .nan _ _ => nanOf f [a]
  | .inf _ => (a, 0)
  | .fin s m e =>
    if 0 ≤ e then (a, 0)
    else
      let (k, lost) := roundAt rm s m e 0
      ((f.round 0 false s k 0).1, if lost then flNx else 0)

/-- The integer a finite value is, if it is one. -/
def intVal (m : Nat) (e : Int) (s : Bool) : Option Int :=
  if 0 ≤ e then some (signed s (m * 2 ^ e.toNat))
  else if m % 2 ^ (-e).toNat = 0 then some (signed s (m / 2 ^ (-e).toNat)) else none

/-- va × 2^vb, vb an integral value (log 20); other is what the lane receives where vb is not one. -/
def fScaleb (f : FFmt) (rm a b other : Nat) : Nat × Nat :=
  match f.dec a, f.dec b with
  | .nan _ _, _ => nanOf f [a, b]
  | _, .nan _ _ => nanOf f [a, b]
  | .inf s, _ => (f.infBits s, 0)
  | .fin _ _ _, .inf _ => (other % 2 ^ f.width, 0)
  | .fin s m e, .fin t n g =>
    match intVal n (min g 20) t with
    | none => (other % 2 ^ f.width, 0)
    | some k =>
      let k := max (-20000) (min 20000 k)
      let r := f.round rm false s m (e + k)
      (r.1, r.2.1)

/-- The exponent of va as a floating value (log 20). -/
def fLogb (f : FFmt) (a : Nat) : Nat × Nat :=
  match f.dec a with
  | .nan _ _ => nanOf f [a]
  | .inf _ => (f.infBits false, 0)
  | .fin _ m e =>
    if m = 0 then (f.infBits true, flDz)
    else
      let x : Int := (bitLen m : Int) - 1 + e
      ((f.round 0 false (decide (x < 0)) x.natAbs 0).1, 0)

/-- Order of two numbers that are not NaN: −1, 0 or 1. -/
def fCmp (f : FFmt) (a b : Nat) : Int :=
  match f.dec a, f.dec b with
  | .fin _ 0 _, .fin _ 0 _ => 0
  | _, _ => if fKey f a < fKey f b then -1 else if fKey f a = fKey f b then 0 else 1

/-- A comparison: its truth, and invalid for a signalling NaN, or for any NaN in a signalling form. -/
def fRel (f : FFmt) (sig : Bool) (un : Bool) (rel : Int → Bool) (a b : Nat) : Bool × Nat :=
  let n := (f.dec a).isNan || (f.dec b).isNan
  (if n then un else rel (fCmp f a b), if n && (sig || f.snan a || f.snan b) then flNv else 0)

/-- Class of a value, numbered in the order clause 5 of IEEE 754 lists them. -/
def fClass (f : FFmt) (a : Nat) : Nat :=
  match f.dec a with
  | .nan _ _ => if f.snan a then 0 else 1
  | .inf s => if s then 2 else 9
  | .fin s m _ =>
    let k := if m = 0 then 2 else if m < 2 ^ f.mb then 1 else 0
    if s then 3 + k else 8 - k

/-- Convert to a 32-bit integer: none where the value is out of range or not a number, which raises invalid. -/
def fToInt (f : FFmt) (rm a : Nat) : Option Int × Nat :=
  match f.dec a with
  | .fin s m e =>
    let (k, lost) := roundAt rm s m e 0
    let v := signed s k
    if v < -(2 ^ 31) ∨ 2 ^ 31 ≤ v then (none, flNv) else (some v, if lost then flNx else 0)
  | _ => (none, flNv)

/-- The error of a rounded sum, exact (TwoSum, R102): NaN where the sum is not finite. -/
def fErr (f : FFmt) (a b s : Nat) : Nat :=
  match f.dec a, f.dec b, f.dec s with
  | .fin sa m e, .fin sb m' e', .fin ss k g =>
    let (x, q) := addExact (signed sa m) e (signed sb m') e'
    let (y, q') := addExact x q (-(signed ss k)) g
    (roundInt f 0 y q' false).1
  | _, _, _ => f.qnan

/-- TwoSum: the sum rounded to nearest, its error, and the flags of the sum. -/
def twoSum (f : FFmt) (a b : Nat) : Nat × Nat × Nat :=
  let r := fAdd f 0 a b
  (r.1, fErr f a b r.1, r.2)

end Sys2Proof.Machine
end

