-- ==== Sys2Proof/Machine/State.lean ====
section
/-!
DEFINITION. The state of the module as plain data. Registers stand in one sparse list by device physical address
(Table 1.5); state that is no register stands in the records below. Every sparse list is in one canonical form:
keys strictly rising and no entry equal to what an unlisted key reads as.
-/

namespace Sys2Proof.Machine

/-- A sparse map: keys strictly rising, default entries not listed. -/
abbrev SMap (α : Type) := List (Nat × α)

/-! ## Tiles -/

/-- An entry of the store buffer (R56): granule is the device physical address ÷ 64; mask marks the valid bytes;
written and mirrored tell that the granule has landed in its well and, where a twin is due, in the twin (R146). -/
structure SbEntry where
  granule : Nat
  data : Line
  mask : BitVec 64
  written : Bool
  mirrored : Bool
  deriving DecidableEq, Repr

/-- The states of an instruction-buffer half (R36). -/
inductive HalfState where
  | empty | filling | complete | poisoned
  deriving DecidableEq, Repr

/-- One cell of the matrix array (Table 3.1), but for its bit counter, which is 0 between instructions (log 10). -/
structure BCell where
  sign : Bool
  m : BitVec 24
  sh : BitVec 4
  special : Bool
  parity : Bool
  deriving DecidableEq, Repr

/-- A decoded B image: cells by k × 256 + n, header entries by b × 256 + n as stored (R59, R63), and the element codes that a
plumb sample copies (R107). Rows k = 0 … 255 are the logical cell rows; row 256 + g is the physical row of group g that no
logical row stands on (R59, R61). -/
structure BImage where
  shape : Shape
  fmt : BitVec 4
  n : Nat
  cells : SMap BCell
  exps : SMap (BitVec 16)
  codes : SMap Nat
  deriving DecidableEq, Repr

/-- A shadow load (R65): its source in the cistern, the mode it latched, its place in the launch order, the FCLK cycle at
which it began, and the image once it is complete. -/
structure Shadow where
  shape : Shape
  fmt : BitVec 4
  n : Nat
  src : Nat
  fmode : Word
  ord : Nat
  at0 : Nat
  img : Option BImage
  deriving DecidableEq, Repr

/-- An entry of the array queue (R79), with the FMODE it latched (R95), the phase marked then (R109), and its place in
the order in which the tile launched its transfers (R44). -/
inductive ArrEntry where
  | compute (shape : Shape) (passes : BitVec 2) (acc : Bool) (a : Nat) (m : Nat) (d : Nat) (afmt : BitVec 4)
      (bfmt : BitVec 4) (fmode : Word) (phase : BitVec 10) (ord : Nat)
  | ldb (shape : Shape) (fmt : BitVec 4) (n : Nat) (src : Nat) (fmode : Word) (ord : Nat)
  | rdout (first : Nat) (count : Nat) (dst : Nat) (ofmt : BitVec 4) (scale : Word) (clr : Bool) (int : Bool)
      (fmode : Word) (ord : Nat)
  deriving DecidableEq, Repr

/-- A joined value, m × 2^e, or not finite (Table 3.4). -/
structure JVal where
  nan : Bool
  m : Int
  e : Int
  deriving DecidableEq, Repr

/-- A plumb capture buffer (R107): phase, the joined values of the block, and their binary32 references. -/
structure Capture where
  phase : BitVec 10
  carr : List JVal
  cref : List Word
  deriving DecidableEq, Repr

/-- A page translation (R208): partition, page number, 1 GiB or 2 MiB, target page base, permissions. -/
structure XEnt where
  part : Part
  vpn : Nat
  size : Bool
  tgt : Nat
  r : Bool
  w : Bool
  deriving DecidableEq, Repr

/-- A queued DMA descriptor (R122): its eight words as one line, its cistern offset, its tag, its place in the tile's
launch order (R44), and what the walk has read of its table: the row number and index in force of a gather or scatter
(R130), the entries (L_i, start_i) read so far of a ragged walk (R165). -/
structure DmaDesc where
  w : Line
  off : Nat
  tag : BitVec 8
  ord : Nat
  ents : List (Nat × Nat)
  deriving DecidableEq, Repr

/-- A DMA channel beside its register page (R120 … R135). The head of the queue is the running descriptor once
started holds. -/
structure DmaChan where
  /-- Queued descriptors; the head runs once started holds (R122). -/
  queue : List DmaDesc
  /-- The head has started (R124). -/
  started : Bool
  /-- Granules done of the running descriptor (R132). -/
  done : Nat
  /-- Last status of each tag (R123). -/
  tags : SMap (BitVec 2)
  /-- Status of the descriptor that ended last (R123). -/
  lastEnded : BitVec 2
  /-- Translation of the page the channel used last (R208). -/
  page : Option XEnt
  /-- Source granules the channel holds, by address: those of the granule it is moving, and in skew mode the skew buffer
  (R127). -/
  buf : SMap Line
  /-- FCLK cycle from which a wait for a full store buffer is still to be counted (R56). -/
  sbWait : Option Nat
  deriving DecidableEq, Repr

/-- An accepted engine command (R149 … R153): its entry, the issuing tile, the home-well offsets of the 2 MiB pages its
operands z, x and y touch, the channel whose command list issued it, the scrub it belongs to or not, and its place in
the tile's launch order (R44). -/
structure EngCmd where
  entry : BitVec 128
  tile : Tile
  z : List Nat
  x : List Nat
  y : List Nat
  list : Option Chan
  scrub : Bool
  ord : Nat
  deriving DecidableEq, Repr

/-- A scrub in progress (R159). -/
structure ScrubSt where
  start : Nat
  len : Nat
  at0 : Nat
  banks : List (Fin 32)
  ce : Nat
  ue : Nat
  first : Option Nat
  /-- Banks whose WSCRUB waits for a place in the bank's queue (R148). -/
  todo : List (Fin 32)
  deriving DecidableEq, Repr

/-- What an unabsorbed fault reports (R55): lost data at a device address, or a failed operation's status. -/
inductive Unabsorbed where
  | data (dpa : Nat)
  | op (status : BitVec 3)
  deriving DecidableEq, Repr

/-- The sequencer of a tile beside its registers (R35 … R40, R342). -/
structure SeqSt where
  /-- General registers g1 … g31; g0 reads 0 (R35). -/
  g : SMap Word
  /-- Byte offset of the next instruction in the active half (R358). -/
  pc : BitVec 16
  /-- The instruction buffer, both halves (R36). -/
  ibuf : SMap Word
  /-- State of half 0 (R36). -/
  half0 : HalfState
  /-- State of half 1 (R36). -/
  half1 : HalfState
  /-- The instruction at which the sequencer stands (R44). -/
  stall : Option Instr
  /-- FCLK cycle from which the stall is still to be counted (R45). -/
  stallAt : Nat
  /-- Place in the launch order at which the stalled instruction stands (R44). -/
  stallOrd : Nat
  /-- The counter CTR[n] the stall counts in, if any (Table 2.6). -/
  stallCtr : Option Nat
  /-- A trap is recorded and waits for its entry (R38). -/
  trap : Bool
  /-- An unabsorbed fault of the step, and what it reports (R55). -/
  unabsorbed : Option Unabsorbed
  /-- Parity of the step, which halves the output buffers (R50). -/
  parity : Bool
  /-- Cycle of the last issue, for the hang test of R323. -/
  lastIssue : Nat
  /-- Cycle at which the step opened, for STEP_CYC (R54). -/
  openAt : Nat
  /-- The tile is fenced (R34, R325). -/
  fenced : Bool
  /-- The tile is dark (R272). -/
  dark : Bool
  /-- A single step is armed (R342). -/
  stepArmed : Bool
  /-- A debug stop is armed (R342). -/
  stopArmed : Bool
  /-- The breakpoint at which the tile stood has been passed (R342). -/
  bpPass : Bool
  /-- Cycle of the debug stop, for DBG_STOP_CYC (R342). -/
  dbgAt : Nat
  /-- Translation of the page the sequencer used last (R208). -/
  xl : Option XEnt
  deriving DecidableEq, Repr

/-- The matrix array of a tile beside its registers (R59 … R82). accum is keyed by row × 256 + column. -/
structure ArrSt where
  /-- The array queue (R79). -/
  queue : List ArrEntry
  /-- The shadow load, waiting or complete (R65). -/
  shadow : Option Shadow
  /-- The active B with its cells and block exponents (R59 … R65). -/
  b : BImage
  /-- Cells of the register set that is not active, as its last use left them; a load writes its logical rows (R59, R65). -/
  other : SMap BCell
  /-- Shape of the B in use at issue (R77). -/
  curShape : Shape
  /-- Format of the B in use at issue (R77). -/
  curFmt : BitVec 4
  /-- Which set of B cells is active, ARR_STS.b_set (R65). -/
  bSet : Bool
  /-- Shape of the last compute, for the chaining of R79. -/
  lastShape : Option Shape
  /-- The accumulator store (R72), by row × 256 + column. -/
  accum : SMap Word
  /-- Words of the store with a correctable error (R75). -/
  accCe : List Nat
  /-- Words of the store with an uncorrectable error (R75). -/
  accUe : List Nat
  /-- Cell rows with a parity error in this step (R323). -/
  erredRows : List Nat
  deriving DecidableEq, Repr

/-- The vector unit of a tile beside its registers (R97, R106 … R109). hist is keyed by phase × 8 + bucket. -/
structure VecSt where
  /-- Vector registers v0 … v15 (R97). -/
  v : SMap VWord
  /-- Output blocks since the last plumb sample (R106). -/
  sample : Nat
  /-- Plumb capture buffers in use (R107). -/
  captures : List Capture
  /-- Deviation histogram by phase × 8 + bucket (R109). -/
  hist : SMap Nat
  deriving DecidableEq, Repr

/-- Storage and transfer engines of a tile (R56, R112 … R137, R151, R159). cistUe, cistCe and writeBack list
quarters (offset ÷ 16). launch numbers the next transfer in launch order. -/
structure MemSt where
  /-- The cistern (R112). -/
  cist : List Host.Cell
  /-- Quarters with an uncorrectable error (R117). -/
  cistUe : List Nat
  /-- Quarters with a correctable error (R117). -/
  cistCe : List Nat
  /-- Corrected quarters that wait for their write-back (R118). -/
  writeBack : List Nat
  /-- Quarters that were uncorrectable in this step (R119). -/
  erredQ : List Nat
  /-- The store buffer (R56). -/
  sb : List SbEntry
  /-- DMA channel 0 (R120). -/
  dma0 : DmaChan
  /-- DMA channel 1 (R120). -/
  dma1 : DmaChan
  /-- DMA channel 2 (R120). -/
  dma2 : DmaChan
  /-- DMA channel 3 (R120). -/
  dma3 : DmaChan
  /-- The queue of the well controller (R150). -/
  engQ : List EngCmd
  /-- A command since the last ENG.WAIT met an uncorrectable error (R154). -/
  engErr : Bool
  /-- The scrub in progress (R159). -/
  scrub : Option ScrubSt
  /-- TWIN entries that are being resynced (R333). -/
  resync : List Nat
  /-- For a DMA channel (0 … 3) or the store buffer (4) and a field f, by number + 8 × f: the FCLK cycle up to which a wait
  for a refresh has been counted (R142). -/
  bankWait : SMap Nat
  /-- Translation held by the entry path of the well controller (R208). -/
  xl : Option XEnt
  /-- Place of the next transfer in the tile's launch order (R44). -/
  launch : Nat
  deriving DecidableEq, Repr

/-- The state a physical tile carries for the logical tile mapped on it (R14, R15). -/
structure TileCore where
  seq : SeqSt
  arr : ArrSt
  vec : VecSt
  mem : MemSt
  deriving DecidableEq, Repr

/-! ## Wells -/

/-- The engine of one bank (R148): its queue, whether the head is executing, its weight buffer. -/
structure EngBank where
  /-- Queue of the bank (R148, R152). -/
  queue : List EngCmd
  /-- The head is executing (R152). -/
  running : Bool
  /-- Weight buffer of the engine (R148, R158). -/
  wbuf : List Host.Cell
  deriving DecidableEq, Repr

/-! ## Fields -/

/-- Supply of a field (R261, R264, R267, R300): off, on, stopped at retention, lost. -/
inductive Supply where
  | off | on | stopped | lost
  deriving DecidableEq, Repr

/-- A merge entry of a well port (R176, R177): shaft, block, the cycle of its first read, closed to joins or not, its
class, and its buffer: the granules it has read, none where a granule is uncorrectable. -/
structure MergeEnt where
  shaft : Nat
  block : Nat
  at0 : Nat
  closed : Bool
  cls : Nat
  lines : List (Nat × Option Line)
  deriving DecidableEq, Repr

/-- Who has a transfer under way: the sequencer, the store buffer or a DMA channel of a tile, a twin mirror of a tile, a
host port, or a Yurno port. -/
inductive ReqOf where
  | seq (t : Tile)
  | sb (t : Tile)
  | dma (t : Tile) (ch : Chan)
  | mirror (t : Tile)
  | host (h : HostPort)
  | port (y : Port)
  deriving DecidableEq, Repr

/-- A waiting request at an arbiter (R184 … R187): its port number, its class rank of Table 8.3, whose it is, whether it
has lost a decision to another scheduled one, whether it backs off and until which cycle, and whether a decision has seen
it. -/
structure ArbReq where
  port : Nat
  cls : Nat
  who : ReqOf
  again : Bool
  backing : Bool
  raise : Nat
  seen : Bool
  deriving DecidableEq, Repr

/-- An arbiter beside its register page (R184 … R188): the last port granted in each class, the requests, the losses of
each port, and the granted transfers that wait at an output further on. -/
structure Arb where
  /-- Last port granted in each class (R185). -/
  ptr : SMap Nat
  /-- Requests raised and not granted (R184). -/
  reqs : List ArbReq
  /-- Consecutive losses of each port (R185). -/
  k : SMap Nat
  /-- Granted transfers that wait at an output further on (R188). -/
  inflight : List ReqOf
  /-- Cycle of the last grant, and whose it was (R174). -/
  last : Option (Nat × ReqOf)
  deriving DecidableEq, Repr

/-- An entry of the queue of a sending seam adapter (R28, R178): a request or a response, of the scheduled class or not, and
the tile that waits for it. -/
structure HeldXfer where
  adapter : Adapter
  tile : Tile
  rsp : Bool
  sched : Bool
  deriving DecidableEq, Repr

/-- The power estimate of a phase (R285), in W. -/
structure PhaseEst where
  e : Rat
  n : Nat
  deriving DecidableEq, Repr

/-- A field beside its registers. -/
structure FieldSt where
  /-- Whether the field is powered (R261, R264, R300). -/
  supply : Supply
  /-- Casting has marked the field absent (R307, R28). -/
  absent : Bool
  /-- FCLK runs in the field (R21, R300). -/
  fclkRun : Bool
  /-- The field's PLL is on its second reference path (R22). -/
  pll2 : Bool
  /-- TSCLK at which FCLK started last (R23). -/
  fclkSince : Nat
  /-- The wells are in self-refresh (R23). -/
  selfRefresh : Bool
  /-- FCLK cycles since the start (R21, log 2). -/
  fclk : Nat
  /-- Translations of the field's unit (R208). -/
  xcache : List XEnt
  /-- Open merge entries (R176). -/
  merge : List MergeEnt
  /-- Transfers held at the field's adapters (R28). -/
  held : List HeldXfer
  /-- Power estimate of each phase (R285). -/
  est : SMap PhaseEst
  /-- Sum of the powers of the present occurrence (R285). -/
  occSum : Nat
  /-- How many powers it sums (R285). -/
  occN : Nat
  /-- Highest power seen, for R286. -/
  maxPower : Nat
  /-- Nodes of the maquette (R288). -/
  nodes : List Nat
  /-- Budget of the field before the maquette's cut (R289). -/
  budget : Nat
  /-- Cut by the maquette (R289). -/
  cut : Nat
  /-- The maquette is cutting (R289). -/
  cutting : Bool
  /-- Microseconds below the limit of the field's injection (R287). -/
  calm : Nat
  /-- Freeze fraction of each tile governor (R287). -/
  tinj : SMap Nat
  /-- Calm microseconds of each tile governor (R287). -/
  tcalm : SMap Nat
  /-- Last drop and expectation of each monitored point (R276). -/
  lastDrop : SMap (Nat × Nat)
  /-- Depth of thermal exclusion in each quadrant of a well (R161, R290). -/
  texcl : SMap Nat
  /-- Frames of the wells, WELL_FRAME (R141, log 28). -/
  frame : Nat
  /-- FCLK cycle at which the refresh of the last frame began (R141, R142). -/
  refAt : Option Nat
  deriving DecidableEq, Repr

/-! ## Partitions, queues, weirs -/

/-- A running image (R41): the body that runs, its variants, the START that waits for it, steps committed. -/
structure RunImage where
  body : ImageBody
  variants : List ImageBody
  va : Addr
  imageId : DWord
  q : Nat
  cid : BitVec 16
  committed : Nat
  deriving DecidableEq, Repr

/-- A weir (R200). -/
structure Weir where
  /-- Arrivals counted (R200). -/
  count : Word
  /-- Threshold (R200). -/
  thr : Word
  /-- Epoch (R200). -/
  epoch : BitVec 16
  /-- Tiles that wait (R203). -/
  waiters : List Tile
  /-- A release is pending (R205). -/
  pend : Bool
  /-- Partition whose map names the weir (R201). -/
  owner : Option Part
  deriving DecidableEq, Repr

/-- A weir record of a save (Table 9.10). -/
structure WeirRec where
  handle : Nat
  id : Nat
  thr : Word
  count : Word
  epoch : BitVec 16
  pend : Bool
  deriving DecidableEq, Repr

/-- What a save record holds of one tile: its core and the registers Table 9.10 and R214 name. -/
structure SavedTile where
  tile : Tile
  core : TileCore
  regs : List (Nat × Word)
  deriving DecidableEq, Repr

/-- A held tile post (R252): queue, tile, command ID, value. -/
structure Post where
  q : Nat
  tile : Tile
  cid : BitVec 16
  value : DWord
  deriving DecidableEq, Repr

/-- A queued one-sided operation of a tile (R232): its 32-byte header, and the subport. -/
structure Yop where
  tile : Tile
  hdr : BitVec 256
  sub : Sub
  opNo : BitVec 32
  deriving DecidableEq, Repr

/-- A save record (R195, R213, Tables 9.2, 9.8, 9.10). opens holds the epochs of the step's opening, for a replay after
the restore (log 33). -/
structure SaveRec where
  kind : BitVec 2
  img : RunImage
  stepNo : Nat
  tblBase : Word
  tblLen : Word
  geometry : Word
  weirs : List WeirRec
  tiles : List SavedTile
  opens : SMap (BitVec 16)
  replayed : Bool
  posts : List Post
  atomics : List (Port × List Yop)
  deriving DecidableEq, Repr

/-- A completion entry (R251) before its phase bit and SQ head are put in. -/
structure Completion where
  cid : BitVec 16
  status : Byte
  result : DWord
  deriving DecidableEq, Repr

/-- A queue pair beside its registers (R249 … R251): CQ write index and phase, held completions, SQ tail handed over,
entries still executing. -/
structure QpSt where
  /-- Next entry of the completion queue (R251). -/
  cqTail : Nat
  /-- Phase bit of the pass (R251). -/
  phase : Bool
  /-- Completions held while the queue is full or its port is down (R251). -/
  held : List Completion
  /-- Submission-queue tail handed over (R249). -/
  tail : BitVec 6
  /-- Entries still executing (R250). -/
  busy : List (BitVec 16)
  deriving DecidableEq, Repr

/-- A map command in progress (R207), or with op 3 the clearing of a new L1 table (R206): its operands and operation, the
result it will show, the SQ entry that waits, and the device range of the page whose old entry it ends, base and length
(R209). -/
structure MapJob where
  op : BitVec 2
  args : MapArgs
  result : BitVec 3
  sq : Option (Nat × BitVec 16)
  old : Option (Nat × Nat)
  deriving DecidableEq, Repr

/-- The command a partition is executing (R197): its code, when it was accepted, the SQ entries that wait. -/
structure CmdJob where
  code : BitVec 4
  at0 : Nat
  sq : List (Nat × BitVec 16)
  deriving DecidableEq, Repr

/-- An accepted START that waits (R250): its queue pair, command ID, operands and image. -/
structure StartReq where
  q : Nat
  cid : BitVec 16
  va : Addr
  imageId : DWord
  img : Image
  deriving DecidableEq, Repr

/-- The record of an atomic at its target (R231). -/
structure AtomRec where
  srcModule : BitVec 16
  srcPart : Part
  opNo : BitVec 32
  old : DWord
  deriving DecidableEq, Repr

/-- A partition beside its registers. turn is the queue pair the hub looks at next (R250). -/
structure PartSt where
  /-- The running image (R41). -/
  image : Option RunImage
  /-- Accepted STARTs that wait (R250). -/
  starts : List StartReq
  /-- Queue pair the hub looks at next (R250). -/
  turn : Nat
  /-- Pending pre-emption command (R196). -/
  pend : Option (BitVec 4)
  /-- Save record (R195, R213). -/
  record : Option SaveRec
  /-- Who enabled the partition (R194). -/
  enabledBy : Option Master
  /-- Partition command in execution (R197). -/
  job : Option CmdJob
  /-- The step has been replayed (R53). -/
  replayed : Bool
  /-- Epochs at which the weirs stood when the step opened (R53). -/
  openEpochs : SMap (BitVec 16)
  /-- Tile posts held to the commit (R52). -/
  posts : List Post
  /-- Queue pairs beside their registers (R249). -/
  qps : SMap QpSt
  /-- HQ_POST_ID of each tile (R252). -/
  latches : SMap (BitVec 16)
  /-- The queue memory of pages 128 … 191 (R249). -/
  sqMem : List Host.Cell
  /-- Map command in progress (R207). -/
  map : Option MapJob
  /-- Tiles whose fault holds the partition (R323). -/
  faulty : List Tile
  /-- Those of them that a replay alone repairs: a first uncorrectable quarter of a cistern (R118, R119). -/
  soft : List Tile
  /-- Record of the atomics done for peers: the last 4,096 of each source (R231). -/
  atoms : List AtomRec
  /-- Cell row that failed again in the step (R323, R325). -/
  cellRow : Option (Tile × Nat)
  /-- Fields lost since the image started (R331). -/
  lostFields : List Field
  /-- A graceful reset waits for a save to end (R199). -/
  gracefulPending : Bool
  /-- That reset, as a command (R196, R197). -/
  resetJob : Option CmdJob
  /-- Time at which the step opened (R338). -/
  stepAt : Nat
  /-- Releases of weirs are withheld (R53). -/
  noRelease : Bool
  /-- Start of the present unavailability (R338). -/
  lossAt : Option Nat
  /-- Tiles that return at the next commit (R334). -/
  returns : List (Field × Fin 8)
  /-- Microcode in force for the partition (R335). -/
  microcode : Hash
  deriving DecidableEq, Repr

/-! ## Yurno ports -/

/-- A collective queued, running, or retained (R237 … R240): its descriptor, the messages consumed by rank and chunk,
the ranks whose contributions the staging region holds and the rank that is added next, the partial sum of its own chunk, what it sent out, how many ring neighbours have
reported it complete and how many will. -/
structure Coll where
  tile : Tile
  desc : Line
  stepNo : DWord
  seen : List (Nat × Nat)
  parked : List Nat
  turn : Nat := 0
  acc : Bytes
  retained : List (Nat × Bytes)
  peersDone : Nat
  peersDue : Nat
  committed : Bool
  at0 : Nat
  deriving DecidableEq, Repr

/-- A collective message that came before its collective ran here. -/
structure ColMsg where
  cid : Word
  stepNo : DWord
  rank : Nat
  chunk : Nat
  data : Bytes
  deriving DecidableEq, Repr

/-- A message of a Yurno port, as the rules name it, or what the link below sends (R222, R227). -/
inductive YMsg where
  | halt | resume | down
  | setpoint (group : BitVec 16) (seq : Nat) (code : BitVec 6) (time : Nat)
  | ack (group : BitVec 16) (seq : Nat) (status : BitVec 2)
  | lag (group : BitVec 16) (seq : Nat) (code : BitVec 6) (cause : BitVec 2)
  | discover (d : DiscoverInfo)
  | resp (srcModule : BitVec 16) (srcPart : Part) (opNo : BitVec 32) (status : BitVec 3) (data : Bytes)
  | op (hdr : BitVec 256) (opNo : BitVec 32) (data : Bytes) (cmp : DWord)
  | coll (dest : Nat) (cid : Word) (stepNo : DWord) (rank : Nat) (chunk : Nat) (data : Bytes)
  | flit (bytes : Bytes)
  | swap (lane : Nat)
  deriving DecidableEq, Repr

/-- A flit that waits for its transmission or its acknowledgement (R225): channel, payload, and on the last flit of a
message that message. -/
structure TxFlit where
  vc : Nat
  payload : Bytes
  last : Option YMsg
  deriving DecidableEq, Repr

/-- One subport (R219, R223, R225): sequence numbers, the flits that wait, the replay buffer, credits by channel, credits
owed. lost tells that new operations still go to the alternate (R230). -/
structure SubSt where
  /-- Next sequence number sent (R225). -/
  txSeq : BitVec 16
  /-- Next sequence number expected (R225). -/
  rxSeq : BitVec 16
  /-- Flits that wait for transmission (R222). -/
  txq : List TxFlit
  /-- The replay buffer (R225). -/
  replay : List (BitVec 16 × TxFlit)
  /-- Credits of channel 0 (R223). -/
  cr0 : Nat
  /-- Credits of channel 1 (R223). -/
  cr1 : Nat
  /-- Credits of channel 2 (R223). -/
  cr2 : Nat
  /-- Credits of channel 3 (R223). -/
  cr3 : Nat
  /-- Credits owed to the peer on channel 0 (R223). -/
  owed0 : Nat
  /-- Credits owed to the peer on channel 1 (R223). -/
  owed1 : Nat
  /-- Credits owed to the peer on channel 2 (R223). -/
  owed2 : Nat
  /-- Credits owed to the peer on channel 3 (R223). -/
  owed3 : Nat
  /-- Resends of one sequence number (R226). -/
  resend : Nat
  /-- The sequence number resent last (R226). -/
  resendSeq : BitVec 16
  /-- A nak has been sent for the present gap (R225). -/
  nakSent : Bool
  /-- New operations still go to the alternate (R230, R334). -/
  lost : Bool
  deriving DecidableEq, Repr

/-- A Yurno port beside its registers. -/
structure PortSt where
  /-- Subport 0 (R219). -/
  sub0 : SubSt
  /-- Subport 1 (R219). -/
  sub1 : SubSt
  /-- Subport 2 (R219). -/
  sub2 : SubSt
  /-- Subport 3 (R219). -/
  sub3 : SubSt
  /-- Operations of tiles that wait (R232). -/
  ops : List Yop
  /-- Operations that wait for their answer (R232). -/
  fly : List Yop
  /-- Atomics held to the commit (R52, R233). -/
  heldAtomics : List Yop
  /-- Collectives that wait (R237). -/
  colQ : List Coll
  /-- Collectives that run (R237). -/
  colRun : List Coll
  /-- Collectives whose data is retained (R239). -/
  colRetained : List Coll
  /-- Collective messages that came before their collective. -/
  colEarly : List ColMsg
  /-- Retrain attempts of each lane (R227). -/
  retrain : SMap Nat
  /-- Number of the next operation (R231). -/
  nextOp : BitVec 32
  /-- Lane from which the background retraining goes on (R229). -/
  nextLane : Nat
  /-- Flits sent since YP_TX counted last (R243). -/
  txCount : Nat
  /-- Flits received since YP_RX counted last (R243). -/
  rxCount : Nat
  /-- The peer has sent HALT (R241). -/
  peerHalted : Bool
  /-- Casting holds the port down (R320). -/
  heldDown : Bool
  /-- What the peer has answered (R317). -/
  peer : Option DiscoverInfo
  /-- Hash of the SerDes microcode (R335). -/
  serdes : Hash
  /-- Version of the SerDes microcode (R335). -/
  serdesVersion : Nat
  deriving DecidableEq, Repr

/-! ## Host hub -/

/-- A line of the snoop filter (R254): partition, window offset ÷ 64, owner port, sharers, grant order. -/
structure SfLine where
  part : Part
  line : Nat
  owner : Option HostPort
  sharers : BitVec 4
  age : Nat
  deriving DecidableEq, Repr

/-- An outstanding back-invalidate (R254): line, BISnpInv or BISnpData, port, since when, and who waits for it. -/
structure Snoop where
  part : Part
  line : Nat
  inv : Bool
  port : HostPort
  at0 : Nat
  tile : Option Tile
  deriving DecidableEq, Repr

/-- The last accepted write of a safety field by one master (R259). -/
structure SafeWrite where
  addr : Nat
  m : Master
  at0 : Nat
  deriving DecidableEq, Repr

/-- The host hub beside its registers. decoders holds each committed decoder with its size (R247); held, the host accesses
and incoming messages that wait, oldest first. -/
structure HubSt where
  /-- Links that are up (R245). -/
  linkUp : BitVec 4
  /-- Committed decoders: host port, partition, size (R247). -/
  decoders : List (HostPort × Part × Nat)
  /-- The snoop filter (R254). -/
  sf : List SfLine
  /-- Grants of the filter so far, which orders them (R254). -/
  sfAge : Nat
  /-- Outstanding back-invalidates (R254). -/
  snoops : List Snoop
  /-- MSI-X messages that wait for their link (R253). -/
  msixPend : List (Option Part × HostPort × BitVec 11)
  /-- Host accesses and messages that wait, oldest first (R303, R188). -/
  held : List Instr
  /-- Last accepted writes of safety fields (R259). -/
  safety : List SafeWrite
  /-- Granules poisoned for an unanswered back-invalidate (R255). -/
  biPoison : List Nat
  deriving DecidableEq, Repr

/-! ## Governor and service island -/

/-- One entry of a training-ledger record (R316): the temperature in °C and the TAI time at which it was saved, and the
element's setting. -/
structure LedgerEnt where
  temp : Nat
  time : Nat
  value : Nat
  deriving DecidableEq, Repr

/-- The training ledger (R316): a record of up to four entries for each trained element. -/
abbrev Ledger := List (LedgerElem × List LedgerEnt)

/-- A pending setpoint (R241). -/
structure Setpt where
  seq : Nat
  code : BitVec 6
  time : Nat
  deriving DecidableEq, Repr

/-- The module governor beside its registers. Powers are in W and caps in 0.1 kW. -/
structure GovSt where
  /-- Energy counter (R281). -/
  energy : DWord
  /-- Latched upper half of the energy for each master (R281). -/
  latches : List (Master × Word)
  /-- Last measurements of the thermal resistance (R283). -/
  rth : List Rat
  /-- Cap that follows from them (R283). -/
  rthCap : Option Nat
  /-- Cap of the ramp limiter (R295). -/
  rampCap : Option Nat
  /-- Floor of the ramp limiter (R295). -/
  floor : Nat
  /-- Ceiling of the schedule in force (R297). -/
  ceil : Option Nat
  /-- Pending setpoint (R241). -/
  setpoint : Option Setpt
  /-- Last sequence number taken (R241). -/
  lastSeq : Option Nat
  /-- Sequence number of the setpoint in force (R241, R293). -/
  forceSeq : Nat
  /-- Answers of members to setpoints (R241). -/
  acks : List (BitVec 16 × Nat × BitVec 2)
  /-- Last LAG of each member (R293). -/
  lags : List (BitVec 16 × Nat × BitVec 6 × BitVec 2)
  /-- Start of the present injection (R292). -/
  injAt : Option Nat
  /-- Start of the bridging (R293). -/
  bridgeAt : Option Nat
  /-- The bridging has lasted its bound (R293). -/
  bridgeOver : Bool
  /-- Code of the LAG to send (R293). -/
  lagCode : BitVec 6
  /-- Cause of the LAG to send (R293). -/
  lagCause : BitVec 2
  /-- Start of the wait of 5 s after a stop (R302). -/
  waitAt : Option Nat
  /-- VIN below 46 V that limits the power (R262). -/
  vinLimit : Option Nat
  /-- The next ramp window is the first after a start (R295). -/
  firstWindow : Bool
  deriving DecidableEq, Repr

/-- One event-log entry (Table 15.7). -/
structure LogEnt where
  time : Nat
  seq : Word
  cls : Byte
  code : Byte
  unit : BitVec 16
  page : DWord
  data : DWord
  deriving DecidableEq, Repr

/-- The pins of the management connector (Table 16.3), as levels: true is high. sealed tells that the loop reads intact. -/
structure Pins where
  /-- PWR_EN. -/
  pwrEn : Bool
  /-- TRAY_STOP_N. -/
  trayStopN : Bool
  /-- TRAY_FLOW_LOSS_N. -/
  flowLossN : Bool
  /-- PPS_IN. -/
  pps : Bool
  /-- PRESENCE_N outside a press, which its command reports whole (R339). -/
  presenceN : Bool
  /-- SEAL_SENSE reads intact (R350). -/
  sealed : Bool
  /-- SLOT_ID (R348). -/
  slotId : BitVec 6
  /-- PGOOD_OUT. -/
  pgood : Bool
  /-- FAULT_N. -/
  faultN : Bool
  /-- THERM_TRIP_N. -/
  thermTripN : Bool
  deriving DecidableEq, Repr

/-- A staged presence command (R339). -/
structure Staged where
  code : BitVec 3
  at0 : Nat
  sealBroken : Bool
  root : Hash
  deriving DecidableEq, Repr

/-- How far the module is powered (R302, R307, R351): off before PWR_EN, on from cold casting, down after a power-down. -/
inductive Power where
  | off | on | down
  deriving DecidableEq, Repr

/-- The service island beside its registers (chapters 14 to 16). -/
structure SvcSt where
  /-- Levels of the pins (Table 16.3). -/
  pins : Pins
  /-- How far the module is powered (R302, R307, R351). -/
  power : Power
  /-- Time of the last power-down (R307). -/
  downAt : Nat
  /-- Voltage at VIN (R261). -/
  vin : Nat
  /-- VHK is present (R262). -/
  vhk : Bool
  /-- SLOT_ID as stage 1 sampled it (R348). -/
  slotSampled : BitVec 6
  /-- Start of the casting (R307). -/
  castAt : Nat
  /-- Retries of a stage (R319). -/
  retries : SMap Nat
  /-- Manifest of this casting (R317). -/
  manifest : Option Bytes
  /-- Manifest kept in flash (R317). -/
  manifestFlash : Option Bytes
  /-- Start of the stage (R307). -/
  stageAt : Nat
  /-- Host ports that have trained in this casting (R309). -/
  trained : List HostPort
  /-- The fuse map of failed tiles (R314). -/
  fuse : List Nat
  /-- The soft-repair list (R314). -/
  soft : SMap Nat
  /-- Tiles that failed in this casting (R314). -/
  failed : List Nat
  /-- Cell rows that failed in this casting (R314). -/
  cellRows : List (Nat × Nat × Nat)
  /-- Neighbour links that failed their test (R313). -/
  linkFail : List Nat
  /-- The training ledger as it is held in memory (R316). -/
  ledger : Ledger
  /-- The training ledger as the good flash copies hold it (R316). -/
  ledgerFlash : Ledger
  /-- The training ledger has changes that are not in flash (R316). -/
  ledgerDirty : Bool
  /-- Copy A of the ledger is good (R316, R307). -/
  ledgerA : Bool
  /-- Copy B of the ledger is good (R316, R307). -/
  ledgerB : Bool
  /-- Staged presence command (R339). -/
  staged : Option Staged
  /-- Start of an override of code 4 (R339). -/
  overrideAt : Option Nat
  /-- Debug access is unlocked by presence (R339, R342). -/
  debugUnlocked : Bool
  /-- Firmware root (R335). -/
  root : Hash
  /-- Version of firmware image A (R308). -/
  fwA : Nat
  /-- Version of firmware image B (R308). -/
  fwB : Nat
  /-- Digest of image A (R335). -/
  fwHashA : Hash
  /-- Digest of image B (R335). -/
  fwHashB : Hash
  /-- Version floor (R335). -/
  fwFloor : Nat
  /-- Image A runs (R308). -/
  runA : Bool
  /-- Sniwin runs (R335, R336). -/
  up : Bool
  /-- Start of an outage of Sniwin (R335). -/
  outageAt : Option Nat
  /-- Unavailability charged (R338). -/
  unav : Nat
  /-- Time of the stop still to be charged (R338). -/
  stoppedAt : Option Nat
  /-- Endpoint with the update session (R346). -/
  session : Option Endpoint
  /-- Ring of the event log, newest first (R337). -/
  log : List LogEnt
  /-- Sequence number of the next entry (R337). -/
  logSeq : Word
  /-- Head of the ring (R337). -/
  logHead : BitVec 12
  /-- Entries kept in flash (R337). -/
  logFlash : List LogEnt
  /-- Dynamic address of the I3C target (R343). -/
  dynAddr : Option (BitVec 7)
  /-- Endpoint IDs assigned (R343). -/
  eids : List (Endpoint × BitVec 8)
  /-- Request buffer of the mailbox (R347). -/
  mbxReq : List Host.Cell
  /-- Response buffer of the mailbox (R347). -/
  mbxRsp : List Host.Cell
  /-- Serial number of the module (R317). -/
  serial : BitVec 128
  deriving DecidableEq, Repr

/-! ## What leaves the module -/

/-- What the service processor or the island answers (R336, R343 … R347). -/
inductive SvcMsg where
  | words (ws : List Word)
  | bytes (bs : Bytes)
  | value (v : Nat)
  | names (ns : List String)
  | hash (h : Hash)
  | hashes (hs : List Hash)
  | log (e : Option LogEnt)
  | logs (es : List LogEnt)
  | event (seq : Word)
  | code (s : String)
  | done
  | refusal
  | alreadyInUpdateMode
  deriving DecidableEq, Repr

/-- What a host receives. -/
inductive HostMsg where
  | data (bs : Bytes)
  | unsupported
  | poison
  | done
  | cq (addr : Nat) (entry : BitVec 128)
  | msix (fn : Option Part) (vec : BitVec 11)
  | bisnpInv (p : Part) (line : Nat)
  | bisnpData (p : Part) (line : Nat)
  | decoder (p : Part) (ok : Bool)
  deriving DecidableEq, Repr

/-- One thing the module sends out. -/
inductive Out where
  | host (h : HostPort) (m : HostMsg)
  | yurno (y : Port) (sub : Sub) (m : YMsg)
  | svc (e : Option Endpoint) (m : SvcMsg)
  | value (m : Master) (v : Word)
  deriving DecidableEq, Repr

/-- The module. -/
structure State where
  /-- Commands that wait, first in, first out; the form of this block. -/
  pending : List Instr
  /-- Every register of Table 1.5 that is not at its reset value (R9, R30). -/
  regs : SMap Word
  /-- What the physical tile under each logical tile holds (R14, R15), by logical tile. -/
  cores : SMap TileCore
  /-- The physical tile of each segment that carries no logical tile (R14, R15), by field × 8 + segment. -/
  spares : SMap TileCore
  /-- The 4,608 physical wells of 512 MiB (R20, R138), by shaft × 2^29 + offset. -/
  wells : List Host.Cell
  /-- Granules of wells with an uncorrectable or poison check pattern (R143, R154). -/
  wellUe : List Nat
  /-- Granules of wells with a correctable error and its symbol (R143, R144). -/
  wellCe : SMap Nat
  /-- The engine of each bank (R148), by shaft × 32 + bank. -/
  banks : SMap EngBank
  /-- What a field holds beside its registers. -/
  fields : SMap FieldSt
  /-- What an arbiter holds beside its port page (R183). -/
  arbs : SMap Arb
  /-- Field and module weirs (R200), by ID. -/
  weirs : SMap Weir
  /-- What a partition holds beside its registers (R193). -/
  parts : SMap PartSt
  /-- What a Yurno port holds beside its registers (R217). -/
  ports : SMap PortSt
  /-- The host hub (R245 … R255). -/
  hub : HubSt
  /-- The module governor (R279 … R299, R241). -/
  gov : GovSt
  /-- The service processor and the always-on island (chapters 14 to 16). -/
  svc : SvcSt
  /-- TSCLK, the time in nanoseconds (R21). -/
  tsclk : Nat
  /-- Which free value is next; the model's own field (log 8). -/
  freeCtr : Nat
  /-- What has left the module, oldest first (log 7). -/
  out : List Out
  deriving DecidableEq, Repr

/-- Why a step stops. No meaning raises a fault: the manual gives every command an effect (R32 and Table 2.3 say
what an access that cannot be made does). Safe. -/
inductive Fault where
  /-- Raised by nobody; a closed type needs a member. Safe. -/
  | unreachable
  deriving DecidableEq, Repr

/-- Why a command is refused. -/
inductive Refusal where
  /-- Raised by exec's own arm for a command without a meaning. Safe. -/
  | notModelled (mnemonic : String)
  deriving DecidableEq, Repr

/-- The outcome of a command. -/
abbrev Res := Host.Outcome State Fault Refusal

/-! ## Reset -/

/-- An idle channel with an empty queue (R136). -/
def DmaChan.reset : DmaChan :=
  { queue := [], started := false, done := 0, tags := [], lastEnded := 0, page := none, buf := [], sbWait := none }

/-- B before any MM.LDB: all zero, FULL, FP4-E2M1 (R65). -/
def BImage.zero : BImage := { shape := .full, fmt := 1, n := 256, cells := [], exps := [], codes := [] }

/-- The sequencer at reset: halted (SEQ_STS), registers zero (log 4). -/
def SeqSt.reset : SeqSt :=
  { g := [], pc := 0, ibuf := [], half0 := .empty, half1 := .empty, stall := none, stallAt := 0, stallOrd := 0, stallCtr := none, trap := false,
    unabsorbed := none, parity := false, lastIssue := 0, openAt := 0, fenced := false, dark := false,
    stepArmed := false, stopArmed := false, bpPass := false, dbgAt := 0, xl := none }

/-- The array at reset. -/
def ArrSt.reset : ArrSt :=
  { queue := [], shadow := none, b := BImage.zero, other := [], curShape := .full, curFmt := 1, bSet := false,
    lastShape := none, accum := [],
    accCe := [], accUe := [], erredRows := [] }

/-- The vector unit at reset. -/
def VecSt.reset : VecSt := { v := [], sample := 0, captures := [], hist := [] }

/-- Storage at reset. -/
def MemSt.reset : MemSt :=
  { cist := [], cistUe := [], cistCe := [], writeBack := [], erredQ := [], sb := [], dma0 := DmaChan.reset, dma1 := DmaChan.reset,
    dma2 := DmaChan.reset, dma3 := DmaChan.reset, engQ := [], engErr := false, scrub := none, resync := [], bankWait := [], xl := none, launch := 0 }

/-- A tile core at reset. -/
def TileCore.reset : TileCore :=
  { seq := SeqSt.reset, arr := ArrSt.reset, vec := VecSt.reset, mem := MemSt.reset }

/-- A bank engine at reset. -/
def EngBank.reset : EngBank := { queue := [], running := false, wbuf := [] }

/-- An arbiter at reset. -/
def Arb.reset : Arb := { ptr := [], reqs := [], k := [], inflight := [], last := none }

/-- A phase never measured (R285). -/
def PhaseEst.reset : PhaseEst := { e := 0, n := 0 }

/-- A field at reset: unpowered, its clock stopped. -/
def FieldSt.reset : FieldSt :=
  { supply := .off, absent := false, fclkRun := false, pll2 := false, fclkSince := 0, selfRefresh := false, fclk := 0, xcache := [],
    merge := [], held := [], est := [], occSum := 0, occN := 0, maxPower := 0, nodes := [], budget := 0,
    cut := 0, cutting := false, calm := 0, tinj := [], tcalm := [], lastDrop := [], texcl := [], frame := 0, refAt := none }

/-- A weir at reset (R199, stage 4). -/
def Weir.reset : Weir := { count := 0, thr := 0, epoch := 0, waiters := [], pend := false, owner := none }

/-- A queue pair at reset; its first phase bit is 1 (log 24). -/
def QpSt.reset : QpSt := { cqTail := 0, phase := true, held := [], tail := 0, busy := [] }

/-- A partition at reset: FREE. -/
def PartSt.reset : PartSt :=
  { image := none, starts := [], turn := 0, pend := none, record := none, enabledBy := none, job := none, replayed := false,
    openEpochs := [], posts := [], qps := [], latches := [], sqMem := [], map := none, faulty := [], soft := [], atoms := [], cellRow := none,
    lostFields := [], gracefulPending := false, resetJob := none, stepAt := 0, noRelease := false,
    lossAt := none, returns := [], microcode := 0 }

/-- A subport at reset: down, no credits. -/
def SubSt.reset : SubSt :=
  { txSeq := 0, rxSeq := 0, txq := [], replay := [], cr0 := 0, cr1 := 0, cr2 := 0, cr3 := 0, owed0 := 0, owed1 := 0, owed2 := 0,
    owed3 := 0, resend := 0, resendSeq := 0, nakSent := false, lost := false }

/-- A Yurno port at reset. -/
def PortSt.reset : PortSt :=
  { sub0 := SubSt.reset, sub1 := SubSt.reset, sub2 := SubSt.reset, sub3 := SubSt.reset, ops := [], fly := [],
    heldAtomics := [], colQ := [], colRun := [], colRetained := [], colEarly := [], retrain := [], nextOp := 0,
    nextLane := 0, txCount := 0, rxCount := 0, peerHalted := false, heldDown := false, peer := none, serdes := 0,
    serdesVersion := 0 }

/-- The host hub at reset. -/
def HubSt.reset : HubSt :=
  { linkUp := 0, decoders := [], sf := [], sfAge := 0, snoops := [], msixPend := [], held := [], safety := [], biPoison := [] }

/-- The governor at reset: no measurement yet. -/
def GovSt.reset : GovSt :=
  { energy := 0, latches := [], rth := [], rthCap := none, rampCap := none, floor := 0, ceil := none, setpoint := none,
    lastSeq := none, forceSeq := 0, acks := [], lags := [], injAt := none, bridgeAt := none, bridgeOver := false, lagCode := 0, lagCause := 0,
    waitAt := none, vinLimit := none, firstWindow := true }

/-- Pin levels at reset (log 3): PWR_EN low by its pull-down, the tray driving its two stop lines high,
the seal intact, outputs as an unpowered module shows them. -/
def Pins.reset : Pins :=
  { pwrEn := false, trayStopN := true, flowLossN := true, pps := true, presenceN := true, sealed := true, slotId := 0,
    pgood := false, faultN := false, thermTripN := true }

/-- The service island at reset: PWR_EN has not risen. -/
def SvcSt.reset : SvcSt :=
  { pins := Pins.reset, power := .off, downAt := 0, vin := 54000, vhk := true, slotSampled := 0, castAt := 0,
    retries := [], manifest := none, manifestFlash := none, stageAt := 0, trained := [], fuse := [],
    soft := [], failed := [], cellRows := [], linkFail := [], ledger := [], ledgerFlash := [], ledgerDirty := false, ledgerA := true, ledgerB := true, staged := none,
    overrideAt := none, debugUnlocked := false, root := 0, fwA := 1, fwB := 0, fwHashA := 0, fwHashB := 0, fwFloor := 0, runA := true,
    up := false, outageAt := none, unav := 0, stoppedAt := none, session := none, log := [], logSeq := 0, logHead := 0, logFlash := [], dynAddr := none, eids := [],
    mbxReq := [], mbxRsp := [], serial := 0 }

/-- The module right after power-on reset, before PWR_EN rises: every register at its reset value, nothing listed in
any memory. -/
def State.reset : State :=
  { pending := [], regs := [], cores := [], spares := [], wells := [], wellUe := [], wellCe := [], banks := [],
    fields := [], arbs := [], weirs := [], parts := [], ports := [], hub := HubSt.reset, gov := GovSt.reset, svc := SvcSt.reset,
    tsclk := 0, freeCtr := 0, out := [] }

end Sys2Proof.Machine
end

