-- ==== Sys2Proof/Machine/Map.lean ====
section
/-!
DEFINITION. Sparse maps in canonical form (keys strictly rising, no entry equal to what an unlisted key reads as),
and byte memories: sparse maps of bytes whose unlisted bytes read 0 (log 5).
-/

namespace Sys2Proof.Machine

/-- The value at k, or what an unlisted key reads as. -/
def SMap.get {α : Type} (d : Nat → α) : SMap α → Nat → α
  | [], k => d k
  | (k', v) :: r, k => if k' = k then v else SMap.get d r k

/-- Put v at k, keeping the keys rising. -/
def SMap.ins {α : Type} : SMap α → Nat → α → SMap α
  | [], k, v => [(k, v)]
  | (k', v') :: r, k, v =>
    if k < k' then (k, v) :: (k', v') :: r
    else if k = k' then (k, v) :: r
    else (k', v') :: SMap.ins r k v

/-- Take the entry at k out. -/
def SMap.del {α : Type} (m : SMap α) (k : Nat) : SMap α := m.filter (fun e => e.1 != k)

/-- Write v at k; the default is not listed. -/
def SMap.set {α : Type} [DecidableEq α] (d : Nat → α) (m : SMap α) (k : Nat) (v : α) : SMap α :=
  if v = d k then m.del k else m.ins k v

/-- The canonical form: keys strictly rising, no default entry. -/
def SMap.wf {α : Type} [DecidableEq α] (d : Nat → α) (m : SMap α) : Prop :=
  m.Pairwise (fun a b => a.1 < b.1) ∧ ∀ e ∈ m, e.2 ≠ d e.1

/-! ## Byte memories -/

/-- What a byte that nothing has written reads as (log 5). -/
def blank (_ : Nat) : Byte := 0

/-- One byte. -/
def Mem.read (m : List Host.Cell) (a : Nat) : Byte := SMap.get blank m a

/-- Write one byte. -/
def Mem.write (m : List Host.Cell) (a : Nat) (b : Byte) : List Host.Cell := SMap.set blank m a b

/-- The canonical form of a byte memory. -/
abbrev Memory.wf (m : List Host.Cell) : Prop := SMap.wf blank m

/-- n bytes from a. -/
def Mem.readN (m : List Host.Cell) (a : Nat) : Nat → Bytes
  | 0 => []
  | n + 1 => Mem.read m a :: Mem.readN m (a + 1) n

/-- Write bytes from a on. -/
def Mem.writeN (m : List Host.Cell) (a : Nat) : Bytes → List Host.Cell
  | [] => m
  | b :: bs => Mem.writeN (Mem.write m a b) (a + 1) bs

/-- n bytes from a as a little-endian number. -/
def Mem.readLe (m : List Host.Cell) (a n : Nat) : Nat := leNat (Mem.readN m a n)

/-- Write the low n bytes of v at a, little-endian. -/
def Mem.writeLe (m : List Host.Cell) (a n v : Nat) : List Host.Cell := Mem.writeN m a (toLe n v)

/-- Write the bytes whose mask bit is set. -/
def Mem.writeMasked (m : List Host.Cell) (a : Nat) : List (Byte × Bool) → List Host.Cell
  | [] => m
  | (b, v) :: bs => Mem.writeMasked (if v then Mem.write m a b else m) (a + 1) bs

/-- The listed bytes of a ... a + n - 1, renumbered to start at base. -/
def Mem.slice (m : List Host.Cell) (a n base : Nat) : List Host.Cell :=
  (m.filter (fun c => decide (a ≤ c.1 ∧ c.1 < a + n))).map (fun c => (c.1 - a + base, c.2))

/-- Take the bytes of a ... a + n - 1 out: they read blank again. -/
def Mem.clear (m : List Host.Cell) (a n : Nat) : List Host.Cell :=
  m.filter (fun c => !decide (a ≤ c.1 ∧ c.1 < a + n))

/-- Put every listed byte of src. -/
def Mem.paste (m src : List Host.Cell) : List Host.Cell := src.foldl (fun m c => Mem.write m c.1 c.2) m

/-- Copy n bytes from a to b, unlisted bytes included. -/
def Mem.copy (m : List Host.Cell) (a b n : Nat) : List Host.Cell :=
  Mem.paste (Mem.clear m b n) (Mem.slice m a n b)

/-- Insert a number into a rising list without repeats. -/
def insertNat : List Nat → Nat → List Nat
  | [], k => [k]
  | x :: r, k => if k < x then k :: x :: r else if k = x then x :: r else x :: insertNat r k

/-- Take a number out of a list. -/
def removeNat (l : List Nat) (k : Nat) : List Nat := l.filter (· != k)

end Sys2Proof.Machine
end

