-- ==== Sys2Proof/Machine/RegMap.lean ====
section
/-!
DEFINITION. The register pages of the device physical address map (Table 1.5, R9, R30): where each page lies, which
registers it holds, their reset values and their access types (Table 0.5).
-/

namespace Sys2Proof.Machine

/-! ## Pages (R30, R33, R189, R217, R243, R260, R306) -/

def tileBase (t : Tile) : Nat := 0x0F0000000000 + t.val * 0x10000
def tilePage (t : Tile) (p : Nat) : Nat := tileBase t + p * 0x1000
def fieldPage (f : Field) (p : Nat) : Nat := 0x0F1000000000 + f.val * 0x100000 + p * 0x1000
def yurnoPage (y : Port) (p : Nat) : Nat := 0x0F2000000000 + y.val * 0x100000 + p * 0x1000
def hubPage (p : Nat) : Nat := 0x0F3000000000 + p * 0x1000
def partPage (q : Part) (p : Nat) : Nat := 0x0F4000000000 + q.val * 0x100000 + p * 0x1000
def govPage (p : Nat) : Nat := 0x0F5000000000 + p * 0x1000

/-- The register regions of Table 1.5 and the page a register address lies in. -/
inductive PageKind where
  | tile (t : Tile) (p : Nat)
  | field (f : Field) (p : Nat)
  | yurno (y : Port) (p : Nat)
  | hub (p : Nat)
  | part (q : Part) (p : Nat)
  | gov (p : Nat)
  | none
  deriving DecidableEq, Repr

/-- Decode a register address to its page (Table 1.5). -/
def pageOf (a : Nat) : PageKind :=
  if h : 0x0F0000000000 ≤ a ∧ a < 0x0F0010800000 then
    .tile ⟨(a - 0x0F0000000000) / 0x10000, by omega⟩ ((a - 0x0F0000000000) / 0x1000 % 16)
  else if h : 0x0F1000000000 ≤ a ∧ a < 0x0F1003000000 then
    .field ⟨(a - 0x0F1000000000) / 0x100000, by omega⟩ ((a - 0x0F1000000000) / 0x1000 % 256)
  else if h : 0x0F2000000000 ≤ a ∧ a < 0x0F2001800000 then
    .yurno ⟨(a - 0x0F2000000000) / 0x100000, by omega⟩ ((a - 0x0F2000000000) / 0x1000 % 256)
  else if 0x0F3000000000 ≤ a ∧ a < 0x0F3000100000 then .hub ((a - 0x0F3000000000) / 0x1000)
  else if h : 0x0F4000000000 ≤ a ∧ a < 0x0F4001000000 then
    .part ⟨(a - 0x0F4000000000) / 0x100000, by omega⟩ ((a - 0x0F4000000000) / 0x1000 % 256)
  else if 0x0F5000000000 ≤ a ∧ a < 0x0F5000100000 then .gov ((a - 0x0F5000000000) / 0x1000)
  else .none

/-- The 4 KiB page base of a register address. -/
def pageBase (a : Nat) : Nat := a / 0x1000 * 0x1000

/-! ## Rows -/

/-- count registers from off at a stride: reset value and the masks of the RW, W1C and RC bits (Table 0.5). Bits in no
mask are RO, WO or W1S (their effect, if any, is a command's) or reserved. -/
structure RegRow where
  off : Nat
  count : Nat
  stride : Nat
  reset : Nat
  rw : Nat
  w1c : Nat
  rc : Nat
  deriving DecidableEq, Repr

/-- One register. -/
def reg1 (off reset rw w1c rc : Nat) : RegRow := ⟨off, 1, 4, reset, rw, w1c, rc⟩

/-- Read-only registers. -/
def roRow (off count stride : Nat) : RegRow := ⟨off, count, stride, 0, 0, 0, 0⟩

/-- Counters that a read clears. -/
def rcRow (off count : Nat) : RegRow := ⟨off, count, 4, 0, 0, 0, 0xFFFFFFFF⟩

/-- The header of every page (Table 11.7), with the block's event bits and the reset value of OWNER (log 11). -/
def headerRows (evt : Nat) (own : Nat := 1) : List RegRow :=
  [reg1 0x000 0 0 0 0, reg1 0x004 0 0 0 0, reg1 0x008 1 0x3 0 0, reg1 0x00C 1 0 0 0, reg1 0x010 0 0 evt 0,
   reg1 0x014 0 evt 0 0, reg1 0x018 0 0x3FFF 0 0, reg1 0x01C 0 0 0 0, rcRow 0x020 2, reg1 0x028 own 0x3F 0 0,
   reg1 0x02C 0 0 0 0]

/-- Arbiter registers (R190). -/
def arbRows : List RegRow :=
  [reg1 0x040 8 0xF 0 0, roRow 0x044 1 4, rcRow 0x048 5, reg1 0x05C 0 0 0 0xF]

/-- Four words of a RAIL_MIN entry, count entries from off (R277). -/
def railRows (off count : Nat) : List RegRow :=
  [⟨off, count, 16, 0, 0, 0, 0x8000FFFF⟩, roRow (off + 4) count 16, roRow (off + 8) count 16, roRow (off + 12) count 16]

/-- Registers of a tile page (Table 2.1), beside the header. -/
def tileRows : Nat → List RegRow
  | 0 => [reg1 0x040 0 0x1 0 0, reg1 0x044 0x11 0 0 0, roRow 0x048 4 4, reg1 0x058 0 0xFFFC 0 0, roRow 0x060 2 4,
          reg1 0x068 0xFFFFFFFF 0xFFFFFFFF 0 0, roRow 0x06C 1 4]
  | 1 => [reg1 0x040 0 0x1 0 0, roRow 0x044 1 4, ⟨0x048, 4, 4, 0, 0x8001FFFF, 0, 0⟩, reg1 0x058 0 0x1F 0 0,
          reg1 0x05C 0 0xFFFFFFFF 0 0, rcRow 0x060 1]
  | 2 => [reg1 0x040 0 0x1 0 0, roRow 0x044 1 4, ⟨0x048, 2, 4, 0x3F3F3F3F, 0x3F3F3F3F, 0, 0⟩, rcRow 0x050 6,
          roRow 0x068 2 4, rcRow 0x0C0 4, rcRow 0x0D0 9]
  | 3 => [reg1 0x040 0 0x1F 0 0, reg1 0x044 0 0 0x11F 0, reg1 0x048 0 0xFF 0 0, reg1 0x04C 0 0 0x3 0, roRow 0x050 1 4,
          rcRow 0x054 2, reg1 0x05C 0 0x3FF 0 0, roRow 0x060 4 4]
  | 4 => [reg1 0x040 0 0 0 0x8000FF1F, reg1 0x044 0 0 0 0x83FFFFFF, rcRow 0x048 1]
  | 9 => [⟨0x040, 8, 4, 0x80000000, 0xFFFFFFFF, 0, 0⟩, roRow 0x060 3 4, rcRow 0x06C 1, reg1 0x070 0 0 0 0xF,
          reg1 0x074 0 0x7FFFFF 0 0, reg1 0x078 0 0xFFFFFF 0 0, roRow 0x07C 4 4, rcRow 0x08C 1,
          ⟨0x090, 8, 16, 0, 0xFF, 0, 0⟩, ⟨0x094, 8, 16, 0, 0x1FF, 0, 0⟩, ⟨0x098, 8, 16, 0, 0x1FFF, 0, 0⟩,
          ⟨0x09C, 8, 16, 0, 0x1, 0, 0⟩, reg1 0x110 0 0 0 0x807FFFFF, reg1 0x114 0 0 0 0x800000FF]
  | 10 => [reg1 0x040 0x100 0 0 0]
  | 11 => [reg1 0x040 400 0 0 0, roRow 0x044 1 4, rcRow 0x048 1]
  | 12 => [reg1 0x040 0 0xFF 0 0, roRow 0x044 9 4, ⟨0x068, 2, 4, 0, 0xFFFFFFFF, 0, 0⟩, reg1 0x070 0 0 0 0xF]
  | 13 => [reg1 0x040 0 0x1 0 0, rcRow 0x044 6, ⟨0x080, 16, 16, 0, 0xFFFFF000, 0, 0⟩, ⟨0x084, 16, 16, 0, 0xFFFF, 0, 0⟩,
           ⟨0x088, 16, 16, 0, 0xFFFFFF, 0, 0⟩, ⟨0x08C, 16, 16, 0, 0x1, 0, 0⟩]
  | n => if 5 ≤ n ∧ n ≤ 8 then [roRow 0x040 6 4, rcRow 0x058 2, roRow 0x060 1 4] else []

/-- Event bits of a tile page. -/
def tileEvt : Nat → Nat
  | 0 => 0x3 | 1 => 0x3 | 2 => 0x1F | 3 => 0x7 | 4 => 0x7 | 5 => 0xF | 6 => 0xF | 7 => 0xF | 8 => 0xF | 9 => 0x7FF
  | 12 => 0x3 | 13 => 0x3F | _ => 0

/-- Registers of a field page (Table 8.6), beside the header. -/
def fieldRows (n : Nat) : List RegRow :=
  if n = 0 then [⟨0x040, 1, 4, 0xFFFFFFFF, 0xFFFFFFFF, 0, 0⟩, roRow 0x044 1 4, reg1 0x048 0xFFFFFFFF 0xFFFFFFFF 0 0,
    roRow 0x04C 1 4]
  else if n = 1 then [⟨0x040, 96, 4, 0, 0x3FFFFFFF, 0, 0⟩]
  else if n = 2 then [reg1 0x040 0 0x1 0 0, rcRow 0x044 2]
  else if 3 ≤ n ∧ n ≤ 194 then arbRows
  else if 195 ≤ n ∧ n ≤ 198 then arbRows ++ [reg1 0x080 0 0x1 0 0, roRow 0x084 1 4, rcRow 0x088 2]
  else if n = 199 ∨ n = 200 then arbRows
  else if n = 240 then [reg1 0x040 6400 0 0 0, roRow 0x044 7 4, reg1 0x060 0x003C0A0F 0xFFFFFF 0 0, roRow 0x070 4 4]
    ++ railRows 0x100 102
  else if n = 241 then railRows 0x040 192
  else if n = 242 then [roRow 0x040 1 4, reg1 0x044 1023 0 0 0, rcRow 0x048 1, roRow 0x04C 1 4, reg1 0x050 0 0x3FF 0 0,
    roRow 0x054 1 4]
  else []

/-- Event bits of a field page. -/
def fieldEvt (n : Nat) : Nat :=
  if n = 0 then 0x3 else if 3 ≤ n ∧ n ≤ 194 then 0x7 else if 195 ≤ n ∧ n ≤ 198 then 0xF
  else if n = 199 ∨ n = 200 then 0x7 else if n = 240 then 0x7F else 0

/-- Registers of a Yurno port page (R243), beside the header. -/
def yurnoRows (y : Port) : Nat → List RegRow
  | 0 => [reg1 0x040 1642256 0x3FFFFF 0 0, roRow 0x044 1 4, reg1 0x048 0x1F 0x1F 0 0]
  | 1 => [⟨0x040, 66, 4, 0, 0, 0, 0xFFFF0000⟩]
  | 2 => [rcRow 0x040 5]
  | 3 => [roRow 0x040 2 4, reg1 0x048 0 0 0 0x8000FFFF]
  | 4 => [⟨0x040, 64, 8, 0, 0x80FFFFFF, 0, 0⟩]
  | 5 => [roRow 0x040 2 4]
  | 8 => if y.val = 0 then [reg1 0x040 0 0x1FFFFF 0 0, reg1 0x044 0 0xFFFF 0 0, roRow 0x048 1 4] else []
  | _ => []

/-- Registers of a host hub page (R260), beside the header. -/
def hubRows : Nat → List RegRow
  | 0 => [reg1 0x040 100 0xFF 0 0, rcRow 0x044 3]
  | 1 => arbRows | 2 => arbRows | 3 => arbRows | 4 => arbRows
  | 5 => [roRow 0x040 1 4, rcRow 0x044 3]
  | _ => []

/-- Registers of a partition page (R217, R260), beside the header. -/
def partRows (n : Nat) : List RegRow :=
  if n = 0 then [reg1 0x040 0 0x1FFF 0 0, roRow 0x044 6 4]
  else if n = 1 then [reg1 0x040 0 0x7FFFFFF 0 0, reg1 0x044 0 0xFFF 0 0, reg1 0x048 0 0xFFE00000 0 0,
    reg1 0x04C 0 0xFFFF 0 0, reg1 0x050 0 0xFFE00000 0 0, reg1 0x054 0 0xFFFF 0 0, reg1 0x058 0 0x1F 0 0,
    roRow 0x05C 1 4, rcRow 0x060 3]
  else if 2 ≤ n ∧ n ≤ 5 then [⟨0x040, 256, 8, 0, 0x80003FFF, 0, 0⟩, ⟨0x044, 256, 8, 0, 0xFFFFFFFF, 0, 0⟩]
  else if n = 6 then [reg1 0x040 0 0x3FF 0 0, roRow 0x044 3 4]
  else if 8 ≤ n ∧ n ≤ 71 then [reg1 0x040 32 0x7F 0 0, reg1 0x044 0 0xFFFFFFFF 0 0, reg1 0x048 0 0xFFFFFFFF 0 0,
    roRow 0x04C 1 4, reg1 0x050 0 0xFFF 0 0, reg1 0x054 0 0 0x40 0, roRow 0x058 3 4]
  else []

/-- Registers of a module governor page (R278, R306, R321, R341, R347), beside the header. -/
def govRows : Nat → List RegRow
  | 0 => [reg1 0x040 410 0xFFFF 0 0, reg1 0x044 410 0xFFFF 0 0, reg1 0x048 410 0 0 0, reg1 0x04C 105 0x7F 0 0,
          reg1 0x050 36 0x3F 0 0, reg1 0x054 13312 0 0 0, roRow 0x058 1 4, roRow 0x060 3 4,
          reg1 0x06C 131073600 0xFFFFFFFF 0 0, reg1 0x070 7714 0xFFFF 0 0, reg1 0x074 178 0x1FF 0 0,
          reg1 0x078 5 0x1F 0 0, rcRow 0x07C 1]
  | 1 => [roRow 0x040 6 4, roRow 0x080 48 4]
  | 2 => [reg1 0x040 0x11414 0x1FFFF 0 0, reg1 0x044 63 0 0 0, ⟨0x080, 32, 16, 0, 0xFFFFFFFF, 0, 0⟩,
          ⟨0x084, 32, 16, 0, 0xFFFFFFFF, 0, 0⟩, ⟨0x088, 32, 16, 0, 0xFFFFFFFF, 0, 0⟩, ⟨0x08C, 32, 16, 0, 0x1, 0, 0⟩]
  | 3 => roRow 0x070 4 4 :: railRows 0x100 52
  | 4 => [roRow 0x040 5 4, reg1 0x054 0 0 0 0xFFFF, roRow 0x058 2 4]
  | 5 => [roRow 0x040 4 4]
  | 6 => [reg1 0x040 0 0xFFF 0 0, roRow 0x044 9 4]
  | 7 => [roRow 0x040 2 4]
  | 8 => [roRow 0x040 1 4, reg1 0x044 0 0x1FFF 0 0, roRow 0x048 1 4]
  | _ => []

/-- Event bits of the remaining pages. -/
def govPageEvt : Nat → Nat
  | 0 => 0x7FF | 3 => 0x7 | 4 => 0x3F | 8 => 0x7 | _ => 0

/-- The edge field of each Yurno port (Table 10.1). -/
def portField (y : Port) : Field :=
  if h : y.val < 8 then ⟨y.val, by omega⟩
  else if h : y.val < 13 then ⟨15 + 8 * (y.val - 8), by omega⟩
  else if h : y.val < 20 then ⟨46 - (y.val - 13), by omega⟩
  else ⟨32 - 8 * (y.val - 20), by omega⟩

/-- The Yurno port on a field, if it is an edge field. -/
def fieldPort (f : Field) : Option Port := (List.finRange 24).find? (fun y => portField y == f)

/-- A seam adapter exists unless it faces the module edge (R173). -/
def adapterExists (f : Field) : Adapter → Bool
  | .xp => decide (f.val % 8 < 7)
  | .xm => decide (0 < f.val % 8)
  | .yp => decide (f.val / 8 < 5)
  | .ym => decide (0 < f.val / 8)

/-- All rows of a page, or none where the page is reserved or absent (R33, R189, R243). -/
def pageRows : PageKind → Option (List RegRow)
  | .tile _ p => if p < 14 then some (headerRows (tileEvt p) ++ tileRows p) else none
  | .field f p =>
    if p = 195 ∧ ¬ adapterExists f .xp ∨ p = 196 ∧ ¬ adapterExists f .xm ∨ p = 197 ∧ ¬ adapterExists f .yp
        ∨ p = 198 ∧ ¬ adapterExists f .ym ∨ p = 200 ∧ fieldPort f = none then none
    else some (headerRows (fieldEvt p) ++ fieldRows p)
  | .yurno y p =>
    if p ≤ 5 ∨ p = 8 ∧ y.val = 0 then some (headerRows (if p = 0 then 0x1FF else 0) ++ yurnoRows y p) else none
  | .hub p => if p ≤ 5 then some (headerRows (if 1 ≤ p ∧ p ≤ 4 then 0x7 else 0) ++ hubRows p) else none
  | .part q p =>
    some (headerRows (if p = 0 then 0x7F else if p = 1 then 1 else 0) (if p < 7 then 3 + 4 * q.val else 1) ++ partRows p)
  | .gov p => if p ≤ 8 then some (headerRows (govPageEvt p) ++ govRows p) else none
  | .none => none

/-- Does row r hold the register at page offset o? -/
def RegRow.holds (r : RegRow) (o : Nat) : Bool :=
  decide (r.off ≤ o ∧ (o - r.off) % r.stride = 0 ∧ (o - r.off) / r.stride < r.count)

/-- The row of the register at an address. -/
def rowOf (a : Nat) : Option RegRow :=
  match pageRows (pageOf a) with
  | some rs => rs.find? (·.holds (a % 0x1000))
  | none => none

/-- What a register reads as before anything has written it. -/
def regReset (a : Nat) : Word :=
  match rowOf a with
  | some r =>
    if a % 0x1000 = 0 then Config.blkId (a / 0x1000)
    else if a % 0x1000 = 4 then Config.blkVer (a / 0x1000)
    else BitVec.ofNat 32 r.reset
  | none => 0

/-! ## Register access -/

/-- The stored word of a register. -/
def State.reg (s : State) (a : Nat) : Word := SMap.get regReset s.regs a

/-- Store a register word. -/
def State.setReg (s : State) (a : Nat) (v : Word) : State := { s with regs := SMap.set regReset s.regs a v }

/-- Change a register word. -/
def State.modReg (s : State) (a : Nat) (f : Word → Word) : State := s.setReg a (f (s.reg a))

/-- Advance a saturating counter. -/
def State.count (s : State) (a : Nat) (n : Nat) : State := s.modReg a (satAdd · n)

/-- A page of the device map that exists. -/
def pageExists (page : Nat) : Bool := (pageRows (pageOf page)).isSome

end Sys2Proof.Machine
end

