-- ==== Sys2Proof/Machine/Ops.lean ====
section
/-!
DEFINITION. The named operations on State: access to the records of a tile, field, partition and port, geometry
(R10, R14, R15, R18, R31, R328), events (R256), the event log (R337), ownership and safety of writes (R257, R259).
-/

namespace Sys2Proof.Machine

/-! ## Records -/

def coreD (_ : Nat) : TileCore := TileCore.reset
def fieldD (_ : Nat) : FieldSt := FieldSt.reset
def partD (_ : Nat) : PartSt := PartSt.reset
def portD (_ : Nat) : PortSt := PortSt.reset
def bankD (_ : Nat) : EngBank := EngBank.reset
def weirD (_ : Nat) : Weir := Weir.reset
def qpD (_ : Nat) : QpSt := QpSt.reset
def arbD (_ : Nat) : Arb := Arb.reset
def zeroW (_ : Nat) : Word := 0
def zeroV (_ : Nat) : VWord := 0
def zeroN (_ : Nat) : Nat := 0
def zero16 (_ : Nat) : BitVec 16 := 0

def State.core (s : State) (t : Tile) : TileCore := SMap.get coreD s.cores t.val
def State.setCore (s : State) (t : Tile) (c : TileCore) : State := { s with cores := SMap.set coreD s.cores t.val c }
def State.modCore (s : State) (t : Tile) (f : TileCore → TileCore) : State := s.setCore t (f (s.core t))
def State.seq (s : State) (t : Tile) : SeqSt := (s.core t).seq
def State.modSeq (s : State) (t : Tile) (f : SeqSt → SeqSt) : State := s.modCore t (fun c => { c with seq := f c.seq })
def State.arr (s : State) (t : Tile) : ArrSt := (s.core t).arr
def State.modArr (s : State) (t : Tile) (f : ArrSt → ArrSt) : State := s.modCore t (fun c => { c with arr := f c.arr })
def State.vec (s : State) (t : Tile) : VecSt := (s.core t).vec
def State.modVec (s : State) (t : Tile) (f : VecSt → VecSt) : State := s.modCore t (fun c => { c with vec := f c.vec })
def State.mem (s : State) (t : Tile) : MemSt := (s.core t).mem
def State.modMem (s : State) (t : Tile) (f : MemSt → MemSt) : State := s.modCore t (fun c => { c with mem := f c.mem })

def State.fld (s : State) (f : Field) : FieldSt := SMap.get fieldD s.fields f.val
def State.modFld (s : State) (f : Field) (g : FieldSt → FieldSt) : State :=
  { s with fields := SMap.set fieldD s.fields f.val (g (s.fld f)) }
def State.prt (s : State) (p : Part) : PartSt := SMap.get partD s.parts p.val
def State.modPart (s : State) (p : Part) (g : PartSt → PartSt) : State :=
  { s with parts := SMap.set partD s.parts p.val (g (s.prt p)) }
def State.port (s : State) (y : Port) : PortSt := SMap.get portD s.ports y.val
def State.modPort (s : State) (y : Port) (g : PortSt → PortSt) : State :=
  { s with ports := SMap.set portD s.ports y.val (g (s.port y)) }
def State.bank (s : State) (k : Nat) : EngBank := SMap.get bankD s.banks k
def State.modBank (s : State) (k : Nat) (g : EngBank → EngBank) : State :=
  { s with banks := SMap.set bankD s.banks k (g (s.bank k)) }
def State.weir (s : State) (w : Nat) : Weir := SMap.get weirD s.weirs w
def State.modWeir (s : State) (w : Nat) (g : Weir → Weir) : State :=
  { s with weirs := SMap.set weirD s.weirs w (g (s.weir w)) }
/-- The arbiter of a page (R183), by page number. -/
def State.arb (s : State) (page : Nat) : Arb := SMap.get arbD s.arbs (page / 0x1000)
def State.modArb (s : State) (page : Nat) (g : Arb → Arb) : State :=
  { s with arbs := SMap.set arbD s.arbs (page / 0x1000) (g (s.arb page)) }
def PartSt.qp (p : PartSt) (q : Fin 64) : QpSt := SMap.get qpD p.qps q.val
def PartSt.modQp (p : PartSt) (q : Fin 64) (g : QpSt → QpSt) : PartSt :=
  { p with qps := SMap.set qpD p.qps q.val (g (p.qp q)) }
def State.modSvc (s : State) (g : SvcSt → SvcSt) : State := { s with svc := g s.svc }
def State.modGov (s : State) (g : GovSt → GovSt) : State := { s with gov := g s.gov }
def State.modHub (s : State) (g : HubSt → HubSt) : State := { s with hub := g s.hub }

/-- Send something out of the module (log 7). -/
def State.emit (s : State) (o : Out) : State := { s with out := s.out ++ [o] }

/-- Fold an operation over a list. -/
def State.each {α : Type} (s : State) (l : List α) (f : State → α → State) : State := l.foldl f s

/-- A fresh free number (log 8). -/
def State.fresh (s : State) : Nat × State := (s.freeCtr, { s with freeCtr := s.freeCtr + 1 })

/-- Bit i of the register at a is 1. -/
def State.rbit (s : State) (a i : Nat) : Bool := bit (s.reg a) i

/-- Set bit i of the register at a to b. -/
def State.setRbit (s : State) (a i : Nat) (b : Bool) : State := s.modReg a (setBit · i b)

/-! ## Geometry -/

/-- Row of a logical tile (R10). -/
def tileR (t : Tile) : Nat := t.val / 88
/-- Logical column of a logical tile (R10). -/
def tileC (t : Tile) : Nat := t.val % 88
/-- Position of a logical tile within its segment, k = c mod 11 (R15). -/
def tileK (t : Tile) : Nat := tileC t % 11
/-- Segment row within the field (R15). -/
def tileSeg (t : Tile) : Nat := tileR t % 8
/-- Field of a tile, f = (r ÷ 8) × 8 + (c ÷ 11) (R10). -/
def tileField (t : Tile) : Field :=
  ⟨t.val / 88 / 8 * 8 + t.val % 88 / 11, by have := t.isLt; omega⟩

/-- The logical tile at position k of segment row r of field f. -/
def segTile (f : Field) (seg k : Nat) : Option Tile :=
  if h : seg < 8 ∧ k < 11 then
    some ⟨(f.val / 8 * 8 + seg) * 88 + f.val % 8 * 11 + k, by have := f.isLt; omega⟩
  else none

/-- The 88 logical tiles of a field, ascending. -/
def fieldTiles (f : Field) : List Tile :=
  (List.range 8).flatMap (fun g => (List.range 11).filterMap (fun k => segTile f g k))

def fldRemap (f : Field) : Nat := fieldPage f 0 + 0x040
def fldRemapSts (f : Field) : Nat := fieldPage f 0 + 0x044
def fldWmap (f : Field) : Nat := fieldPage f 0 + 0x048
def fldDecant (f : Field) : Nat := fieldPage f 0 + 0x04C

/-- Segment value of FLD_REMAP or FLD_WMAP. -/
def segVal (w : Word) (seg : Nat) : Nat := (fld w (4 * seg) 4).toNat

/-- The shift rule of R15. -/
def shiftPos (x k : Nat) : Nat := if x ≠ 15 ∧ x ≤ k then k + 1 else k

/-- Position of the physical tile that carries a logical tile (R15). -/
def tilePos (s : State) (t : Tile) : Nat := shiftPos (segVal (s.reg (fldRemap (tileField t))) (tileSeg t)) (tileK t)

/-- Number of the physical tile at position j of segment row seg of field f: r × 96 + p (R14). -/
def shaftNo (f : Field) (seg j : Nat) : Nat := (f.val / 8 * 8 + seg) * 96 + f.val % 8 * 12 + j

/-- The physical tile that carries a logical tile. -/
def tileShaft (s : State) (t : Tile) : Nat := shaftNo (tileField t) (tileSeg t) (tilePos s t)

/-- Is segment seg of f being decanted (FLD_DECANT)? -/
def decanting (s : State) (f : Field) (seg : Nat) : Bool :=
  s.rbit (fldDecant f) 7 && decide ((fld (s.reg (fldDecant f)) 0 3).toNat = seg)

/-- Position of the shaft that holds the home well of a logical tile (R18, R328). -/
def homePos (s : State) (t : Tile) : Nat :=
  let f := tileField t
  let d := s.reg (fldDecant f)
  let next := (fld d 3 4).toNat
  let k := tileK t
  if decanting s f (tileSeg t) then
    if bit d 8 then (if k < next then shiftPos 15 k else shiftPos (segVal (s.reg (fldWmap f)) (tileSeg t)) k)
    else (if next < k then k + 1 else k)
  else shiftPos (segVal (s.reg (fldWmap f)) (tileSeg t)) k

/-- The shaft that holds the home well of a logical tile. -/
def homeShaft (s : State) (t : Tile) : Nat := shaftNo (tileField t) (tileSeg t) (homePos s t)

/-- The shaft that a decant link is filling with this tile's well, if one is (R328). -/
def decantCopy (s : State) (t : Tile) : Option Nat :=
  let f := tileField t
  let d := s.reg (fldDecant f)
  if decanting s f (tileSeg t) && decide ((fld d 3 4).toNat = tileK t) then
    some (shaftNo f (tileSeg t) (if bit d 8 then tileK t else tileK t + 1))
  else none

/-- The home well is served through its well port (R18, R139). -/
def fostered (s : State) (t : Tile) : Bool := decide (homePos s t ≠ tilePos s t)

/-- The reserve well of segment seg of f: the shaft the well map leaves unused (R31). -/
def reserveShaft (s : State) (f : Field) (seg : Nat) : Nat :=
  let x := segVal (s.reg (fldWmap f)) seg
  shaftNo f seg (if x = 15 then 11 else x)

/-- Field of a shaft. -/
def shaftField (n : Nat) : Option Field :=
  let f := n / 96 / 8 * 8 + n % 96 / 12
  if h : f < 48 then some ⟨f, h⟩ else none

/-- The logical tile that sits above a shaft now, if one does. -/
def tileAbove (s : State) (n : Nat) : Option Tile :=
  (shaftField n).bind fun f =>
    let seg := n / 96 % 8
    let j := n % 12
    let x := segVal (s.reg (fldRemap f)) seg
    if x = j ∨ (x = 15 ∧ j = 11) then none else segTile f seg (if x ≠ 15 ∧ x < j then j - 1 else j)

/-! ## Field clock -/

/-- FCLK cycles a field has run (log 2: fclk counts fortieths of a cycle). -/
def State.cyc (s : State) (f : Field) : Nat := (s.fld f).fclk / 40

/-- The field is powered and its FCLK runs. -/
def fieldRuns (s : State) (f : Field) : Bool := (s.fld f).supply == .on && (s.fld f).fclkRun

/-- The field is dark, lost or absent (R28, R146). -/
def fieldDark (s : State) (f : Field) : Bool :=
  (s.fld f).absent || (s.fld f).supply == .off || (s.fld f).supply == .lost

/-! ## The field governor's registers (page 242) -/

def fgov (f : Field) (o : Nat) : Nat := fieldPage f 242 + o
def fgovPhase (f : Field) : Nat := fgov f 0x044

/-- Injected fraction of a field in 1/64 (R287). -/
def fieldInj (s : State) (f : Field) : Nat := (fld (s.reg (fgovPhase f)) 10 6).toNat

/-! ## Partitions -/

def partCfg (p : Part) : Nat := partPage p 0 + 0x040
def partSts (p : Part) : Nat := partPage p 0 + 0x048

/-- Run state of a partition (Table 9.1). -/
def pstate (s : State) (p : Part) : Nat := (fld (s.reg (partSts p)) 0 3).toNat

/-- Enter a run state. -/
def setPstate (s : State) (p : Part) (n : Nat) : State := s.modReg (partSts p) (setFld · 0 (BitVec.ofNat 3 n))

/-- The fields of a PART_CFG rectangle (R193), ascending. -/
def rectFields (cfg : Word) : List Field :=
  (List.finRange 48).filter fun f =>
    decide ((fld cfg 0 3).toNat ≤ f.val % 8 ∧ f.val % 8 ≤ (fld cfg 3 3).toNat
      ∧ (fld cfg 6 3).toNat ≤ f.val / 8 ∧ f.val / 8 ≤ (fld cfg 9 3).toNat)

/-- Fields of a partition. -/
def partFields (s : State) (p : Part) : List Field := rectFields (s.reg (partCfg p))

/-- The enabled partition that holds a field (R193, R194). -/
def partOfField (s : State) (f : Field) : Option Part :=
  (List.finRange 16).find? fun p => decide (pstate s p ≠ 0) && (partFields s p).contains f

/-- The enabled partition that holds a tile. -/
def partOf (s : State) (t : Tile) : Option Part := partOfField s (tileField t)

/-- Logical tiles of a partition in ascending index: the local index is the place in this list (R193). -/
def partTiles (s : State) (p : Part) : List Tile :=
  let cfg := s.reg (partCfg p)
  let c0 := (fld cfg 0 3).toNat * 11
  let n := ((fld cfg 3 3).toNat + 1) * 11 - c0
  let r0 := (fld cfg 6 3).toNat * 8
  let m := ((fld cfg 9 3).toNat + 1) * 8 - r0
  (List.range m).flatMap fun i => (List.range n).filterMap fun j =>
    if h : (r0 + i) * 88 + c0 + j < 4224 then some ⟨(r0 + i) * 88 + c0 + j, h⟩ else none

/-- Number of tiles of a partition. -/
def partN (s : State) (p : Part) : Nat :=
  let cfg := s.reg (partCfg p)
  (((fld cfg 3 3).toNat + 1) * 11 - (fld cfg 0 3).toNat * 11) * (((fld cfg 9 3).toNat + 1) * 8 - (fld cfg 6 3).toNat * 8)

/-- Local index of a tile of a partition (R193). -/
def localIndex (s : State) (p : Part) (t : Tile) : Nat :=
  let cfg := s.reg (partCfg p)
  let n := ((fld cfg 3 3).toNat + 1) * 11 - (fld cfg 0 3).toNat * 11
  (tileR t - (fld cfg 6 3).toNat * 8) * n + (tileC t - (fld cfg 0 3).toNat * 11)

/-- The tile of a local index. -/
def tileOfLocal (s : State) (p : Part) (i : Nat) : Option Tile :=
  let cfg := s.reg (partCfg p)
  let n := ((fld cfg 3 3).toNat + 1) * 11 - (fld cfg 0 3).toNat * 11
  let t := ((fld cfg 6 3).toNat * 8 + i / n) * 88 + (fld cfg 0 3).toNat * 11 + i % n
  if h : i < partN s p ∧ t < 4224 then some ⟨t, h.2⟩ else none

/-- A partition serves incoming one-sided operations and runs work (R198): IDLE, RUNNING or HELD. -/
def partServes (s : State) (p : Part) : Bool := decide (pstate s p = 1 ∨ pstate s p = 2 ∨ pstate s p = 3)

/-! ## Events (R253, R256) -/

/-- The partition whose virtual function a page's events reach: the partition block's own, or OWNER kind 3. -/
def pagePart (s : State) (page : Nat) : Option Part :=
  match pageOf page with
  | .part p _ => some p
  | _ =>
    let o := s.reg (page + 0x028)
    if (fld o 0 2).toNat = 3 then some ⟨(fld o 2 4).toNat, (fld o 2 4).isLt⟩ else none

/-- Send the message of an interrupt vector to a host port, or hold it while its link is down (R245). -/
def sendMsix (s : State) (fn : Option Part) (h : HostPort) (vec : BitVec 11) : State :=
  if s.hub.linkUp.getLsbD h.val then s.emit (.host h (.msix fn vec))
  else s.modHub fun u => { u with msixPend := u.msixPend ++ [(fn, h, vec)] }

/-- Raise an event on the vector of EVT_VEC (R253). A vector outside the function's table counts in HUB_VEC_ERR. -/
def raiseEvent (s : State) (page : Nat) : State :=
  let v := s.reg (page + 0x018)
  let vec : BitVec 11 := fld v 0 11
  let h : HostPort := ⟨(fld v 11 2).toNat, (fld v 11 2).isLt⟩
  if bit v 13 then
    if vec.toNat < 256 then sendMsix s none h vec else s.count (hubPage 0 + 0x04C) 1
  else
    match pagePart s page with
    | some p => sendMsix s (some p) h vec
    | none => s.count (hubPage 0 + 0x04C) 1

/-- Set bit i of a page's EVT_STS; a change from 0 to 1 raises an event while EVT_EN enables it (R256). -/
def setEvt (s : State) (page i : Nat) : State :=
  let old := s.rbit (page + 0x010) i
  let s1 := s.setRbit (page + 0x010) i true
  if !old && s.rbit (page + 0x014) i then raiseEvent s1 page else s1

/-- Count in ERR_CNT_UE of a page. -/
def countUe (s : State) (page n : Nat) : State := s.count (page + 0x024) n

/-- Count in ERR_CNT_CE of a page. -/
def countCe (s : State) (page n : Nat) : State := s.count (page + 0x020) n

/-! ## Event log (R337) -/

/-- A number for each master, the argument of Config.logMaster. -/
def masterNo : Master → Nat
  | .svp => 0
  | .pf h => 1 + h.val
  | .vf h n => 5 + h.val * 16 + n.val
  | .tile t => 69 + t.val

/-- Where a log entry's cause lies: partition and field numbers in [3:0] and [9:4] of bytes 14 and 15. -/
def logUnit (p : Option Part) (f : Option Field) : BitVec 16 :=
  BitVec.ofNat 16 ((p.map (·.val)).getD 0 + 16 * (f.map (·.val)).getD 0)

/-- The endpoints that the bus owner has given an ID take events (R344, log 45). -/
def platformEvent (s : State) (cls : Nat) : State :=
  if (cls = 2 ∨ cls = 3 ∨ cls = 5) ∧ s.svc.up then s.each s.svc.eids fun s e => s.emit (.svc (some e.1) (.event s.svc.logSeq)) else s

/-- Write an event-log entry: class, cause (the rule number), unit, page address, master, data. The ring holds 4,096. -/
def logEv (s : State) (cls cause : Nat) (unit : BitVec 16) (addr : Nat) (m : Option Master) (data : Nat) : State :=
  let mw : BitVec 64 := match m with
    | some m => (Config.logMaster (masterNo m)).setWidth 64 <<< 36
    | none => 0
  let e : LogEnt :=
    { time := s.tsclk, seq := s.svc.logSeq, cls := BitVec.ofNat 8 cls, code := Config.logCode cause, unit := unit,
      page := BitVec.ofNat 64 (addr / 4096) ||| mw, data := BitVec.ofNat 64 data }
  (platformEvent s cls).modSvc fun v => { v with log := (e :: v.log).take 4096, logSeq := v.logSeq + 1, logHead := v.logHead + 1 }

/-- Partition and field of a tile as a log unit. -/
def tileUnit (s : State) (t : Tile) : BitVec 16 := logUnit (partOf s t) (some (tileField t))

/-- Report a loss (R6): a log entry of class 3 with the address. -/
def reportLoss (s : State) (unit : BitVec 16) (page dpa : Nat) : State := logEv s 3 6 unit page none dpa

/-! ## Ownership (R257) -/

/-- The partition a local master belongs to. -/
def masterPart (s : State) : Master → Option Part
  | .vf _ n => some n
  | .tile t => partOf s t
  | _ => none

/-- May a master write the owned fields of a page? -/
def mayWrite (s : State) (m : Master) (page : Nat) : Bool :=
  match m with
  | .svp | .pf _ => true
  | .vf _ _ | .tile _ =>
    let o := s.reg (page + 0x028)
    match (fld o 0 2).toNat with
    | 0 => true
    | 3 => masterPart s m == some ⟨(fld o 2 4).toNat, (fld o 2 4).isLt⟩
    | _ => false

/-- A write that breaks the ownership rules: dropped, counted in HUB_OWN_REJ, logged (R257). -/
def ownReject (s : State) (m : Master) (addr value : Nat) : State :=
  logEv (s.count (hubPage 0 + 0x044) 1) 4 257 (logUnit (masterPart s m) none) addr (some m) value

/-- Do k when the master may write the page, else reject. -/
def owned (s : State) (m : Master) (addr value : Nat) (k : State → State) : State :=
  if mayWrite s m (pageBase addr) then k s else ownReject s m addr value

/-! ## Safety fields (R259) -/

/-- Has a different master written this safety field, and been accepted, within the last 1 µs of TSCLK? -/
def safeRecent (s : State) (addr : Nat) (m : Master) : Bool :=
  s.hub.safety.any fun w => w.addr == addr && !(w.m == m) && decide (s.tsclk ≤ w.at0 + 1000)

/-- Remember an accepted write of a safety field. -/
def safeNote (s : State) (addr : Nat) (m : Master) : State :=
  s.modHub fun u =>
    { u with safety := { addr := addr, m := m, at0 := s.tsclk } :: u.safety.filter fun w => !(w.addr == addr && w.m == m) }

/-- A write of a safety field that would relax it is rejected within 1 µs of another master's; else k acts. -/
def safetyWrite (s : State) (m : Master) (addr value : Nat) (relaxes : Bool) (k : State → State) : State :=
  if relaxes && safeRecent s addr m then
    logEv (s.count (hubPage 0 + 0x048) 1) 4 259 (logUnit (masterPart s m) none) addr (some m) value
  else k (safeNote s addr m)

/-! ## Contract counters (R45, R48) -/

/-- Address of CTR[n] of a tile. -/
def ctrAddr (t : Tile) (n : Nat) : Nat := tilePage t 13 + 0x044 + 4 * n

/-- Count k in CTR[n] and set its event bit (R48). -/
def countCtr (s : State) (t : Tile) (n k : Nat) : State :=
  if k = 0 then s else setEvt (s.count (ctrAddr t n) k) (tilePage t 13) n

end Sys2Proof.Machine
end

