-- ==== Sys2Proof/Machine/Operands.lean ====
section
/-!
DEFINITION. Operand forms: general registers (R35), immediates (R356), register pairs (R357), branch targets (R358),
vector registers and their lanes (R97, R100).
-/

namespace Sys2Proof.Machine

/-- A general register; g0 reads as zero (R35). -/
def SeqSt.reg (q : SeqSt) (r : GReg) : Word := if r = 0 then 0 else SMap.get zeroW q.g r.val

/-- Write a general register; writes to g0 are discarded (R35). -/
def SeqSt.setReg (q : SeqSt) (r : GReg) (v : Word) : SeqSt :=
  if r = 0 then q else { q with g := SMap.set zeroW q.g r.val v }

/-- General register r of tile t. -/
def State.g (s : State) (t : Tile) (r : GReg) : Word := (s.seq t).reg r

/-- Write general register r of tile t. -/
def State.setG (s : State) (t : Tile) (r : GReg) (v : Word) : State := s.modSeq t (·.setReg r v)

/-- The register after r, the high half of a pair (R357). -/
def nextReg (r : GReg) : GReg := ⟨(r.val + 1) % 32, by omega⟩

/-- Is a register number odd? -/
def oddReg (r : GReg) : Bool := decide (r.val % 2 = 1)

/-- A sign-extended immediate (ADDI, SLTI). -/
def immS (imm : BitVec 16) : Word := imm.signExtend 32

/-- A zero-extended immediate (ANDI, ORI, XORI). -/
def immZ (imm : BitVec 16) : Word := imm.setWidth 32

/-- Bytes of a size code (Table 2.9). -/
def sizeBytes (size : BitVec 2) : Nat := 2 ^ size.toNat

/-- The 48-bit address of spaces 1 and 2 before the offset: g[ga] and g[ga + 1][15:0] (R357). -/
def pairAddr (s : State) (t : Tile) (ga : GReg) : Nat := (s.g t ga).toNat + (fld (s.g t (nextReg ga)) 0 16).toNat * 2 ^ 32

/-- The cistern offset of space 0: g[ga] + imm × size, without wrap (R357, log 17). -/
def cistOff (s : State) (t : Tile) (ga : GReg) (imm : BitVec 9) (n : Nat) : Int := ((s.g t ga).toNat : Int) + imm.toInt * n

/-- The address of spaces 1 and 2: the pair plus imm × size, in 48 bits (R357, log 17). -/
def addr48 (s : State) (t : Tile) (ga : GReg) (imm : BitVec 9) (n : Nat) : Nat :=
  (BitVec.ofInt 48 ((pairAddr s t ga : Int) + imm.toInt * n)).toNat

/-- Byte offset of the instruction in the active half. -/
def State.pc (s : State) (t : Tile) : Nat := (s.seq t).pc.toNat

/-- PC + 4 × off (R358). -/
def offTarget (s : State) (t : Tile) (off : BitVec 12) : Int := (s.pc t : Int) + 4 * off.toInt

/-- A legal branch target (R358). -/
def legalTarget (x : Int) : Bool := decide (0 ≤ x ∧ x ≤ 0x7FFC ∧ x % 4 = 0)

/-- Vector register r of tile t (R97). -/
def State.v (s : State) (t : Tile) (r : VReg) : VWord := SMap.get zeroV (s.vec t).v r.val

/-- Write vector register r of tile t. -/
def State.setV (s : State) (t : Tile) (r : VReg) (x : VWord) : State :=
  s.modVec t fun u => { u with v := SMap.set zeroV u.v r.val x }

/-- Element i of w bits of a vector register. -/
def lane (x : VWord) (w i : Nat) : Nat := nbits x.toNat (w * i) w

/-- A vector register from its elements of w bits, element 0 lowest. -/
def ofLanes (w : Nat) (l : List Nat) : VWord := BitVec.ofNat 2048 (l.foldr (fun x acc => x % 2 ^ w + 2 ^ w * acc) 0)

/-- The n lowest elements of w bits. -/
def lanes (x : VWord) (w n : Nat) : List Nat := (List.range n).map (lane x w)

end Sys2Proof.Machine
end

