-- ==== Sys2Proof/Machine/Mem.lean ====
section
/-!
DEFINITION. Cisterns (R112, R117, R118), wells with their twins (R143 … R147, R328), the store buffer (R56, R57), and
the address map (Table 1.5). ECC errors are marks of the state on a cistern quarter or a well granule (log 14).
-/

namespace Sys2Proof.Machine

/-! ## Lines -/

/-- The 64 bytes of a granule, first byte lowest. -/
def lineBytes (d : Line) : Bytes := toLe 64 d.toNat

/-- A granule of bytes. -/
def bytesLine (bs : Bytes) : Line := BitVec.ofNat 512 (leNat bs)

/-- n bytes of a granule from byte i, little-endian. -/
def lineLe (d : Line) (i n : Nat) : Nat := nbits d.toNat (8 * i) (8 * n)

/-- The bytes of a granule with their mask. -/
def maskedBytes (d : Line) (m : BitVec 64) : List (Byte × Bool) :=
  (lineBytes d).zipIdx.map fun (b, i) => (b, m.getLsbD i)

/-- Every byte of a granule. -/
def fullMask : BitVec 64 := BitVec.allOnes 64

/-- A line with the bytes of a mask replaced. -/
def mergeLine (old new : Line) (m : BitVec 64) : Line :=
  bytesLine (((lineBytes old).zip (maskedBytes new m)).map fun (o, n) => if n.2 then n.1 else o)

/-- n bytes of value v placed at byte i of a granule, and their mask. -/
def placeLe (i n v : Nat) : Line × BitVec 64 :=
  (BitVec.ofNat 512 ((v % 256 ^ n) * 256 ^ i), BitVec.ofNat 64 ((2 ^ n - 1) * 2 ^ i))

/-! ## Cistern -/

/-- Size of a cistern, 3 MiB (R112). -/
def cistSize : Nat := 0x300000

/-- Master codes of Table 5.2. -/
def mcRdout : Nat := 1
def mcLoader : Nat := 2
def mcPump : Nat := 3
def mcVector : Nat := 4
def mcDma (ch : Chan) : Nat := 5 + ch.val
def mcSeq : Nat := 9
def mcRemote : Nat := 10
def mcUnsched : Nat := 11

/-- An uncorrectable quarter met or left in place (R117, R118). -/
def cistUeRec (s : State) (t : Tile) (mc q : Nat) : State :=
  let a := tilePage t 4 + 0x044
  let s1 := setEvt (countUe s (tilePage t 4) 1) (tilePage t 4) 2
  if s1.rbit a 31 then s1 else s1.setReg a (BitVec.ofNat 32 (0x80000000 + mc * 2 ^ 22 + q * 16))

/-- A correctable quarter met: counted, logged (R322) and due for write-back (R118). -/
def cistCeRec (s : State) (t : Tile) (q : Nat) : State :=
  let s1 := logEv (setEvt (countCe s (tilePage t 4) 1) (tilePage t 4) 1) 1 117 (tileUnit s t) (tilePage t 4) none q
  s1.modMem t fun m => { m with writeBack := insertNat m.writeBack q }

/-- The quarters that n bytes from off touch. -/
def quartersOf (off n : Nat) : List Nat :=
  if n = 0 then [] else (List.range ((off + n - 1) / 16 - off / 16 + 1)).map (· + off / 16)

/-- Note the errors of a read over n bytes from off, each quarter once. -/
def cistNote (s : State) (t : Tile) (mc off n : Nat) : State :=
  s.each (quartersOf off n) fun s q =>
    if (s.mem t).cistUe.contains q then cistUeRec s t mc q
    else if (s.mem t).cistCe.contains q then cistCeRec s t q else s

/-- Is some quarter of the range uncorrectable? -/
def cistBad (s : State) (t : Tile) (off n : Nat) : Bool :=
  (quartersOf off n).any ((s.mem t).cistUe.contains ·)

/-- Read n bytes of a cistern: the bytes, none where a quarter is uncorrectable, and the state after its counts. -/
def cistRead (s : State) (t : Tile) (mc off n : Nat) : Option Bytes × State :=
  (if cistBad s t off n then none else some (Mem.readN (s.mem t).cist off n), cistNote s t mc off n)

/-- The state of a quarter whose code a write renews. -/
def cistFresh (m : MemSt) (q : Nat) : MemSt :=
  { m with cistUe := removeNat m.cistUe q, cistCe := removeNat m.cistCe q, writeBack := removeNat m.writeBack q }

/-- Write the part of bs (which starts at off) that falls in quarter q: whole quarters directly, parts by
read-modify-write, which leaves an uncorrectable quarter as it is (R117). -/
def cistWriteQ (s : State) (t : Tile) (mc off : Nat) (bs : Bytes) (q : Nat) : State :=
  let lo := max off (16 * q)
  let hi := min (off + bs.length) (16 * q + 16)
  let part := (bs.drop (lo - off)).take (hi - lo)
  if hi - lo < 16 ∧ (s.mem t).cistUe.contains q then cistUeRec s t mc q
  else
    let s1 := if hi - lo < 16 ∧ (s.mem t).cistCe.contains q then cistCeRec s t q else s
    s1.modMem t fun m => cistFresh { m with cist := Mem.writeN m.cist lo part } q

/-- Write bytes to a cistern. -/
def cistWrite (s : State) (t : Tile) (mc off : Nat) (bs : Bytes) : State :=
  s.each (quartersOf off bs.length) fun s q => cistWriteQ s t mc off bs q

/-- Little-endian read of n bytes that ignores ECC marks: the data path of a read already checked. -/
def cistLe (s : State) (t : Tile) (off n : Nat) : Nat := Mem.readLe (s.mem t).cist off n

/-! ## Wells -/

/-- Size of a well, 512 MiB (R20). -/
def wellSize : Nat := 0x20000000

/-- Place of byte o of a shaft in the wells' memory. -/
def wellAt (shaft o : Nat) : Nat := shaft * wellSize + o

/-- Number of the granule of byte o of a shaft. -/
def wellGran (shaft o : Nat) : Nat := wellAt shaft o / 64

/-- Home-well device address of byte o of tile t (Table 1.5). -/
def homeDpa (t : Tile) (o : Nat) : Nat := t.val * wellSize + o

/-- A refresh runs in the bank that holds offset o of tile t's home well: cycles 0 … 59 of the frame, bank n mod 32
(R141, R142). -/
def bankRefreshes (s : State) (t : Tile) (o : Nat) : Bool :=
  let x := s.fld (tileField t)
  match x.refAt with
  | some c => fieldRuns s (tileField t) && decide (s.cyc (tileField t) < c + 60 ∧ o / 0x1000000 = (x.frame - 1) % 32)
  | none => false

/-- A scheduled burst of a unit of tile t meets the refresh of its bank in tile w's well and waits: EVT_STS.bank_over, and
CTR[3] counts the wait (R142). i numbers a DMA channel or the store buffer; a sequencer counts its own stall. -/
def bankOver (s : State) (t w : Tile) (i : Option Nat) : State :=
  let s1 := setEvt s (tilePage w 9) 8
  match i, (s.fld (tileField w)).refAt with
  | some i, some c =>
    let k := 8 * (tileField w).val + i
    let now := max (s.cyc (tileField w)) (SMap.get zeroN (s.mem t).bankWait k)
    if now < c + 60 then
      countCtr (s1.modMem t fun m => { m with bankWait := SMap.set zeroN m.bankWait k (c + 60) }) t 3 (c + 60 - now)
    else s1
  | _, _ => s1

/-- The words of TWIN[e] of a tile (R145, R162). -/
def twinWord (t : Tile) (e w : Nat) : Nat := tilePage t 9 + 0x090 + 16 * e + 4 * w

/-- Range of TWIN[e] in bytes of the home well: start and length. -/
def twinRange (s : State) (t : Tile) (e : Nat) : Nat × Nat :=
  ((fld (s.reg (twinWord t e 0)) 0 8).toNat * 0x200000, (fld (s.reg (twinWord t e 1)) 0 9).toNat * 0x200000)

/-- TWIN[e] is in force: valid and not broken (R145, R147). -/
def twinLive (s : State) (t : Tile) (e : Nat) : Bool := s.rbit (twinWord t e 3) 0 && !s.rbit (twinWord t e 3) 1

/-- Does TWIN[e] cover offset o? -/
def twinCovers (s : State) (t : Tile) (o e : Nat) : Bool :=
  let (b, n) := twinRange s t e
  twinLive s t e && decide (b ≤ o ∧ o < b + n)

/-- The twin of offset o of tile t: the entry and the twin tile. -/
def twinOf (s : State) (t : Tile) (o : Nat) : Option (Nat × Tile) :=
  ((List.range 8).find? (twinCovers s t o)).bind fun e =>
    let n := (fld (s.reg (twinWord t e 2)) 0 13).toNat
    if h : n < 4224 then some (e, ⟨n, h⟩) else none

/-- An entry comes into force: its broken mark ends (R147), and it resyncs where its range already holds data (R333). -/
def twinArm (s : State) (t : Tile) (e : Nat) : State :=
  let (b, n) := twinRange s t e
  let a := wellAt (homeShaft s t) b
  let data := s.wells.any fun c => decide (a ≤ c.1 ∧ c.1 < a + n)
  (s.setRbit (twinWord t e 3) 1 false).modMem t fun m =>
    { m with resync := if data then insertNat m.resync e else removeNat m.resync e }

/-- A twin whose field is dark or absent breaks its entry (R147). -/
def breakTwin (s : State) (t : Tile) (e : Nat) : State :=
  setEvt (s.setRbit (twinWord t e 3) 1 true) (tilePage t 9) 3

/-- Mark granule g uncorrectable: the poison check pattern (R154). -/
def poisonGran (s : State) (g : Nat) : State :=
  { s with wellUe := insertNat s.wellUe g, wellCe := SMap.set zeroN s.wellCe g 0 }

/-- Renew the code of granule g. -/
def freshGran (s : State) (g : Nat) : State :=
  { s with
    wellUe := removeNat s.wellUe g, wellCe := SMap.set zeroN s.wellCe g 0,
    hub := { s.hub with biPoison := removeNat s.hub.biPoison g } }

/-- Store the granule at offset o of a shaft whole. -/
def shaftPut (s : State) (shaft o : Nat) (d : Line) : State :=
  freshGran { s with wells := Mem.writeN s.wells (wellAt shaft (o / 64 * 64)) (lineBytes d) } (wellGran shaft o)

/-- The granule at offset o of a shaft, ECC apart. -/
def shaftLine (s : State) (shaft o : Nat) : Line := bytesLine (Mem.readN s.wells (wellAt shaft (o / 64 * 64)) 64)

/-- An uncorrectable granule is counted and captured (R144). -/
def wellUeRec (s : State) (t : Tile) (o : Nat) : State :=
  let a := tilePage t 9 + 0x110
  let s1 := countUe s (tilePage t 9) 1
  if s1.rbit a 31 then s1 else s1.setReg a (BitVec.ofNat 32 (0x80000000 + o / 64))

/-- A corrected granule is counted, with its symbol (R144), and logged (R322). wellCe holds 1 + symbol + 128 × half. -/
def wellCeRec (s : State) (t : Tile) (v : Nat) : State :=
  logEv ((countCe s (tilePage t 9) 1).setReg (tilePage t 9 + 0x114) (BitVec.ofNat 32 (0x80000000 + (v - 1)))) 1 143
    (tileUnit s t) (tilePage t 9) none (v - 1)

/-- A read of a granule meets its correctable error, where it has one (R144). -/
def wellCeMet (s : State) (t : Tile) (o : Nat) : State :=
  let v := SMap.get zeroN s.wellCe (wellGran (homeShaft s t) o)
  if v = 0 then s else wellCeRec s t v

/-- Untwinned data is lost: EVT_STS.ue and a report (R144, R6). -/
def wellLost (s : State) (t : Tile) (o : Nat) : State :=
  reportLoss (setEvt s (tilePage t 9) 7) (tileUnit s t) (tilePage t 9) (homeDpa t o)

/-- Re-read an uncorrectable granule from its twin (R147): the data where the twin is good, which also repairs the
primary, and logs the error it absorbed (R322). An entry that is still resyncing gives nothing (R333). -/
def twinRetryOp (s : State) (t : Tile) (o : Nat) : Option Line × State :=
  match twinOf s t o with
  | none => (none, wellLost s t o)
  | some (e, t') =>
    if (s.mem t).resync.contains e then (none, wellLost s t o)
    else if fieldDark s (tileField t') then (none, wellLost (breakTwin s t e) t o)
    else
      let sh := homeShaft s t'
      if s.wellUe.contains (wellGran sh o) then (none, wellLost (wellUeRec s t' o) t o)
      else
        let d := shaftLine s sh o
        let s0 := wellCeMet s t' o
        let s1 := setEvt (shaftPut s0 (homeShaft s0 t) o d) (tilePage t 9) 2
        (some d, logEv (s1.count (tilePage t 9 + 0x08C) 1) 1 147 (tileUnit s t) (tilePage t 9) none (homeDpa t o))

/-- Read the granule that holds offset o of tile t's home well (R144, R147). -/
def wellRead (s : State) (t : Tile) (o : Nat) : Option Line × State :=
  let sh := homeShaft s t
  let g := wellGran sh o
  if s.wellUe.contains g then twinRetryOp (wellUeRec s t o) t o
  else (some (shaftLine s sh o), wellCeMet s t o)

/-- Write bytes of one granule of a shaft, its copy under a decant link not included. A whole granule is written as it
is; a part is completed by a read, and left unwritten where that is uncorrectable (R56). -/
def shaftMerge (s : State) (shaft o : Nat) (d : Line) (m : BitVec 64) : State :=
  if m = fullMask then shaftPut s shaft o d
  else if s.wellUe.contains (wellGran shaft o) then s
  else shaftPut s shaft o (mergeLine (shaftLine s shaft o) d m)

/-- Write bytes of one granule of tile t's home well, and of the shaft a decant link is filling (R328). An
uncorrectable granule that a part meets is first retried from its twin; where it stays so, it is counted on page and
logged (R56); a correctable one is counted (R144). -/
def wellWrite (s : State) (t : Tile) (o : Nat) (d : Line) (m : BitVec 64) (page : Nat) : State :=
  let sh := homeShaft s t
  let s1 := if m = fullMask then s
    else match wellRead s t o with
      | (some _, s2) => s2
      | (none, s2) => logEv (countUe s2 page 1) 3 56 (tileUnit s2 t) page none (homeDpa t o)
  let s2 := shaftMerge s1 sh o d m
  match decantCopy s t with
  | some c => if s2.wellUe.contains (wellGran sh o) then s2 else shaftPut s2 c o (shaftLine s2 sh o)
  | none => s2

/-- A write at a well port closes the entry of its block to joins (R177). -/
def mergeWrite (s : State) (f : Field) (shaft o : Nat) : State :=
  s.modFld f fun x => { x with merge := x.merge.map fun e =>
    if e.shaft == shaft && e.block == o / 1024 then { e with closed := true } else e }

/-- Mirror a write to the twin, or break the entry when the twin's field is dark (R146). -/
def wellMirror (s : State) (t : Tile) (o : Nat) (d : Line) (m : BitVec 64) (page : Nat) : State :=
  match twinOf s t o with
  | none => s
  | some (e, t') =>
    if fieldDark s (tileField t') then breakTwin s t e
    else wellWrite (mergeWrite s (tileField t') (homeShaft s t') o) t' o d m page

/-- A write with its mirror in one step: host writes and one-sided writes (R146). -/
def wellWrite2 (s : State) (t : Tile) (o : Nat) (d : Line) (m : BitVec 64) (page : Nat) : State :=
  wellMirror (wellWrite s t o d m page) t o d m page

/-- Little-endian value of n bytes at offset o of a home well, within one granule. -/
def wellLe (s : State) (t : Tile) (o n : Nat) : Option Nat × State :=
  match wellRead s t o with
  | (some d, s1) => (some (lineLe d (o % 64) n), s1)
  | (none, s1) => (none, s1)

/-- Write n bytes at offset o, cut at granule bounds. -/
def wellBytes (s : State) (t : Tile) (o : Nat) (bs : Bytes) (page : Nat) : State :=
  s.each (if bs.isEmpty then [] else (List.range ((o + bs.length - 1) / 64 - o / 64 + 1)).map (· + o / 64)) fun s g =>
    let lo := max o (64 * g)
    let hi := min (o + bs.length) (64 * g + 64)
    let (d, m) := placeLe (lo - 64 * g) (hi - lo) (leNat ((bs.drop (lo - o)).take (hi - lo)))
    wellWrite2 s t (64 * g) d m page

/-! ## Address map (Table 1.5) -/

/-- What a device physical address names. -/
inductive Place where
  | well (t : Tile) (o : Nat)
  | reserve (f : Field) (seg o : Nat)
  | cist (t : Tile) (o : Nat)
  | reg (a : Nat)
  | nowhere
  deriving DecidableEq, Repr

/-- Decode a device physical address (Table 1.5, R32). -/
def placeOf (a : Nat) : Place :=
  if h : a < 0x021000000000 then .well ⟨a / 0x20000000, by omega⟩ (a % 0x20000000)
  else if h : a < 0x024000000000 then
    .reserve ⟨(a - 0x021000000000) / 0x20000000 / 8, by omega⟩ ((a - 0x021000000000) / 0x20000000 % 8) (a % 0x20000000)
  else if h : 0x080000000000 ≤ a ∧ a < 0x080420000000 then
    if (a - 0x080000000000) % 0x400000 < cistSize then
      .cist ⟨(a - 0x080000000000) / 0x400000, by omega⟩ ((a - 0x080000000000) % 0x400000)
    else .nowhere
  else match pageOf a with
    | .none => .nowhere
    | _ => .reg a

/-- The register page that counts an access to an unmapped address: the block that decodes it (R32). Which page that is
outside every register window is the model's choice (DESIGN CHOICE, log 16): page 0 of the field of a reserve well or of
the tile that asks, governor page 0 for the service processor, page 4 of the tile whose cistern window has the hole for
any other master, else hub page 0. -/
def decodePage (a : Nat) (req : Master) : Nat :=
  match pageOf a with
  | .tile t p => tilePage t (if p < 14 then p else 0)
  | .field f p => fieldPage f (if (pageRows (.field f p)).isSome then p else 0)
  | .yurno y p => yurnoPage y (if (pageRows (.yurno y p)).isSome then p else 0)
  | .hub p => hubPage (if p ≤ 5 then p else 0)
  | .part q p => partPage q p
  | .gov p => govPage (if p ≤ 8 then p else 0)
  | .none =>
    match placeOf a, req with
    | .reserve f _ _, _ => fieldPage f 0
    | _, .tile t => fieldPage (tileField t) 0
    | _, .svp => govPage 0
    | _, _ =>
      if h : 0x080000000000 ≤ a ∧ a < 0x080420000000 then
        tilePage ⟨(a - 0x080000000000) / 0x400000, by omega⟩ 4
      else hubPage 0

/-- An access to an unmapped address: counted and logged with its requester (R32). -/
def unmapped (s : State) (a : Nat) (req : Master) : State :=
  let pg := decodePage a req
  logEv (countUe s pg 1) (Config.openClass 32) 32 (logUnit (masterPart s req) none) pg (some req) a

/-! ## Host window (R156) -/

/-- The well and offset of window offset h of a partition. -/
def windowPlace (s : State) (p : Part) (h : Nat) : Option (Tile × Nat) :=
  let n := partN s p
  if n = 0 then none
  else (tileOfLocal s p (h / 256 % n)).map fun t => (t, h / 256 / n * 256 + h % 256)

/-- The window offset of byte o of a tile's well. -/
def windowOffset (s : State) (p : Part) (t : Tile) (o : Nat) : Nat :=
  (o / 256 * partN s p + localIndex s p t) * 256 + o % 256

/-- Is offset o of a home well in the save area (R212)? -/
def inSaveArea (o : Nat) : Bool := decide (o < 0x8000000 ∧ 0xE00000 ≤ o % 0x1000000)

/-- Does byte a of the device map lie in the table region of a partition (R206)? -/
def inTableRegion (s : State) (p : Part) (a : Nat) : Bool :=
  let b := (fld (s.reg (partPage p 1 + 0x040)) 0 27).toNat * 0x200000
  let n := (fld (s.reg (partPage p 1 + 0x044)) 0 12).toNat * 0x200000
  decide (b ≤ a ∧ a < b + n)

/-! ## Coherence (R254) -/

/-- Send a back-invalidate and note it outstanding. -/
def sendSnoop (s : State) (p : Part) (line : Nat) (inv : Bool) (t : Option Tile) (h : HostPort) : State :=
  let s1 := if inv then s.count (hubPage 5 + 0x044) 1 else s
  let s2 := s1.emit (.host h (if inv then .bisnpInv p line else .bisnpData p line))
  s2.modHub fun u => { u with snoops := u.snoops ++ [{ part := p, line := line, inv := inv, port := h, at0 := s.tsclk, tile := t }] }

/-- Host ports that hold a line. -/
def holders (e : SfLine) : List HostPort :=
  (List.finRange 4).filter fun h => e.owner == some h || e.sharers.getLsbD h.val

/-- An access by a tile master to byte o of a home well (R254): the state where the access may go on, or, where it waits
for a response, the state with the back-invalidates sent. -/
def snoopGate (s : State) (by0 : Tile) (t : Tile) (o : Nat) (wr : Bool) : Bool × State :=
  match partOf s t with
  | none => (true, s)
  | some p =>
    let line := windowOffset s p t o / 64
    if s.hub.snoops.any fun w => w.part == p && w.line == line then (false, s)
    else
      match s.hub.sf.find? fun e => e.part == p && e.line == line with
      | none => (true, s)
      | some e =>
        if wr then
          if (holders e).isEmpty then (true, s)
          else (false, s.each (holders e) fun s h => sendSnoop s p line true (some by0) h)
        else match e.owner with
          | none => (true, s)
          | some h => (false, sendSnoop s p line false (some by0) h)

/-! ## Store buffer (R56) -/

/-- The entry of a granule. -/
def sbFind (s : State) (t : Tile) (g : Nat) : Option SbEntry := (s.mem t).sb.find? (·.granule == g)

/-- A store of masked bytes enters the store buffer, merged into the entry of its granule; none when full. -/
def sbPut (s : State) (t : Tile) (g : Nat) (d : Line) (m : BitVec 64) : Option State :=
  match sbFind s t g with
  | some _ => some (s.modMem t fun c => { c with sb := c.sb.map fun e =>
      if e.granule == g then
        { e with data := mergeLine e.data d m, mask := e.mask ||| m, written := false, mirrored := false }
      else e })
  | none =>
    if (s.mem t).sb.length < 64 then
      some (s.modMem t fun c =>
        { c with sb := c.sb ++ [{ granule := g, data := d, mask := m, written := false, mirrored := false }] })
    else none

/-- A granule as the tile itself sees it: its own stores over what the well holds (R56). -/
def sbOver (s : State) (t : Tile) (g : Nat) (d : Line) : Line :=
  match sbFind s t g with
  | some e => mergeLine d e.data e.mask
  | none => d

/-- Are all n bytes from byte i of granule g valid in the store buffer? -/
def sbHolds (s : State) (t : Tile) (g i n : Nat) : Bool :=
  match sbFind s t g with
  | some e => (List.range n).all fun j => e.mask.getLsbD (i + j)
  | none => false

/-- Does granule g go to the tile's own home well (the slot path of R56)? -/
def ownPath (t : Tile) (g : Nat) : Bool := decide (g * 64 / wellSize = t.val)

/-- The oldest unwritten entry on the path of granule g is g's own (R56: oldest first on each path). -/
def sbOldest (s : State) (t : Tile) (g : Nat) : Bool :=
  match (s.mem t).sb.find? (fun e => !e.written && ownPath t e.granule == ownPath t g) with
  | some e => e.granule == g
  | none => false

/-- Does a well granule still owe a mirror (R146)? The mirror follows the write of the primary. -/
def mirrorDue (s : State) (e : SbEntry) : Bool :=
  !e.mirrored && (match placeOf (e.granule * 64) with
    | .well t o => (twinOf s t o).isSome
    | _ => false)

/-- An entry retires when every copy due is written (R146). -/
def sbRetire (s : State) (t : Tile) (g : Nat) : State :=
  match sbFind s t g with
  | some e =>
    if e.written && !mirrorDue s e then s.modMem t fun c => { c with sb := c.sb.filter (·.granule != g) } else s
  | none => s

/-- Mark an entry. -/
def sbMark (s : State) (t : Tile) (g : Nat) (f : SbEntry → SbEntry) : State :=
  s.modMem t fun c => { c with sb := c.sb.map fun e => if e.granule == g then f e else e }

/-- Write an entry to its well (R56). -/
def sbWrite (s : State) (t : Tile) (g : Nat) : State :=
  match sbFind s t g with
  | some e =>
    match placeOf (g * 64) with
    | .well h o => sbRetire (sbMark (wellWrite s h o e.data e.mask (tilePage t 10)) t g fun e => { e with written := true }) t g
    | _ => s
  | none => s

/-- What the mirror of an entry carries: the bytes of the entry as they stand in the primary, so that a write that came to
the granule after the entry's own reaches the twin in the same order (R146). -/
def mirrorLine (s : State) (h : Tile) (o : Nat) (e : SbEntry) : Line :=
  if s.wellUe.contains (wellGran (homeShaft s h) o) then e.data else shaftLine s (homeShaft s h) o

/-- Write an entry to its twin (R146). -/
def sbMirror (s : State) (t : Tile) (g : Nat) : State :=
  match sbFind s t g with
  | some e =>
    match placeOf (g * 64) with
    | .well h o =>
      sbRetire (sbMark (wellMirror s h o (mirrorLine s h o e) e.mask (tilePage t 10)) t g fun e => { e with mirrored := true }) t g
    | _ => s
  | none => s

/-- Drain the whole buffer, twin mirrors included: the drains of Table 2.7 that the module performs as one. -/
def sbDrainAll (s : State) (t : Tile) : State :=
  s.each (s.mem t).sb fun s e =>
    let s1 := if e.written then s else sbWrite s t e.granule
    match sbFind s1 t e.granule with
    | some _ => sbMirror s1 t e.granule
    | none => s1

/-- Discard every entry; no partial granule is written (Table 2.7). -/
def sbDiscard (s : State) (t : Tile) : State := s.modMem t fun c => { c with sb := [] }

/-- The buffer is empty. -/
def sbEmpty (s : State) (t : Tile) : Bool := (s.mem t).sb.isEmpty

/-! ## Step guard (R49) -/

/-- Does a write of n bytes at a partition virtual address hit a valid guard entry of tile t? An entry of length 0 is
unused (R49). -/
def guardHit (s : State) (t : Tile) (va n : Nat) : Bool :=
  (List.range 16).any fun e =>
    let a := tilePage t 13 + 0x080 + 16 * e
    let b := (fld (s.reg a) 12 20).toNat * 4096 + (fld (s.reg (a + 4)) 0 16).toNat * 2 ^ 32
    let len := (fld (s.reg (a + 8)) 0 24).toNat * 4096
    s.rbit (a + 12) 0 && decide (len ≠ 0 ∧ b < va + n ∧ va < b + len)

/-- A guard hit: the write is dropped, replay_ok clears, CTR[2] counts (R49). -/
def guardTake (s : State) (t : Tile) : State :=
  countCtr (s.setRbit (tilePage t 13 + 0x040) 1 false) t 2 1

end Sys2Proof.Machine
end

