-- ==== Sys2Proof/Machine/Route.lean ====
section
/-!
DEFINITION. Routes through the fabric (R173 … R180): dimension order over the field mesh, closed and stopped seams,
arbiters, merged reads. A transfer takes its whole route at once (log 10).
-/

namespace Sys2Proof.Machine

/-! ## Pages of the fabric (Table 8.6) -/

/-- Number of an adapter, XP, XM, YP, YM in order. -/
def adapterNo : Adapter → Nat
  | .xp => 0 | .xm => 1 | .yp => 2 | .ym => 3

def seamPage (f : Field) (a : Adapter) : Nat := fieldPage f (195 + adapterNo a)
/-- Pages of the tile port and of the well port at a place of a field. -/
def tilePortPage (f : Field) (i : Nat) : Nat := fieldPage f (3 + i)
def wellPortPage (f : Field) (i : Nat) : Nat := fieldPage f (99 + i)

/-- Page of an arbiter. -/
def portPageAddr : PortPage → Nat
  | .tilePort f s => tilePortPage f s.val
  | .wellPort f s => wellPortPage f s.val
  | .seam f a => seamPage f a
  | .spine f => fieldPage f 199
  | .attach f => fieldPage f 200
  | .hub h => hubPage (1 + h.val)

/-- A port is frozen (R188). -/
def portFrozen (s : State) (page : Nat) : Bool := s.rbit (page + 0x008) 1

/-- Place of a shaft in its field, 0 … 95. -/
def shaftPlace (n : Nat) : Nat := n / 96 % 8 * 12 + n % 12

/-! ## Route (R179) -/

/-- The field with number n, where it is one. -/
def fieldNo (n : Nat) : Option Field := if h : n < 48 then some ⟨n, h⟩ else none

/-- The neighbour through an adapter. -/
def neighbour (f : Field) (a : Adapter) : Option Field :=
  if adapterExists f a then
    fieldNo (match a with | .xp => f.val + 1 | .xm => f.val - 1 | .yp => f.val + 8 | .ym => f.val - 8)
  else none

/-- The adapter that faces back. -/
def backAdapter : Adapter → Adapter
  | .xp => .xm | .xm => .xp | .yp => .ym | .ym => .yp

/-- The adapter of the next hop from a to b. -/
def nextHop (a b : Field) : Option Adapter :=
  if a.val % 8 < b.val % 8 then some .xp
  else if b.val % 8 < a.val % 8 then some .xm
  else if a.val < b.val then some .yp
  else if b.val < a.val then some .ym
  else none

/-- The hops from a to b: each field left, the adapter, and the field entered. At most 12 are needed. -/
def routeOf : Nat → Field → Field → List (Field × Adapter × Field)
  | 0, _, _ => []
  | n + 1, a, b =>
    match nextHop a b with
    | none => []
    | some ad => match neighbour a ad with
      | some c => (a, ad, c) :: routeOf n c b
      | none => []

/-- Number of seams crossed. -/
def seamsBetween (a b : Field) : Nat := (routeOf 12 a b).length

/-- What the fabric answers to a transfer: it goes, it waits, or it comes back with an error completion. -/
inductive Gate where
  | go | wait | err
  deriving DecidableEq, Repr

/-- Entries of a kind in the queue of an adapter. -/
def seamEntries (s : State) (f : Field) (a : Adapter) (rsp : Bool) : List HeldXfer :=
  (s.fld f).held.filter fun h => h.adapter == a && h.rsp == rsp

/-- The queue of an adapter has room: 16 entries for requests and 16 for responses, of each 8 for scheduled transfers alone
(R26, R178). -/
def seamRoom (s : State) (f : Field) (h : HeldXfer) : Bool :=
  let l := seamEntries s f h.adapter h.rsp
  decide (l.length < 16) && (h.sched || decide ((l.filter (!·.sched)).length < 8))

/-- A seam to an absent field, or a closed adapter, gives a transfer its error completion (R28, R180): what that leaves. -/
def seamRefuses (s : State) (who : Option Master) (x : Field × Adapter × Field) : Option State :=
  let (a, ad, b) := x
  let out := seamPage a ad
  let shut := if !s.rbit (out + 0x080) 0 then some out
    else if !s.rbit (seamPage b (backAdapter ad) + 0x080) 0 then some (seamPage b (backAdapter ad)) else none
  if (s.fld b).absent then some (logEv s (Config.openClass 28) 28 (logUnit none (some a)) out who b.val)
  else shut.map fun pg => setEvt (countUe s pg 1) pg 3

/-- A transfer meets a seam (R180, R28), as a request or as a response. Where the peer is stopped it stands in the adapter's
queue, or before it while that is full (R178). -/
def seamGate (s : State) (t : Tile) (cls : Nat) (rsp : Bool) (x : Field × Adapter × Field) : Gate × State :=
  let (a, ad, b) := x
  match seamRefuses s (some (.tile t)) x with
  | some s1 => (.err, s1)
  | none =>
    if !fieldRuns s b then
      let h : HeldXfer := { adapter := ad, tile := t, rsp := rsp, sched := cls == 1 }
      (.wait, if (s.fld a).held.contains h || !seamRoom s a h then s else s.modFld a fun f => { f with held := f.held ++ [h] })
    else (.go, s)

/-- A transfer meets every seam of its route in order. -/
def seamsGate (s : State) (t : Tile) (cls : Nat) (rsp : Bool) : List (Field × Adapter × Field) → Gate × State
  | [] => (.go, s)
  | x :: l =>
    match seamGate s t cls rsp x with
    | (.go, s1) => seamsGate s1 t cls rsp l
    | r => r

/-- A seam carries a transfer of a class: SEAM_CNT_S counts the scheduled ones, SEAM_CNT_U the others. -/
def seamCount (s : State) (cls : Nat) (x : Field × Adapter × Field) : State :=
  s.count (seamPage x.1 x.2.1 + if cls = 1 then 0x088 else 0x08C) 1

/-- The entry of a well port that a read of offset o joins: open for its 1 KiB block, and opened no more than 8 cycles ago
(R176). -/
def joins (shaft o : Nat) (e : MergeEnt) : Bool := e.shaft == shaft && e.block == o / 1024 && !e.closed

/-- A read of a granule at a well port (R176, R177): it joins an open merge entry of its 1 KiB block opened no more than 8
cycles ago, and raises it to its class, or it opens one of 8. -/
def mergeRead (s : State) (f : Field) (cls shaft o : Nat) : State :=
  let now := s.cyc f
  let l := (s.fld f).merge.filter fun e => decide (now ≤ e.at0 + 8)
  let s1 := s.modFld f fun x => { x with merge := l }
  if l.any (joins shaft o) then
    (s1.modFld f fun x => { x with merge := l.map fun e => if joins shaft o e then { e with cls := min e.cls cls } else e }).count
      (fieldPage f 2 + 0x048) 1
  else if s.rbit (fieldPage f 2 + 0x040) 0 || decide (8 ≤ (l.filter (·.shaft == shaft)).length) then s1
  else
    (s1.modFld f fun x =>
      { x with merge := l ++ [{ shaft := shaft, block := o / 1024, at0 := now, closed := false, cls := cls, lines := [] }] }).count
      (fieldPage f 2 + 0x044) 1

/-- Read a granule of a home well at its well port: a member of a merge entry takes what the entry has read already, so that
an error is met once for all of them (R176, R177). -/
def portWellRead (s : State) (t : Tile) (o : Nat) : Option Line × State :=
  let f := tileField t
  let sh := homeShaft s t
  match (s.fld f).merge.find? (joins sh o) with
  | none => wellRead s t o
  | some e =>
    match e.lines.find? (·.1 == o / 64) with
    | some x => (x.2, s)
    | none =>
      let r := wellRead s t o
      let put := fun (e : MergeEnt) => if joins sh o e then { e with lines := e.lines ++ [(o / 64, r.1)] } else e
      (r.1, r.2.modFld f fun x => { x with merge := x.merge.map put })

/-! ## Arbiters (R184 … R187) -/

/-- Largest back-off exponent of an arbiter. -/
def kcap (s : State) (pg : Nat) : Nat := (fld (s.reg (pg + 0x040)) 0 4).toNat

/-- The clock of an arbiter: FCLK cycles of its field, at the host hub nanoseconds (R183). -/
def arbCyc (s : State) (pg : Nat) : Nat :=
  match pageOf pg with
  | .field f _ => s.cyc f
  | _ => s.tsclk

/-- The requests a decision sees: not backing off (R184). -/
def visible (a : Arb) : List ArbReq := a.reqs.filter (!·.backing)

/-- Distance of a port after the pointer, round the ports. -/
def roundDist (ptr port : Nat) : Nat := (port + 256 - (ptr + 1)) % 256

/-- Of two requests of a class, the one granted first: among scheduled ones those that have waited, by port number (R187),
else round-robin from the port after the pointer (R185). -/
def before (ptr : Nat) (a b : ArbReq) : Bool :=
  if a.cls ≠ b.cls then decide (a.cls < b.cls)
  else if a.cls = 1 then (if a.again = b.again then decide (a.port ≤ b.port) else a.again)
  else decide (roundDist ptr a.port ≤ roundDist ptr b.port)

/-- The request a decision grants. -/
def pick (a : Arb) : List ArbReq → Option ArbReq
  | [] => none
  | r :: l =>
    match pick a l with
    | none => some r
    | some b => some (if before (SMap.get zeroN a.ptr r.cls) r b then r else b)

/-- A scheduled request that waits is counted (R187); an unscheduled one that loses gets its notice and backs off
(R185). -/
def loseArb (s : State) (pg : Nat) (r : ArbReq) : State :=
  if r.cls = 1 then
    setEvt ((s.count (pg + 0x054) 1).modArb pg fun a =>
      { a with reqs := a.reqs.map fun x => if x = r then { x with again := true } else x }) pg 0
  else if r.cls = 4 then
    let k := min (SMap.get zeroN (s.arb pg).k r.port + 1) (kcap s pg)
    let s1 := (s.count (pg + 0x050) 1).modReg (pg + 0x05C) fun w =>
      if (fld w 0 4).toNat < k then setFld w 0 (BitVec.ofNat 4 k) else w
    s1.modArb pg fun a =>
      { a with k := SMap.set zeroN a.k r.port k
               reqs := a.reqs.map fun x => if x = r then { x with backing := true, raise := arbCyc s pg + 2 ^ k } else x }
  else s

/-- A decision grants request r: the pointer moves to its port, its losses end, and the other visible requests lose. -/
def arbGrant (s : State) (pg : Nat) (r : ArbReq) : State :=
  let s1 := (s.modArb pg fun a =>
    { a with reqs := a.reqs.erase r, ptr := SMap.set zeroN a.ptr r.cls r.port, k := SMap.set zeroN a.k r.port 0
             inflight := a.inflight ++ [r.who], last := some (arbCyc s pg, r.who) }).count (pg + 0x048) 1
  s1.each ((visible (s.arb pg)).erase r) fun s x => loseArb s pg x

/-- The request of a transfer at an arbiter. -/
def ownReq (a : Arb) (w : ReqOf) : Option ArbReq := a.reqs.find? (·.who == w)

/-- Another transfer has the output in this cycle: one transfer per output per cycle (R174). -/
def arbTaken (s : State) (pg : Nat) (w : ReqOf) : Bool :=
  match (s.arb pg).last with
  | some (c, x) => x != w && c == arbCyc s pg
  | none => false

/-- The next decision of the arbiter at a page goes to a transfer: it has been granted already, its request is the one
that is picked, or nobody else asks. -/
def arbClear (s : State) (pg : Nat) (w : ReqOf) : Bool :=
  let a := s.arb pg
  a.inflight.contains w || (!portFrozen s pg && !arbTaken s pg w &&
    match ownReq a w with
    | none => (visible a).isEmpty
    | some r => pick a (visible a) == some r)

/-- A new request. -/
def newReq (w : ReqOf) (cls port : Nat) : ArbReq :=
  { port := port, cls := cls, who := w, again := false, backing := false, raise := 0, seen := false }

/-- Change the arbiters at which something of w stands. -/
def modArbsOf (s : State) (w : ReqOf) (g : Arb → Arb) : State :=
  s.each s.arbs fun s e =>
    if e.2.reqs.any (·.who == w) || e.2.inflight.contains w then s.modArb (e.1 * 0x1000) g else s

/-- A transfer asks at one output at a time. -/
def unask (s : State) (w : ReqOf) : State := modArbsOf s w fun a => { a with reqs := a.reqs.filter (·.who != w) }

/-- A transfer has ended: nothing of it stands at an arbiter. -/
def arbLeave (s : State) (w : ReqOf) : State :=
  modArbsOf s w fun a => { a with reqs := a.reqs.filter (·.who != w), inflight := a.inflight.filter (· != w) }

/-- A transfer of class cls comes from a port to the output of a page: it is granted, or its request is raised and it
waits. A request that comes in the cycle of another's grant stood in the same decision and has lost it (R185, R187). -/
def arbPass (s : State) (w : ReqOf) (cls : Nat) (x : Nat × Nat) : Bool × State :=
  let a := s.arb x.1
  if a.inflight.contains w then (true, s)
  else if arbClear s x.1 w then (true, arbGrant s x.1 ((ownReq a w).getD (newReq w cls x.2)))
  else if (ownReq a w).isSome then (false, s)
  else
    let r := newReq w cls x.2
    let s1 := (unask s w).modArb x.1 fun a => { a with reqs := a.reqs ++ [r] }
    (false, if arbTaken s x.1 w && !portFrozen s x.1 then loseArb s1 x.1 r else s1)

/-- A transfer comes to every output of its way in order: pages, with the number of the port from which it comes. -/
def passAll (s : State) (w : ReqOf) (cls : Nat) : List (Nat × Nat) → Bool × State
  | [] => (true, s)
  | x :: l =>
    match arbPass s w cls x with
    | (true, s1) => passAll s1 w cls l
    | r => r

/-- Every output on the way grants a transfer that nothing holds back (log 29). -/
def grantOuts (s : State) (w : ReqOf) (cls : Nat) (l : List (Nat × Nat)) : State :=
  arbLeave (s.each l fun s x => arbGrant s x.1 ((ownReq (s.arb x.1) w).getD (newReq w cls x.2))) w

/-- The end of a transfer's route (R175): a tile's home well, the well above a shaft that no tile's map names, a cistern. -/
inductive Target where
  | well (w : Tile) (o : Nat)
  | reserve (f : Field) (place : Nat)
  | cist (w : Tile)
  deriving DecidableEq, Repr

/-- The field a target lies in. -/
def Target.field : Target → Field
  | .well w _ => tileField w
  | .reserve f _ => f
  | .cist w => tileField w

/-- The port number of a target (Table 8.1): the well port of the shaft of FLD_WMAP or of a reserve well, the tile port of
FLD_REMAP. -/
def targetNo (s : State) : Target → Nat
  | .well w _ => 96 + shaftPlace (homeShaft s w)
  | .reserve _ n => 96 + n
  | .cist w => shaftPlace (tileShaft s w)

/-- The page of the arbiter of an output port of a field, by port number (Tables 8.1, 8.6). -/
def outPage (f : Field) (n : Nat) : Nat :=
  fieldPage f (if n < 192 then 3 + n else if n < 220 then 195 + (n - 192) / 7 else if n = 220 then 199 else 200)

/-- The output port at the end of a route. -/
def targetPort (s : State) (x : Target) : Nat := outPage x.field (targetNo s x)

/-- Port number of the first lane of an adapter (Table 8.1, log 29). -/
def laneNo (a : Adapter) : Nat := 192 + 7 * adapterNo a

/-- The outputs of the hops of a route that starts at a port, and the port at which the last field is entered. -/
def hopOuts (port : Nat) : List (Field × Adapter × Field) → List (Nat × Nat) × Nat
  | [] => ([], port)
  | (a, ad, _) :: l => let r := hopOuts (laneNo (backAdapter ad)) l; ((seamPage a ad, port) :: r.1, r.2)

/-- Every output on the way of a transfer from port no of field f and of its response, in order, each with the port number
of the input from which the transfer comes there. -/
def outputsOf (s : State) (f : Field) (no : Nat) (x : Target) : List (Nat × Nat) :=
  let a := hopOuts no (routeOf 12 f x.field)
  let b := hopOuts (targetNo s x) (routeOf 12 x.field f)
  a.1 ++ (targetPort s x, a.2) :: b.1 ++ [(outPage f no, b.2)]

/-- A leg of a transfer: its class, the port it starts from, its target. -/
structure Leg where
  cls : Nat
  field : Field
  no : Nat
  dest : Target
  deriving DecidableEq, Repr

/-- Every seam on the way of the legs and of their responses admits them. -/
def legsSeams (s : State) (t : Tile) : List Leg → Gate × State
  | [] => (.go, s)
  | l :: r =>
    match seamsGate s t l.cls false (routeOf 12 l.field l.dest.field) with
    | (.go, s1) =>
      match seamsGate s1 t l.cls true (routeOf 12 l.dest.field l.field) with
      | (.go, s2) => legsSeams s2 t r
      | g => g
    | g => g

/-- Every output on the way of the legs grants them. -/
def legsPass (s : State) (w : ReqOf) : List Leg → Bool × State
  | [] => (true, s)
  | l :: r =>
    match passAll s w l.cls (outputsOf s l.field l.no l.dest) with
    | (true, s1) => legsPass s1 w r
    | g => g

/-- A transfer for tile t and its responses (R173 … R180): every seam admits it and each output on the way grants it once,
or it waits there. -/
def fabricGate (s : State) (w : ReqOf) (t : Tile) (legs : List Leg) : Gate × State :=
  match legsSeams s t legs with
  | (.go, s1) =>
    match legsPass s1 w legs with
    | (false, s2) => (.wait, s2)
    | (true, s2) =>
      (.go, (arbLeave s2 w).each legs fun s l =>
        s.each (routeOf 12 l.field l.dest.field ++ routeOf 12 l.dest.field l.field) fun s y => seamCount s l.cls y)
  | g => g

/-- The tile reaches the target without the crossbar: its own cistern, or its home well under it (R19, R112). -/
def ownTarget (s : State) (t : Tile) : Target → Bool
  | .well w _ => w == t && !fostered s t
  | .reserve _ _ => false
  | .cist w => w == t

/-- The class of a transfer of tile t: a fostered tile's own traffic is foster, and whether another one is scheduled
Elilo's schedule alone tells, so that is free (log 29). -/
def xferClass (t : Tile) (x : Target) (n : Nat) : Nat :=
  match x with
  | .well w _ => if w = t then 3 else if Config.freeBit n then 1 else 4
  | _ => if Config.freeBit n then 1 else 4

/-- The wells of a field are in self-refresh, or the field does not run: nothing of them is read or written (R23, R28). -/
def wellsHeld (s : State) (f : Field) : Bool := !fieldDark s f && (!fieldRuns s f || (s.fld f).selfRefresh)

/-- The twin that a lost granule's read turns to (R147): none where it holds, or its entry cannot serve. -/
def retryTwin (s : State) (v : Tile) (o : Nat) : Option Tile :=
  if !s.wellUe.contains (wellGran (homeShaft s v) o) then none
  else (twinOf s v o).bind fun x => if (s.mem v).resync.contains x.1 || fieldDark s (tileField x.2) then none else some x.2

/-- The twin's wells do not answer now. -/
def twinHeld (s : State) (v : Tile) (o : Nat) : Bool :=
  match retryTwin s v o with
  | some v' => wellsHeld s (tileField v') || bankRefreshes s v' o
  | none => false

/-- The retry read (R147): a remote read of the module class from the well's port, which the consumer waits for. -/
def retryLegs (s : State) (v : Tile) (o : Nat) : List Leg :=
  match retryTwin s v o with
  | some v' => [{ cls := 2, field := tileField v, no := 96 + shaftPlace (homeShaft s v), dest := .well v' o }]
  | none => []

/-- Which wait for a refresh a unit counts in (R142): a DMA channel or the store buffer. -/
def bankWaiter : ReqOf → Option Nat
  | .dma _ ch => some ch.val
  | .sb _ => some 4
  | _ => none

/-- The wells of a target do not answer now: in self-refresh (R23), or, for a read, with its twin's. -/
def targetHeld (s : State) (x : Target) (wr : Bool) : Bool :=
  match x with
  | .well v o => ((s.fld (tileField v)).selfRefresh && fieldRuns s (tileField v)) || (!wr && twinHeld s v o)
  | _ => false

/-- The well whose refresh a transfer meets (R142). -/
def targetBusy (s : State) : Target → Option Tile
  | .well v o => if bankRefreshes s v o then some v else none
  | _ => none

/-- An access to storage of a field from outside it: it comes back with an error from an absent field (R28), and waits while
the field is stopped (R303), its wells are in self-refresh (R23), a refresh runs in the bank (R142), or the twin that a lost
granule turns to does not answer (R147). -/
def fieldGate (s : State) (x : Target) : Gate :=
  let f := x.field
  if (s.fld f).absent then .err
  else if !fieldRuns s f || (s.fld f).selfRefresh || (targetBusy s x).isSome || targetHeld s x false then .wait else .go

/-- What a transfer that the fabric let through means at its well port (R176, R177). -/
def atWellPort (s : State) (cls : Nat) (x : Target) (wr : Bool) : State :=
  match x with
  | .well v o =>
    if wr then mergeWrite s (tileField v) (homeShaft s v) o else mergeRead s (tileField v) cls (homeShaft s v) o
  | _ => s

/-- A transfer of tile t to a target and its response, for a unit of the tile. Wells in self-refresh are not read or written
(R23), nor is a bank while its refresh runs: a scheduled burst that meets it is counted (R142). -/
def routeGate (s : State) (w : ReqOf) (t : Tile) (x : Target) (wr : Bool) : Gate × State :=
  let own := ownTarget s t x
  let (n, s0) := if own then (0, s) else s.fresh
  let cls := if own then 1 else xferClass t x n
  let retry := match x with
    | .well v o => if wr then [] else retryLegs s v o
    | _ => []
  let legs := if own then retry
    else { cls := cls, field := tileField t, no := shaftPlace (tileShaft s t), dest := x } :: retry
  if targetHeld s x wr then (.wait, s)
  else
    match targetBusy s x with
    | some v => (.wait, if cls = 4 then s0 else bankOver s0 t v (bankWaiter w))
    | none =>
      if legs.isEmpty then (.go, s)
      else
        match fabricGate s0 w t legs with
        | (.go, s1) => (.go, if own then s1 else atWellPort s1 cls x wr)
        | g => g

/-- Read a granule of tile w's home well for tile t: under it directly, else at the well port. -/
def wellFetch (s : State) (t w : Tile) (o : Nat) : Option Line × State :=
  if ownTarget s t (.well w o) then wellRead s w o else portWellRead s w o

end Sys2Proof.Machine
end

