-- ==== Sys2Proof/Machine/Xlate.lean ====
section
/-!
DEFINITION. Translation of partition virtual addresses (R206, R208): table entries, the walk, the cache of a field's
translation unit, and the translation each master of a tile holds.
-/

namespace Sys2Proof.Machine

/-- The masters of a tile that hold a translation (R208). -/
inductive XBy where
  | seq | dma (ch : Chan) | eng
  deriving DecidableEq, Repr

/-- A DMA channel of a tile. -/
def MemSt.chan (m : MemSt) (ch : Chan) : DmaChan :=
  match ch with | 0 => m.dma0 | 1 => m.dma1 | 2 => m.dma2 | 3 => m.dma3

/-- Change a DMA channel. -/
def MemSt.modChan (m : MemSt) (ch : Chan) (f : DmaChan → DmaChan) : MemSt :=
  match ch with
  | 0 => { m with dma0 := f m.dma0 } | 1 => { m with dma1 := f m.dma1 }
  | 2 => { m with dma2 := f m.dma2 } | 3 => { m with dma3 := f m.dma3 }

/-- The translation a master holds. -/
def heldXl (s : State) (t : Tile) : XBy → Option XEnt
  | .seq => (s.seq t).xl
  | .dma ch => ((s.mem t).chan ch).page
  | .eng => (s.mem t).xl

/-- Put the translation a master holds. -/
def setXl (s : State) (t : Tile) (b : XBy) (e : Option XEnt) : State :=
  match b with
  | .seq => s.modSeq t fun q => { q with xl := e }
  | .dma ch => s.modMem t fun m => m.modChan ch fun d => { d with page := e }
  | .eng => s.modMem t fun m => { m with xl := e }

/-- Size of a page. -/
def pageSize (size : Bool) : Nat := if size then 0x40000000 else 0x200000

/-- Does an entry translate va for partition p? -/
def XEnt.covers (e : XEnt) (p : Part) (va : Nat) : Bool := e.part == p && decide (va / pageSize e.size = e.vpn)

/-- The device address of va under an entry. -/
def XEnt.dpa (e : XEnt) (va : Nat) : Nat := e.tgt + va % pageSize e.size

/-- Base of the table region of a partition (R206). -/
def tblBase (s : State) (p : Part) : Nat := (fld (s.reg (partPage p 1 + 0x040)) 0 27).toNat * 0x200000

/-- Length of the table region in bytes. -/
def tblLen (s : State) (p : Part) : Nat := (fld (s.reg (partPage p 1 + 0x044)) 0 12).toNat * 0x200000

/-- Read an 8-byte table entry in the home wells; none where it cannot be read. -/
def tblRead (s : State) (a : Nat) : Option Nat × State :=
  match placeOf a with
  | .well t o => wellLe s t o 8
  | _ => (none, s)

/-- A table entry without its reads' effects: what the table says. -/
def tblPeek (s : State) (a : Nat) : Nat :=
  match placeOf a with
  | .well t o => Mem.readLe s.wells (wellAt (homeShaft s t) o) 8
  | _ => 0

/-- Write an 8-byte table entry: the module writes the tables itself (R206). -/
def tblWrite (s : State) (a v : Nat) : State :=
  match placeOf a with
  | .well t o => wellBytes s t o (toLe 8 v) (tilePage t 9)
  | _ => s

/-- A leaf entry as a translation. -/
def leafEnt (p : Part) (va : Nat) (size : Bool) (v : Nat) : XEnt :=
  { part := p, vpn := va / pageSize size, size := size, tgt := v % 2 ^ 48 / pageSize size * pageSize size,
    r := v.testBit 2, w := v.testBit 3 }

/-- A target of a translation lies in a home well or a cistern window of the partition, and not in its table region
(R198, R206). -/
def insideTarget (s : State) (p : Part) (a : Nat) : Bool :=
  match placeOf a with
  | .well t _ => partOf s t == some p && !inTableRegion s p a
  | .cist t _ => partOf s t == some p
  | _ => false

/-- A leaf entry whose target for va the partition may reach (R198). -/
def leafIn (s : State) (p : Part) (va : Nat) (size : Bool) (v : Nat) : Option XEnt :=
  let e := leafEnt p va size v
  if insideTarget s p (e.dpa va / 0x200000 * 0x200000) then some e else none

/-- Walk the tables for va (R206, R208): the leaf entry, or none where it is invalid, unreadable, or names a target outside
the partition. -/
def walk (s : State) (p : Part) (va : Nat) : Option XEnt × State :=
  if tblLen s p = 0 then (none, s)
  else match tblRead s (tblBase s p + va / 0x40000000 * 8) with
    | (none, s1) => (none, s1)
    | (some l1, s1) =>
      if !l1.testBit 0 then (none, s1)
      else if l1.testBit 1 then (leafIn s1 p va true l1, s1)
      else match tblRead s1 (l1 % 2 ^ 48 / 4096 * 4096 + va / 0x200000 % 512 * 8) with
        | (none, s2) => (none, s2)
        | (some l2, s2) => (if l2.testBit 0 then leafIn s2 p va false l2 else none, s2)

/-- Put a translation into a field unit's cache of 4,096; which entry makes room is not given (log 8). -/
def cacheFill (s : State) (f : Field) (e : XEnt) : State :=
  let c := (s.fld f).xcache
  if c.length < 4096 then s.modFld f fun x => { x with xcache := c ++ [e] }
  else
    let (n, s1) := s.fresh
    s1.modFld f fun x => { x with xcache := c.eraseIdx (Config.freeNat n % 4096) ++ [e] }

/-- Find a translation: the master's own, the unit's cache, or a walk (R208). -/
def findXl (s : State) (t : Tile) (b : XBy) (p : Part) (va : Nat) : Option XEnt × State :=
  match (heldXl s t b).filter (·.covers p va) with
  | some e => (some e, s)
  | none =>
    match (s.fld (tileField t)).xcache.find? (·.covers p va) with
    | some e => (some e, setXl (s.count (partPage p 1 + 0x060) 1) t b (some e))
    | none =>
      match walk (s.count (partPage p 1 + 0x064) 1) p va with
      | (some e, s1) => (some e, setXl (cacheFill s1 (tileField t) e) t b (some e))
      | (none, s1) => (none, s1)

/-- Translate va for a read or a write: the device address, or the cause of a fault, 0 not present, 1 not permitted
(R208, Table 5.7). A tile outside every enabled partition has no translation. -/
def xlate (s : State) (t : Tile) (b : XBy) (va : Nat) (wr : Bool) : Except Nat Nat × State :=
  match partOf s t with
  | none => (.error 0, s)
  | some p =>
    match findXl s t b p va with
    | (none, s1) => (.error 0, s1.count (partPage p 1 + 0x068) 1)
    | (some e, s1) =>
      if (if wr then e.w else e.r) then (.ok (e.dpa va), s1) else (.error 1, s1.count (partPage p 1 + 0x068) 1)

/-- Drop every cached translation of partition p that the test picks, in every unit and every master (R209). -/
def dropXl (s : State) (p : Part) (pick : XEnt → Bool) : State :=
  let keep (e : Option XEnt) := e.filter fun x => !(x.part == p && pick x)
  let s1 := s.each (partFields s p) fun s f =>
    s.modFld f fun x => { x with xcache := x.xcache.filter fun e => !(e.part == p && pick e) }
  s1.each (partTiles s p) fun s t =>
    s.modCore t fun c =>
      { c with
        seq := { c.seq with xl := keep c.seq.xl }
        mem := { c.mem with
          xl := keep c.mem.xl
          dma0 := { c.mem.dma0 with page := keep c.mem.dma0.page }
          dma1 := { c.mem.dma1 with page := keep c.mem.dma1.page }
          dma2 := { c.mem.dma2 with page := keep c.mem.dma2.page }
          dma3 := { c.mem.dma3 with page := keep c.mem.dma3.page } } }

end Sys2Proof.Machine
end

