-- ==== Sys2Proof/Machine/Seq.lean ====
section
/-!
DEFINITION. The sequencer (R35 … R40): issue, traps and their priorities (Table 2.3), stalls, halts, contract breaches
(R47), instruction halves (R36), debug stops (R342).
-/

namespace Sys2Proof.Machine

def seqCtl (t : Tile) : Nat := tilePage t 0 + 0x040
def seqSts (t : Tile) : Nat := tilePage t 0 + 0x044
def trapCause (t : Tile) : Nat := tilePage t 0 + 0x048
def trapPc (t : Tile) : Nat := tilePage t 0 + 0x04C
def trapAddrLo (t : Tile) : Nat := tilePage t 0 + 0x050
def trapAddrHi (t : Tile) : Nat := tilePage t 0 + 0x054
def tvec (t : Tile) : Nat := tilePage t 0 + 0x058
def stepNoLo (t : Tile) : Nat := tilePage t 0 + 0x060
def stepNoHi (t : Tile) : Nat := tilePage t 0 + 0x064
def stepLimit (t : Tile) : Nat := tilePage t 0 + 0x068
def ctrCtl (t : Tile) : Nat := tilePage t 13 + 0x040
def dbgCtl (t : Tile) : Nat := tilePage t 1 + 0x040
def dbgSts (t : Tile) : Nat := tilePage t 1 + 0x044

/-- Trap codes of Table 2.3. -/
def trapIfetchUe : Nat := 1
def trapIllegal : Nat := 2
def trapAccess : Nat := 3
def trapXlate : Nat := 4
def trapLoadUe : Nat := 5
def trapContract : Nat := 6
def trapStepOverrun : Nat := 7
def trapPreempt : Nat := 8

/-- Cycles of the tile's field clock. -/
def tcyc (s : State) (t : Tile) : Nat := s.cyc (tileField t)

def halted (s : State) (t : Tile) : Bool := s.rbit (seqSts t) 0
def inTrap (s : State) (t : Tile) : Bool := s.rbit (seqSts t) 1
/-- Active half, 0 or 1. -/
def activeHalf (s : State) (t : Tile) : Bool := s.rbit (seqSts t) 2
def dbgStopped (s : State) (t : Tile) : Bool := s.rbit (dbgSts t) 0
def setHalted (s : State) (t : Tile) (b : Bool) : State := s.setRbit (seqSts t) 0 b
def setPc (s : State) (t : Tile) (v : Nat) : State := s.modSeq t fun q => { q with pc := BitVec.ofNat 16 v }

/-- Step number of a tile (R50). -/
def stepNo (s : State) (t : Tile) : Nat := (s.reg (stepNoLo t)).toNat + (s.reg (stepNoHi t)).toNat * 2 ^ 32
def setStepNo (s : State) (t : Tile) (n : Nat) : State :=
  (s.setReg (stepNoLo t) (BitVec.ofNat 32 n)).setReg (stepNoHi t) (BitVec.ofNat 32 (n / 2 ^ 32))

/-- STEP_CYC: cycles since the opening weir in units of 1,024. -/
def stepKcyc (s : State) (t : Tile) : Nat := (tcyc s t - (s.seq t).openAt) / 1024

/-- State of a half. -/
def halfOf (s : State) (t : Tile) (h : Bool) : HalfState := if h then (s.seq t).half1 else (s.seq t).half0
def setHalf (s : State) (t : Tile) (h : Bool) (x : HalfState) : State :=
  s.modSeq t fun q => if h then { q with half1 := x } else { q with half0 := x }

/-- A valid breakpoint stands at the next instruction (R342). -/
def atBreakpoint (s : State) (t : Tile) : Bool :=
  s.rbit (dbgCtl t) 0 && (List.range 4).any fun b =>
    let w := s.reg (tilePage t 1 + 0x048 + 4 * b)
    bit w 31 && bit w 16 == activeHalf s t && (fld w 0 16).toNat == s.pc t

/-- The tile's partition is being saved: its tiles, arrays and channels stand still (R211). -/
def saving (s : State) (t : Tile) : Bool :=
  match partOf s t with
  | some p => decide (pstate s p = 4)
  | none => false

/-- The sequencer can issue an instruction. -/
def canIssue (s : State) (t : Tile) : Bool :=
  fieldRuns s (tileField t) && !halted s t && !(s.seq t).dark && !(s.seq t).fenced && !(s.seq t).trap
    && (s.seq t).stall.isNone && !dbgStopped s t && !s.rbit (seqCtl t) 1
    && (!atBreakpoint s t || (s.seq t).bpPass)

/-- The tile waits at no weir any more. -/
def dropWaiter (s : State) (t : Tile) : State :=
  s.each s.weirs fun s e =>
    if e.2.waiters.contains t then s.modWeir e.1 fun w => { w with waiters := w.waiters.filter (· != t) } else s

/-- Record a trap (R38): cause, PC and address; it is entered when the older stores have drained. Of several causes the
one of highest priority stays (R39). -/
def raiseTrap (s : State) (t : Tile) (code : Nat) (addr : Nat) : State :=
  if (s.seq t).trap && decide ((fld (s.reg (trapCause t)) 0 8).toNat ≤ code) then s
  else
    let s1 := s.setReg (trapCause t) (BitVec.ofNat 32 code)
    let s2 := s1.setReg (trapPc t) (BitVec.ofNat 32 (s.pc t))
    let s3 := s2.setReg (trapAddrLo t) (BitVec.ofNat 32 addr)
    let s4 := s3.setReg (trapAddrHi t) (BitVec.ofNat 32 (addr / 2 ^ 32 % 2 ^ 16))
    (dropWaiter s4 t).modSeq t fun q => { q with trap := true, stall := none }

/-- Raise a trap whose cause has no access address: TRAP_ADDR then holds 0, which the spec leaves open (DESIGN CHOICE,
log 92). -/
def trapNow (s : State) (t : Tile) (code : Nat) : State := raiseTrap s t code 0

/-- A breach of the step contract by this tile: counted, and a trap in strict mode (R47). -/
def breach (s : State) (t : Tile) (n : Nat) : State :=
  let s1 := countCtr s t n 1
  if s1.rbit (ctrCtl t) 0 && !halted s1 t then trapNow s1 t trapContract else s1

/-- The trap that a breach brings its tile in strict mode (R47). -/
def guardTrap (s : State) (t : Tile) : State :=
  if s.rbit (ctrCtl t) 0 && !halted s t then trapNow s t trapContract else s

/-- A write dropped by the step guard (R47, R49). -/
def guardBreach (s : State) (t : Tile) : State := guardTrap (guardTake s t) t

/-- The frame of the tile gives an owner code a slot (R46). -/
def hasSlot (s : State) (t : Tile) (code : Nat) : Bool :=
  (List.range 64).any fun i => (fld (s.reg (tilePage t 9 + 0x040 + 4 * (i / 8))) (4 * (i % 8)) 4).toNat == code

/-- Own-well traffic of a unit: with no slot of its own it is carried unscheduled and counts in CTR[1] (R46, R47). -/
def slotUse (s : State) (t : Tile) (code : Nat) : State := if hasSlot s t code then s else breach s t 1

/-- Debug stop (R342). -/
def dbgStopNow (s : State) (t : Tile) (cause : Nat) : State :=
  (s.modReg (dbgSts t) fun w => setFld (setFld w 0 (1 : BitVec 1)) 1 (BitVec.ofNat 2 cause)).modSeq t fun q =>
    { q with stepArmed := false, stopArmed := false, dbgAt := tcyc s t }

/-- What stands at an instruction boundary: a pending halt request, once the stores have drained (R40), the end of a
single step, and a debug stop (R342). -/
def boundary (s : State) (t : Tile) : State :=
  if (s.seq t).stall.isSome then s
  else if s.rbit (seqCtl t) 1 && sbEmpty s t then setHalted (s.setRbit (seqCtl t) 1 false) t true
  else if (s.seq t).stepArmed && !(s.seq t).bpPass && sbEmpty s t then
    setEvt (dbgStopNow s t 2) (tilePage t 1) 1
  else if (s.seq t).stopArmed && sbEmpty s t then dbgStopNow s t 0
  else s

/-- Note that the sequencer issued. -/
def noteIssue (s : State) (t : Tile) : State :=
  s.modSeq t fun q => { q with lastIssue := tcyc s t, bpPass := false }

/-- Issue an instruction (R35, R36, R359): where the sequencer can issue, a poisoned half traps, a fetch past 0x7FFC is
illegal, and else the instruction acts. Where it cannot, nothing happens (log 1). -/
def issue (t : Tile) (s : State) (k : State → State) : Res :=
  .next <|
    if canIssue s t then
      let s1 := noteIssue s t
      boundary (if halfOf s t (activeHalf s t) = .poisoned then trapNow s1 t trapIfetchUe
        else if 0x7FFC < s.pc t then trapNow s1 t trapIllegal
        else k s1) t
    else s

/-- Continue at the next instruction. -/
def advance (s : State) (t : Tile) : State := s.modSeq t fun q => { q with pc := q.pc + 4 }

/-- Hold the sequencer at an instruction that cannot complete yet; its stall cycles count in CTR[n] where n is given. -/
def stallOn (s : State) (t : Tile) (i : Instr) (n : Option Nat) : State :=
  s.modSeq t fun q =>
    { q with stall := some i, stallAt := tcyc s t, stallOrd := (s.mem t).launch, stallCtr := n }

/-- Count the cycles the instruction has stood since it was last looked at (R44, R45). -/
def countStall (s : State) (t : Tile) : State :=
  match (s.seq t).stallCtr with
  | some n => countCtr (s.modSeq t fun q => { q with stallAt := tcyc s t }) t n (tcyc s t - (s.seq t).stallAt)
  | none => s

/-- What an instruction that may have to wait answers: its effect, or the counter of its stall and the state it waits
in. -/
inductive Ans where
  | done (s : State)
  | wait (n : Option Nat) (s : State)
  deriving DecidableEq, Repr

/-- Issue an instruction that may wait. -/
def issueWait (t : Tile) (s : State) (i : Instr) (body : State → Ans) : Res :=
  issue t s fun s =>
    match body s with
    | .done s1 => s1
    | .wait n s1 => stallOn s1 t i n

/-- A sequencer load met lost data: TRAP_LOAD_UE, and the tile holds an unabsorbed fault from then on (R55). The
partition releases no weir from that moment. -/
def holdUnabsorbed (s : State) (t : Tile) (u : Unabsorbed) : State :=
  let s1 := setEvt (s.modSeq t fun q => { q with unabsorbed := some (q.unabsorbed.getD u) }) (tilePage t 0) 1
  match partOf s1 t with
  | some p => s1.modPart p fun x => { x with noRelease := true }
  | none => s1

/-- The words of a 64-byte granule in an instruction half from word index i. -/
def ibufPut (q : SeqSt) (h : Bool) (i : Nat) (d : Line) : SeqSt :=
  { q with ibuf := (List.range 16).foldl (fun m j =>
      SMap.set zeroW m ((if h then 8192 else 0) + i + j) (BitVec.ofNat 32 (lineLe d (4 * j) 4))) q.ibuf }

/-- Fill a half from a code range (R36): every granule is read once, and once more from the twin; the half is poisoned
where a granule stays uncorrectable or the range does not translate. -/
def fillHalf (s : State) (t : Tile) (h : Bool) (src : Nat) : State :=
  let step := fun (acc : State × Bool) (i : Nat) =>
    if acc.2 then acc
    else
      match xlate acc.1 t .eng (src + 64 * i) false with
      | (.error _, s1) => (s1, true)
      | (.ok a, s1) =>
        match placeOf a with
        | .well w o =>
          match wellRead s1 w o with
          | (some d, s2) => (s2.modSeq t fun q => ibufPut q h (16 * i) d, false)
          | (none, s2) => (s2, true)
        | .nowhere | .reserve _ _ _ => (unmapped s1 a (.tile t), true)
        | _ => (s1, true)
  let r := (List.range 512).foldl step (s, false)
  setHalf r.1 t h (if r.2 then .poisoned else .complete)

/-- Accesses of a fill from src that the well carries unscheduled: without instruction-fill slots in the frame, all 32 of
its 1 KiB (R36, R46). -/
def fillUnsched (s : State) (t : Tile) (src : Nat) : Nat :=
  match (heldXl s t .eng).map (·.dpa src) with
  | some a => if ownPath t (a / 64) && !fostered s t && !hasSlot s t 6 then 32 else 0
  | none => 0

/-- Exchange the halves (R36): the old active half is empty, and the sequencer continues at offset 0. -/
def swapHalves (s : State) (t : Tile) : State :=
  let h := activeHalf s t
  setPc (setHalf (s.setRbit (seqSts t) 2 (!h)) t h .empty) t 0

/-- The next half reports complete, or poisoned, which the first fetch finds (R36). -/
def nextReady (s : State) (t : Tile) : Bool :=
  match halfOf s t (!activeHalf s t) with
  | .complete | .poisoned => true
  | _ => false

/-- Body of IBUF.SWAP. -/
def bodySwap (t : Tile) (s : State) : Ans := if nextReady s t then .done (swapHalves s t) else .wait (some 3) s

end Sys2Proof.Machine
end

