-- ==== Sys2Proof/Machine/Flags.lean ====
section
/-!
DEFINITION. The flags of the vector unit and the array path (FSTAT, R96), FMODE (R95), and the census (R104).
-/

namespace Sys2Proof.Machine

def fmodeAddr (t : Tile) : Nat := tilePage t 3 + 0x040
def fstatAddr (t : Tile) : Nat := tilePage t 3 + 0x044

/-- FMODE of a tile. -/
def fmode (s : State) (t : Tile) : Word := s.reg (fmodeAddr t)

/-- The rounding direction an instruction uses: its own, or FMODE.rm for 7 (R100). -/
def rmOf (s : State) (t : Tile) (rm : BitVec 3) : Nat :=
  if rm = 7 then (fld (fmode s t) 0 3).toNat else rm.toNat

/-- Sticky status: the flags raised are set (R96). -/
def raiseFlags (s : State) (t : Tile) (fl : Nat) : State :=
  s.modReg (fstatAddr t) fun w => w ||| BitVec.ofNat 32 (fl % 32)

/-- FSTAT.flushed (R89). -/
def raiseFlushed (s : State) (t : Tile) (b : Bool) : State := if b then s.setRbit (fstatAddr t) 8 true else s

/-- Every flag of a list of lane results. -/
def orFlags (l : List (Nat × Nat)) : Nat := l.foldl (fun a x => a ||| x.2) 0

/-- What the array path counts in one instruction (Table 4.6). -/
structure Census where
  sat : Nat
  aflush : Nat
  sflush : Nat
  naninf : Nat
  deriving DecidableEq, Repr

def Census.zero : Census := ⟨0, 0, 0, 0⟩
def Census.add (a b : Census) : Census := ⟨a.sat + b.sat, a.aflush + b.aflush, a.sflush + b.sflush, a.naninf + b.naninf⟩

/-- Add a census to the counters of page 2, and FSTAT.flushed for any flush (R89, R104). -/
def countCensus (s : State) (t : Tile) (c : Census) : State :=
  let a := tilePage t 2 + 0x0C0
  raiseFlushed ((((s.count a c.sat).count (a + 4) c.aflush).count (a + 8) c.sflush).count (a + 12) c.naninf) t
    (decide (0 < c.aflush + c.sflush))

end Sys2Proof.Machine
end

