-- ==== Sys2Proof/Machine/ArrayMath.lean ====
section
/-!
DEFINITION. The arithmetic of the matrix array (R59 … R74, R84 … R94): formats and shapes, the B image, the A stream,
block sums and joins, the drain, and readout. Pure functions of a cistern's bytes; Array.lean applies them to State.
-/

namespace Sys2Proof.Machine

/-! ## Codes and shapes -/

/-- INT4 and INT8. -/
def isInt (c : Nat) : Bool := decide (c = 6 ∨ c = 7)

/-- The pair runs in integer mode (R71). -/
def intMode (a b : Nat) : Bool := isInt a && (isInt b || decide (b = 0))

/-- A format pair that R71 accepts: A is no TERN, FP64 or block scale; integer and float do not mix, but for TERN. -/
def pairFmtOk (a b : Nat) : Bool :=
  decide (1 ≤ a ∧ a ≤ 10) && decide (b ≤ 10) && (intMode a b || (!isInt a && !isInt b))

/-- Columns of a shape (Table 3.5); n for NARROW. -/
def shapeCols (sh : Shape) (n : Nat) : Nat := match sh with | .full => 256 | .half => 128 | .quad => 256 | .narrow => n

/-- Column pitch of the header and of the row words of a B image (Table 3.2). -/
def imagePitch (sh : Shape) : Nat := match sh with | .full => 256 | .half => 128 | .quad => 256 | .narrow => 32

/-- Header bytes of a B image. -/
def imageHeader (sh : Shape) : Nat := 8 * imagePitch sh * 2

/-- Bytes of a row word of a B image, padded to 64. -/
def imageRow (sh : Shape) (e : Nat) : Nat := roundUp (imagePitch sh * e / 8) 64

/-- Bytes of a B image. -/
def imageSize (sh : Shape) (e : Nat) : Nat := imageHeader sh + 256 * imageRow sh e

/-- K of one product. -/
def shapeK (sh : Shape) : Nat := match sh with | .quad => 128 | _ => 256

/-- Stripe entries per A row (R66). -/
def stripeEntries (sh : Shape) : Nat := match sh with | .quad => 16 | _ => 8

/-- Fill and drain (Table 3.5). -/
def shapeFill (sh : Shape) : Nat := match sh with | .quad => 128 | _ => 256
def shapeDrain (sh : Shape) (n : Nat) : Nat := match sh with | .full => 256 | .half => 128 | .quad => 128 | .narrow => n

/-- Start of the word area. -/
def wordArea (sh : Shape) (ga m : Nat) : Nat := roundUp (ga + m * stripeEntries sh * 2) 256

/-- Bytes of an A word: 256 elements, padded to 64. -/
def wordSize (e : Nat) : Nat := roundUp (32 * e) 64

/-- Words of the stream (R66, R68). -/
def streamWords (sh : Shape) (m c : Nat) : Nat :=
  let w := m + (shapeK sh - 1) / c
  match sh with | .quad => 2 * w | _ => w

/-- End of the A stream. -/
def streamEnd (sh : Shape) (ga m c e : Nat) : Nat := wordArea sh ga m + streamWords sh m c * wordSize e

/-- Element k of width e bits in bytes that start at a (R85). -/
def packed (cist : List Host.Cell) (a e k : Nat) : Nat :=
  let i := k * e
  nbits (Mem.readLe cist (a + i / 8) ((e + 7) / 8 + 1)) (i % 8) e

/-- Pack elements of width e into bytes (R85). -/
def packBytes (e : Nat) (l : List Nat) : Bytes :=
  toLe ((l.length * e + 7) / 8) (l.foldr (fun x acc => x % 2 ^ e + 2 ^ e * acc) 0)

/-! ## Block exponents -/

/-- A block-exponent entry (R63): the scale code, e_max, and whether the block is non-finite. -/
def entryX (w : Nat) : Nat := w % 256
def entryMax (w : Nat) : Int := sext 8 (w / 256)
def entryBad (w : Nat) : Bool := decide (w % 256 = 0xFF)
/-- E = (x − 127) + e_max (R87). -/
def entryE (w : Nat) : Int := (entryX w : Int) - 127 + entryMax w

/-! ## The B loader (R60) -/

/-- Even parity over the 30 bits of a cell (Table 3.1). -/
def cellParity (c : BCell) : Bool :=
  ((List.range 24).foldl (fun p i => p != c.m.getLsbD i) false
    != (List.range 4).foldl (fun p i => p != c.sh.getLsbD i) false) != (c.sign != c.special)

/-- A cell with its parity. -/
def mkCell (sign : Bool) (m sh : Nat) (special : Bool) : BCell :=
  let c : BCell := { sign := sign, m := BitVec.ofNat 24 m, sh := BitVec.ofNat 4 sh, special := special, parity := false }
  { c with parity := cellParity c }

def zeroCell : BCell := mkCell false 0 0 false
def cellD (_ : Nat) : BCell := zeroCell

/-! ## Physical cell rows (R59, R61) -/

/-- Group and position of the physical row on which row r of an image stands, under the map spares: logical rows at or
beyond the failed position stand one further, and row 256 + g is the position of group g that is left over. -/
def physRow (spares : Nat → Nat) (r : Nat) : Nat × Nat :=
  if r < 256 then (r / 32, if spares (r / 32) ≤ r % 32 then r % 32 + 1 else r % 32) else (r - 256, min (spares (r - 256)) 32)

/-- The row of an image that stands at position x of group g. -/
def rowAt (spares : Nat → Nat) (g x : Nat) : Nat :=
  if x = min (spares g) 32 then 256 + g else 32 * g + (if spares g < x then x - 1 else x)

/-- The cells of a register set under a new map: each physical cell keeps what it holds. -/
def moveCells (old new : Nat → Nat) (m : SMap BCell) : SMap BCell :=
  m.foldl (fun acc e =>
    let x := physRow old (e.1 / 256)
    SMap.set cellD acc (rowAt new x.1 x.2 * 256 + e.1 % 256) e.2) []

/-- A load writes logical rows; the row of each group that none stands on keeps what it held. -/
def BImage.keep (img : BImage) (old : SMap BCell) : BImage :=
  { img with cells := (old.filter fun e => decide (65536 ≤ e.1)).foldl (fun m e => SMap.set cellD m e.1 e.2) img.cells }

/-- Exponent field and mantissa field of a pattern. -/
def expField (f : FFmt) (x : Nat) : Nat := nbits x f.mb f.eb
def manField (f : FFmt) (x : Nat) : Nat := x % 2 ^ f.mb

/-- A pattern is subnormal. -/
def isSub (f : FFmt) (x : Nat) : Bool := decide (expField f x = 0 ∧ manField f x ≠ 0)

/-- Own unbiased exponent of an element, a subnormal or zero at the smallest normal exponent (R60, R87). -/
def ownExp (f : FFmt) (x : Nat) : Int := if expField f x = 0 then f.emin else (expField f x : Int) - f.bias

/-- Decode one element of format b under its header entry: the cell, the census, and whether its exponent exceeds the
entry. A zero element is lost by no alignment. -/
def loadCell (b : Nat) (subn : Bool) (entry x : Nat) : BCell × Census × Bool :=
  match ffmtOf b with
  | some f =>
    let sgn := x.testBit (f.eb + f.mb)
    match f.dec x with
    | .nan _ _ | .inf _ => (mkCell sgn 0 0 true, .zero, false)
    | .fin _ m _ =>
      if m = 0 then (zeroCell, .zero, false)
      else if subn && isSub f x then (zeroCell, { Census.zero with sflush := 1 }, false)
      else
        let d := entryMax entry - ownExp f x
        if d < 0 then (zeroCell, .zero, true)
        else if 15 < d then (zeroCell, { Census.zero with aflush := 1 }, false)
        else (mkCell sgn m d.toNat false, .zero, false)
  | none =>
    if b = 0 then
      (mkCell (decide (x = 3)) (if x = 1 ∨ x = 3 then 1 else 0) 0 false, .zero, false)
    else
      let v := sext (fmtWidth b) x
      let top := if b = 6 then 7 else 127
      if top < v.natAbs then (mkCell true top 0 false, { Census.zero with sat := 1 }, false)
      else (mkCell (decide (v < 0)) v.natAbs 0 false, .zero, false)

/-- A loaded image: the image, its census, and the elements whose exponent exceeds their entry. -/
structure Loaded where
  img : BImage
  census : Census
  hdr : Nat
  deriving DecidableEq, Repr

def exp16 (_ : Nat) : BitVec 16 := 0

/-- Read a B image at src (R60, R63). -/
def loadImage (cist : List Host.Cell) (sh : Shape) (fmt : BitVec 4) (n src : Nat) (subn : Bool) : Loaded :=
  let e := fmtWidth fmt.toNat
  let p := imagePitch sh
  let cols := shapeCols sh n
  let exps := (List.range 8).foldl (fun m b => (List.range cols).foldl (fun m c =>
    SMap.set exp16 m (b * 256 + c) (BitVec.ofNat 16 (Mem.readLe cist (src + (b * p + c) * 2) 2))) m) []
  (List.range 256).foldl (fun l k => (List.range cols).foldl (fun l c =>
    let x := packed cist (src + imageHeader sh + k * imageRow sh e) e c
    let entry := (SMap.get exp16 exps (k / 32 * 256 + c)).toNat
    let r := loadCell fmt.toNat subn entry x
    { img := { l.img with
        cells := SMap.set cellD l.img.cells (k * 256 + c) r.1
        codes := SMap.set (fun _ => 0) l.img.codes (k * 256 + c) x }
      census := l.census.add r.2.1
      hdr := l.hdr + (if r.2.2 then 1 else 0) }) l)
    { img := { shape := sh, fmt := fmt, n := cols, cells := [], exps := exps, codes := [] }, census := .zero, hdr := 0 }

/-! ## The pump (R62, R66, R68, R88 … R91) -/

/-- A compute instruction as the array works on it. -/
structure Job where
  shape : Shape
  p : Nat
  m : Nat
  ga : Nat
  afmt : Nat
  bfmt : Nat
  subn : Bool
  deriving DecidableEq, Repr

/-- c = CPP × passes. -/
def Job.c (j : Job) : Nat := fmtCpp j.bfmt * j.p

/-- Raw element (i, k) of quadrant q of the A stream. -/
def aRaw (cist : List Host.Cell) (j : Job) (q i k : Nat) : Nat :=
  let e := fmtWidth j.afmt
  let w := i + k / j.c
  let base := wordArea j.shape j.ga j.m
  if j.shape = .quad then packed cist (base + (2 * w + q % 2) * wordSize e) e (k + 128 * (q / 2))
  else packed cist (base + w * wordSize e) e k

/-- Stripe entry of block b of row i of quadrant q. -/
def aEntry (cist : List Host.Cell) (j : Job) (q i b : Nat) : Nat :=
  let n := stripeEntries j.shape
  Mem.readLe cist (j.ga + (i * n + (if j.shape = .quad then q * 4 + b else b)) * 2) 2

/-- Round to nearest, ties to even, to an integer. -/
def rneInt (m : Nat) (e : Int) : Nat := (roundAt 0 false m e 0).1

/-- One A element as an aligned integer of 8p bits (R88), whether it is NaN or infinity, and its census. -/
def aConv (j : Job) (entry x : Nat) : Int × Bool × Census :=
  let top : Int := 2 ^ (8 * j.p - 1) - 1
  match ffmtOf j.afmt with
  | some f =>
    match f.dec x with
    | .nan _ _ | .inf _ => (0, true, .zero)
    | .fin s m e =>
      if m = 0 then (0, false, .zero)
      else if j.subn && isSub f x then (0, false, { Census.zero with sflush := 1 })
      else if entryMax entry < ownExp f x then ((if s then -top else top), false, { Census.zero with sat := 1 })
      else if entryBad entry then (0, false, .zero)
      else
        let k : Int := rneInt m (e + 8 * j.p - 2 - entryMax entry)
        let k := if top < k then top else k
        ((if s then -k else k), false, .zero)
  | none =>
    let v := sext (fmtWidth j.afmt) x
    let lim : Int := if j.afmt = 6 then 7 else 127
    let w := if v < -lim then -lim else v
    (w * 2 ^ (8 * (j.p - 1)), false, if v < -lim then { Census.zero with sat := 1 } else .zero)

/-- An A row of a quadrant: aligned integers, block entries, NaN or not, census. -/
structure ARow where
  ints : List Int
  entries : List Nat
  nan : Bool
  census : Census
  deriving DecidableEq, Repr

/-- Convert one A row. -/
def aRow (cist : List Host.Cell) (j : Job) (q i : Nat) : ARow :=
  let fl := !intMode j.afmt j.bfmt
  let entries := if fl then (List.range (shapeK j.shape / 32)).map (aEntry cist j q i) else List.replicate 8 0x7F
  let l := (List.range (shapeK j.shape)).map fun k => aConv j (entries.getD (k / 32) 0) (aRaw cist j q i k)
  { ints := l.map (·.1), entries := entries, nan := fl && (l.any (·.2.1) || entries.any entryBad)
    census := l.foldl (fun c x => c.add x.2.2) .zero }

/-! ## Block sums and joins (R69, R70) -/

/-- Byte q of an aligned integer of p passes: signed for pass 0, unsigned for the others (R62). -/
def passByte (p q : Nat) (a : Int) : Int :=
  if q = 0 then a / 2 ^ (8 * (p - 1)) else a / 2 ^ (8 * (p - 1 - q)) % 256

/-- Truncate toward zero to a multiple of 2^12 (R69). -/
def trunc12 (x : Int) : Int := x.tdiv 4096 * 4096

/-- The block sums of every pass, combined: the exact value times 2^(15 + 8(p − 1)) (R69, R70). -/
def blockSum (p cpp : Nat) (l : List (Int × BCell)) : Int :=
  (List.range p).foldl (fun acc q =>
    let s := l.foldl (fun (t : Int) x =>
      t + passByte p q x.1 * (if x.2.sign then -1 else 1) * x.2.m.toNat * 2 ^ (15 - x.2.sh.toNat)) 0
    acc + (if cpp = 24 then trunc12 s else s) * 2 ^ (8 * (p - 1 - q))) 0

/-- Round a value toward zero to 28 significand bits (Table 3.4). -/
def trunc28 (m e : Int) : Int × Int :=
  let n := bitLen m.natAbs
  if n ≤ 28 then (m, e) else (m.tdiv (2 ^ (n - 28)), e + (n - 28 : Nat))

/-- Cells of column n against the integers of a row, block b of the product, first cell row k0. -/
def blockPairs (img : BImage) (ints : List Int) (k0 n b : Nat) : List (Int × BCell) :=
  (List.range 32).map fun i => (ints.getD (32 * b + i) 0, SMap.get cellD img.cells ((k0 + 32 * b + i) * 256 + n))

/-- The exponent a block's combined sum carries beside 2^−(15 + 8(p − 1)) (R70). TERN holds plain magnitudes. -/
def blockExp (j : Job) (aEnt bEnt : Nat) : Int :=
  (entryE aEnt - 6) + (if j.bfmt = 0 then 0 else entryE bEnt - (fmtCpp j.bfmt - 1 : Nat))

/-- Column n of an output row in float mode: the running value over the blocks (R70, R90). A block's combined value goes into
the join format before it is added, and the sum again, each toward zero to 28 significand bits (Table 3.4). -/
def joinFloat (j : Job) (img : BImage) (r : ARow) (k0 n : Nat) : JVal :=
  let nb := shapeK j.shape / 32
  let bEnt := fun b => (SMap.get exp16 img.exps ((k0 / 32 + b) * 256 + n)).toNat
  let bad := (List.range nb).any fun b =>
    entryBad (bEnt b) || (blockPairs img r.ints k0 n b).any (·.2.special)
  if r.nan || bad then { nan := true, m := 0, e := 0 }
  else
    let v := (List.range nb).foldl (fun (acc : Int × Int) b =>
      let s := blockSum j.p (fmtCpp j.bfmt) (blockPairs img r.ints k0 n b)
      if s = 0 then acc
      else
        let y := trunc28 s (blockExp j (r.entries.getD b 0) (bEnt b) - 15 - 8 * (j.p - 1 : Nat))
        let x := addExact acc.1 acc.2 y.1 y.2
        trunc28 x.1 x.2) (0, 0)
    { nan := false, m := v.1, e := v.2 }

/-- Column n of an output row in integer mode: the exact sum (R71). -/
def joinInt (j : Job) (img : BImage) (r : ARow) (k0 n : Nat) : Int :=
  ((List.range (shapeK j.shape / 32)).foldl (fun acc b =>
    acc + blockSum j.p (fmtCpp j.bfmt) (blockPairs img r.ints k0 n b)) 0) / 2 ^ (15 + 8 * (j.p - 1))

/-! ## The drain (R72) -/

/-- FP32 of a joined value, or of its sum with a stored word: to nearest, ties to even; NaN as 0x7FC0_0000 (R90). -/
def drainFloat (acc : Bool) (old : Word) (v : JVal) : Word :=
  if v.nan then 0x7FC00000
  else if acc then
    match f32.dec old.toNat with
    | .nan _ _ => 0x7FC00000
    | .inf s => BitVec.ofNat 32 (f32.infBits s)
    | .fin s m e =>
      let x := addExact (signed s m) e v.m v.e
      BitVec.ofNat 32 (roundInt f32 0 x.1 x.2 false).1
  else BitVec.ofNat 32 (roundInt f32 0 v.m v.e false).1

/-- Is an FP32 word NaN or infinity? -/
def nonFinite (w : Word) : Bool := decide (nbits w.toNat 23 8 = 255)

/-- Saturate to 64 bits: the value and whether it saturated. -/
def sat64 (x : Int) : Int × Bool :=
  if 2 ^ 63 ≤ x then (2 ^ 63 - 1, true) else if x < -(2 ^ 63) then (-(2 ^ 63), true) else (x, false)

/-! ## Readout (R74, R94) -/

/-- Product of two decoded FP32 values; NaN of the first NaN. DESIGN CHOICE (log 96): R94 states no product of zero and
infinity; it is taken as a positive quiet NaN. -/
def mulVal (a b : FVal) : FVal :=
  match a, b with
  | .nan s p, _ => .nan s p
  | _, .nan s p => .nan s p
  | .inf s, .inf s' => .inf (s != s')
  | .inf s, .fin s' m _ => if m = 0 then .nan false (2 ^ 22) else .inf (s != s')
  | .fin s m _, .inf s' => if m = 0 then .nan false (2 ^ 22) else .inf (s != s')
  | .fin s m e, .fin s' m' e' => .fin (s != s') (m * m') (e + e')

/-- One result of MM.RDOUT: the pattern and its census. -/
def rdoutOne (ofmt : Nat) (subn ovf : Bool) (v : FVal) : Nat × Census :=
  let sat := ovf && decide (ofmt = 4 ∨ ofmt = 8 ∨ ofmt = 9 ∨ ofmt = 10)
  match ffmtOf ofmt with
  | some f =>
    let r := f.ofVal 0 sat 23 v
    let sub := subn && isSub f r.1
    let isInf := decide (f.inf = true ∧ r.1 % 2 ^ (f.eb + f.mb) = f.infBits false)
    (if sub then r.1 - manField f r.1 else r.1,
      { sat := if r.2.2 && !isInf then 1 else 0, aflush := 0, sflush := if sub then 1 else 0
        naninf := if isInf || (v.isNan && decide (f.nan = .none)) then 1 else 0 })
  | none =>
    let top := if ofmt = 6 then 7 else 127
    let w := fmtWidth ofmt
    let clampTo := fun (s : Bool) => ((BitVec.ofInt w (signed s top)).toNat, { Census.zero with sat := 1 })
    match v with
    | .nan _ _ => (top, { Census.zero with naninf := 1 })
    | .inf s => clampTo s
    | .fin s m e =>
      let k := (roundAt 0 s m e 0).1
      if top < k then clampTo s else ((BitVec.ofInt w (signed s k)).toNat, .zero)

/-- Output row pitch (R74). -/
def rdoutPitch (ofmt : Nat) : Nat := let b := 32 * fmtWidth ofmt; if b ≤ 128 then 128 else roundUp b 256

/-- The magnitude AMAX captures of a stored FP32 word (R105). -/
def amaxFloat (w : Word) : Nat := if (f32.dec w.toNat).isNan then 0x7FC00000 else w.toNat % 2 ^ 31

/-- The magnitude AMAX captures of an integer value, rounded toward +∞ (R105). -/
def amaxInt (v : Int) : Nat := (f32.round 2 false false v.natAbs 0).1

/-! ## Plumb samples (R107, R108) -/

/-- The exact value of an element with its scale code; none where it is not finite. -/
def elemVal (code x scale : Nat) : Option (Int × Int) :=
  match ffmtOf code with
  | some f => match f.dec x with
    | .fin s m e => some (signed s m, e + scale - 127)
    | _ => none
  | none => if code = 0 then some ((if x = 1 then 1 else if x = 3 then -1 else 0), 0) else none

/-- One FMA step of the reference, rounded to nearest. -/
def refStep (acc : Nat) (a b : Option (Int × Int)) : Nat :=
  match a, b, f32.dec acc with
  | some (m, e), some (m', e'), .fin s k g =>
    let x := addExact (m * m') (e + e') (signed s k) g
    (roundInt f32 0 x.1 x.2 (s && decide (m * m' = 0))).1
  | some _, some _, _ => acc
  | _, _, _ => f32.qnan

/-- The binary32 reference of output element (i, n): FMA in order of k over the captured codes. -/
def refValue (cist : List Host.Cell) (j : Job) (img : BImage) (q i n k0 : Nat) : Word :=
  BitVec.ofNat 32 ((List.range (shapeK j.shape)).foldl (fun acc k =>
    let bEnt := (SMap.get exp16 img.exps ((k0 / 32 + k / 32) * 256 + n)).toNat
    let aEnt := aEntry cist j q i (k / 32)
    let b := if entryBad bEnt then none else elemVal j.bfmt (SMap.get (fun _ => 0) img.codes ((k0 + k) * 256 + n)) (entryX bEnt)
    let a := if entryBad aEnt then none else elemVal j.afmt (aRaw cist j q i k) (entryX aEnt)
    refStep acc a b) 0)

/-- Compare a1 × 2^e1 and a2 × 2^e2. -/
def ltDyadic (a1 : Int) (e1 : Int) (a2 : Int) (e2 : Int) : Bool :=
  decide ((addExact a1 e1 (-a2) e2).1 < 0)

/-- The larger of two magnitudes. -/
def maxDyadic (a b : Int × Int) : Int × Int := if ltDyadic a.1 a.2 b.1 b.2 then b else a

/-- A finite FP32 word as a dyadic; none for NaN and infinity. -/
def wordDyadic (w : Word) : Option (Int × Int) :=
  match f32.dec w.toNat with | .fin s m e => some (signed s m, e) | _ => none

/-- Deviation of a block (R108): none where a value is not finite; else the largest difference and the largest
reference, as magnitudes. -/
def deviation (c : Capture) : Option ((Int × Int) × (Int × Int)) :=
  (c.carr.zip c.cref).foldl (fun acc x =>
    match acc, x.1.nan, wordDyadic x.2 with
    | some (d, r), false, some (m, e) =>
      let y := addExact x.1.m x.1.e (-m) e
      some (maxDyadic d ((y.1.natAbs : Int), y.2), maxDyadic r ((m.natAbs : Int), e))
    | _, _, _ => none) (some ((0, 0), (0, 0)))

/-- Bucket of a deviation (Table 4.7). -/
def bucketOf (d r : Int × Int) : Nat :=
  if r.1 = 0 then (if d.1 = 0 then 0 else 7)
  else ([20, 16, 13, 10, 8, 6, 4].filter fun (k : Nat) => !ltDyadic d.1 d.2 r.1 (r.2 - k)).length

/-- d as FP32, rounded to nearest. -/
def devWord (d r : Int × Int) : Word :=
  let q := d.1.natAbs * 2 ^ 60 / r.1.natAbs
  let st := if d.1.natAbs * 2 ^ 60 % r.1.natAbs = 0 then 0 else 1
  BitVec.ofNat 32 (f32.round 0 false false (2 * q + st) (d.2 - r.2 - 61)).1

end Sys2Proof.Machine
end

