-- ==== Sys2Proof/Machine/Walk.lean ====
section
/-!
DEFINITION. DMA descriptors (R124 … R131): their fields, the checks of R126, and the walk order of every mode as a
plan for each granule; and the transfers of a tile still due into its own cistern (R44).
-/

namespace Sys2Proof.Machine

/-! ## Fields (Table 5.5) -/

def dword (d : DmaDesc) (i : Nat) : Nat := lineLe d.w (8 * i) 8
def dMode (d : DmaDesc) : Nat := nbits (dword d 0) 0 4
def dSsp (d : DmaDesc) : Bool := (dword d 0).testBit 4
def dDsp (d : DmaDesc) : Bool := (dword d 0).testBit 5
def dEvt (d : DmaDesc) : Bool := (dword d 0).testBit 6
def dChain (d : DmaDesc) : Bool := (dword d 0).testBit 7
def dNext (d : DmaDesc) : Nat := nbits (dword d 0) 32 32
def dSrc (d : DmaDesc) : Nat := nbits (dword d 1) 0 48
def dDst (d : DmaDesc) : Nat := nbits (dword d 2) 0 48

/-- Bits of a parameter word (Table 5.6). -/
def dPar (d : DmaDesc) (w lo n : Nat) : Nat := nbits (dword d w) lo n

/-- An address of a space: a virtual address has 48 bits (log 17). -/
def spAddr (sp : Bool) (x : Int) : Nat := if sp then (x % 2 ^ 48).toNat else x.toNat

/-- n bytes at x lie in the space: a cistern offset must stay below 0x30_0000. -/
def inSp (sp : Bool) (x : Int) (n : Nat) : Bool := sp || decide (0 ≤ x ∧ x + n ≤ cistSize)

/-- The 64-byte granules that byte ranges touch, each once, in order. -/
def touched (sp : Bool) (l : List (Int × Nat)) : List Nat :=
  (l.flatMap fun r => if r.2 = 0 then [] else
    (List.range ((r.1 % 64 + r.2 - 1) / 64 + 1).toNat).map fun (i : Nat) => spAddr sp (r.1 / 64 * 64 + 64 * i)).eraseDups

/-- What moves in one granule of the walk: tables read in the own cistern, source granules, destination, its bytes, and
whether an offset the walk computed leaves the cistern (R126). -/
structure Gran where
  tabs : List (Nat × Nat)
  srcs : List Nat
  dst : Nat
  len : Nat
  bad : Bool
  data : (Nat → Byte) → Bytes

/-- A plain move of n bytes. -/
def moveGran (d : DmaDesc) (tabs : List (Nat × Nat)) (sa da : Int) (n : Nat) : Gran :=
  { tabs := tabs, srcs := touched (dSsp d) [(sa, n)], dst := spAddr (dDsp d) da, len := n
    bad := !inSp (dSsp d) sa n || !inSp (dDsp d) da n
    data := fun f => (List.range n).map fun (j : Nat) => f (spAddr (dSsp d) (sa + j)) }

/-! ## Linear, strided, gather, scatter, fill, copy -/

def s32 (x : Nat) : Int := sext 32 x

/-- Granule g of a strided walk: inner run, then the first stride, then the second. -/
def stridedAt (d : DmaDesc) (g : Nat) : Int × Int :=
  let n0 := dPar d 3 0 32 / 64
  let n1 := dPar d 3 32 16
  let i0 : Int := (g % n0 * 64 : Nat)
  let i1 : Int := (g / n0 % n1 : Nat)
  let i2 : Int := (g / n0 / n1 : Nat)
  (dSrc d + i0 + i1 * s32 (dPar d 4 0 32) + i2 * s32 (dPar d 4 32 32),
    dDst d + i0 + i1 * s32 (dPar d 5 0 32) + i2 * s32 (dPar d 5 32 32))

/-- Is the index mode a scatter? -/
def isScatter (d : DmaDesc) : Bool := (dword d 3).testBit 24

/-- The index of row k: the one the walk has read, or what its table entry holds. -/
def ixEnt (cist : List Host.Cell) (d : DmaDesc) (k : Nat) : Nat :=
  match d.ents with
  | (k', x) :: _ => if k' = k then x else Mem.readLe cist (dPar d 4 0 22 + 4 * k) 4
  | [] => Mem.readLe cist (dPar d 4 0 22 + 4 * k) 4

/-- Granule g of a gather or scatter (R130). A row that leaves the cistern is bad from its first granule on (R126). -/
def indexedAt (cist : List Host.Cell) (d : DmaDesc) (g : Nat) : Gran :=
  let rs := dPar d 3 16 8
  let k := g / rs
  let row : Int := (ixEnt cist d k * rs * 64 : Nat)
  let packed : Int := (k * rs * 64 + g % rs * 64 : Nat)
  let spread : Int := row + (g % rs * 64 : Nat)
  let m := moveGran d (if d.ents.any (·.1 == k) then [] else [(dPar d 4 0 22 + 4 * k, 4)])
    (dSrc d + if isScatter d then packed else spread) (dDst d + if isScatter d then spread else packed) 64
  { m with bad := m.bad || !(if isScatter d then inSp (dDsp d) (dDst d + row) (rs * 64) else inSp (dSsp d) (dSrc d + row) (rs * 64)) }

/-- One access of a copy: 256 bytes, or 64 of the remainder (R131). -/
def copyLen (d : DmaDesc) (g : Nat) : Nat := if (g + 4) * 64 ≤ dPar d 3 0 22 then 256 else 64

/-! ## Block entries (R87) -/

/-- The header or stripe entry of a block of elements under scale code x. For codes without an exponent its e_max is a
free value (the entry is ignored, R63). -/
def blockEntry (code x : Nat) (es : List Nat) (free : Nat) : Nat :=
  match ffmtOf code with
  | some f =>
    let fin := es.filter fun v => match f.dec v with | .fin _ _ _ => true | _ => false
    let m := fin.foldl (fun (a : Int) v => max a (ownExp f v)) f.emin
    x + 256 * (m % 256).toNat
  | none => x + 256 * (free % 256)

/-- Elements of width e packed from bit 0, cut to n bytes from bit skip on. -/
def cutBits (e : Nat) (l : List Nat) (skip n : Nat) : Bytes :=
  toLe n ((l.foldr (fun x acc => x % 2 ^ e + 2 ^ e * acc) 0) >>> skip)

/-- Element k of width e in a row of packed elements that starts at a. -/
def elemOf (sp : Bool) (f : Nat → Byte) (a : Int) (e k : Nat) : Nat :=
  let b := k * e / 8
  nbits (leNat ((List.range ((k * e % 8 + e + 7) / 8)).map fun (j : Nat) => f (spAddr sp (a + b + j)))) (k * e % 8) e

/-- The bytes of element k. -/
def elemSpan (a : Int) (e k : Nat) : Int × Nat := (a + k * e / 8, (k * e % 8 + e + 7) / 8)

/-! ## Skew (R127) -/

def skM (d : DmaDesc) : Nat := dPar d 3 0 11
def skK (d : DmaDesc) : Nat := dPar d 3 11 9
def skC (d : DmaDesc) : Nat := dPar d 3 20 7
def skFmt (d : DmaDesc) : Nat := dPar d 3 27 4
def skQuad (d : DmaDesc) : Bool := (dword d 3).testBit 31
def skE (d : DmaDesc) : Nat := fmtWidth (skFmt d)
def skEntries (d : DmaDesc) : Nat := if skQuad d then 16 else 8
/-- Elements of a stream word. -/
def skN (d : DmaDesc) : Nat := if skQuad d then 256 else skK d
/-- Bytes of a stream word. -/
def skWord (d : DmaDesc) : Nat := roundUp ((skN d * skE d + 7) / 8) 64
def skWords (d : DmaDesc) : Nat :=
  let w := skM d + (skK d - 1) / skC d
  if skQuad d then 2 * w else w
def skStripe (d : DmaDesc) : Nat := skM d * skEntries d * 2
def skArea (d : DmaDesc) : Nat := roundUp (dDst d + skStripe d) 256
def skEnd (d : DmaDesc) : Nat := skArea d + skWords d * skWord d
/-- Granules of a word that one band writes: the word area in bands of K when it outgrows the 64 KiB buffer (log 25). -/
def skBand (d : DmaDesc) : Nat :=
  let z := ceilDiv (skK d) (skC d) * skWord d
  if z ≤ 65536 then skWord d / 64 else ceilDiv (skWord d / 64) (ceilDiv z 65536)

/-- Start of source row i of quadrant q. -/
def skRow (d : DmaDesc) (q i : Nat) : Int := dSrc d + q * dPar d 6 0 32 + i * dPar d 4 0 32

/-- The granule of entries that starts at stripe byte 64 × g. -/
def skewStripe (d : DmaDesc) (g free : Nat) : Gran :=
  let n := skEntries d
  let len := min 64 (skStripe d - 64 * g)
  let scale := dPar d 5 0 48
  let ents := (List.range (len / 2)).map fun u =>
    let x := 32 * g + u
    let i := x / n
    let q := if skQuad d then x % n / 4 else 0
    let b := if skQuad d then x % 4 else x % n
    let ks := (List.range 32).map (32 * b + ·) |>.filter (· < skK d)
    (i, q, b, ks)
  let sAddr := fun (i q b : Nat) => (scale : Int) + (q * skM d + i) * ceilDiv (skK d) 32 + b
  { tabs := [], dst := dDst d + 64 * g, len := len, bad := false
    srcs := touched (dSsp d) (ents.flatMap fun (i, q, b, ks) =>
      ks.map (elemSpan (skRow d q i) (skE d)) ++ (if scale ≠ 0 ∧ ks ≠ [] then [(sAddr i q b, 1)] else []))
    data := fun f => ents.flatMap fun (i, q, b, ks) =>
      toLe 2 (blockEntry (skFmt d)
        (if scale ≠ 0 ∧ ks ≠ [] then (f (spAddr (dSsp d) (sAddr i q b))).toNat else 127)
        (ks.map (elemOf (dSsp d) f (skRow d q i) (skE d))) free) }

/-- Granule gg of stream word w. -/
def skewWord (d : DmaDesc) (w gg : Nat) : Gran :=
  let e := skE d
  let k0 := 512 * gg / e
  let k1 := min (skN d) (ceilDiv (512 * gg + 512) e)
  let elems : List (Option (Int × Nat)) := (List.range (k1 - k0)).map fun j =>
    let k := k0 + j
    let q := if skQuad d then w % 2 + 2 * (k / 128) else 0
    let kk := if skQuad d then k % 128 else k
    let ww := if skQuad d then w / 2 else w
    if kk / skC d ≤ ww ∧ ww - kk / skC d < skM d then some (skRow d q (ww - kk / skC d), kk) else none
  { tabs := [], dst := skArea d + w * skWord d + 64 * gg, len := 64, bad := false
    srcs := touched (dSsp d) (elems.filterMap fun o => o.map fun x => elemSpan x.1 e x.2)
    data := fun f => cutBits e (elems.map fun o => match o with
      | some (a, k) => elemOf (dSsp d) f a e k
      | none => 0) (512 * gg - k0 * e) 64 }

/-- Granule g of a skew walk: the stripe, then the word area by bands. -/
def skewAt (d : DmaDesc) (g free : Nat) : Gran :=
  let ns := ceilDiv (skStripe d) 64
  if g < ns then skewStripe d g free
  else
    let i := g - ns
    let gb := skBand d
    let b := i / (skWords d * gb)
    let width := min gb (skWord d / 64 - b * gb)
    let r := i - b * (skWords d * gb)
    skewWord d (r / width) (b * gb + r % width)

/-- What the skew buffer keeps once granule g has been written: the rows that its word reaches (R127). -/
def skewKeep (d : DmaDesc) (g : Nat) : List Nat :=
  let ns := ceilDiv (skStripe d) 64
  if g < ns then []
  else
    let gb := skBand d
    let b := (g - ns) / (skWords d * gb)
    let w := (g - ns - b * (skWords d * gb)) / min gb (skWord d / 64 - b * gb)
    let ww := if skQuad d then w / 2 else w
    let lo := ww - (skK d - 1) / skC d
    touched (dSsp d) ((List.range (if skQuad d then 4 else 1)).flatMap fun q =>
      ((List.range (ww + 1 - lo)).filter (lo + · < skM d)).map fun i => (skRow d q (lo + i), (skK d * skE d + 7) / 8))

def skewCount (d : DmaDesc) : Nat := ceilDiv (skStripe d) 64 + skWords d * (skWord d / 64)

/-! ## Transpose (R128) -/

def trRs (d : DmaDesc) : Nat := dPar d 3 0 16
def trCs (d : DmaDesc) : Nat := dPar d 3 16 16
def trFmt (d : DmaDesc) : Nat := dPar d 3 32 4
def trTr (d : DmaDesc) : Bool := (dword d 3).testBit 36
def trBimg (d : DmaDesc) : Bool := (dword d 3).testBit 37
def trShape (d : DmaDesc) : Shape :=
  match dPar d 3 38 2 with | 0 => .full | 1 => .half | 2 => .quad | _ => .narrow
def trWidth (d : DmaDesc) : Nat := shapeCols (trShape d) (dPar d 3 40 6)
def trE (d : DmaDesc) : Nat := fmtWidth (trFmt d)
/-- Rows and columns that land at the destination. -/
def trRd (d : DmaDesc) : Nat := if trTr d then trCs d else trRs d
def trCd (d : DmaDesc) : Nat := if trTr d then trRs d else trCs d
def trBytes (d : DmaDesc) : Nat := (trCd d * trE d + 7) / 8
def trPieces (d : DmaDesc) : Nat := ceilDiv (trBytes d) 64
/-- Start of destination row r. -/
def trRow (d : DmaDesc) (r : Nat) : Int :=
  if trBimg d then dDst d + imageHeader (trShape d) + r * imageRow (trShape d) (trE d)
  else dDst d + r * dPar d 6 0 32
/-- Source row and element of destination element (r, c). -/
def trSrc (d : DmaDesc) (r c : Nat) : Int × Nat :=
  if trTr d then (dSrc d + c * dPar d 4 0 32, r) else (dSrc d + r * dPar d 4 0 32, c)

/-- Piece j of destination row r. Bits of the last byte beyond the row: kept in a B image, free elsewhere (log 26). -/
def trPiece (cist : List Host.Cell) (d : DmaDesc) (r j free : Nat) : Gran :=
  let e := trE d
  let n := min 64 (trBytes d - 64 * j)
  let k0 := 512 * j / e
  let k1 := min (trCd d) (ceilDiv (512 * j + 8 * n) e)
  let cs := (List.range (k1 - k0)).map (k0 + ·)
  let da := trRow d r + 64 * j
  let last := spAddr (dDsp d) (da + n - 1)
  let used := trCd d * e - (512 * j + 8 * (n - 1))
  let rest := if trBimg d then (Mem.read cist last).toNat / 2 ^ used else free % 256 / 2 ^ used
  { tabs := [], dst := spAddr (dDsp d) da, len := n, bad := false
    srcs := touched (dSsp d) (cs.map fun c => elemSpan (trSrc d r c).1 e (trSrc d r c).2)
    data := fun f =>
      let l := cutBits e (cs.map fun c => elemOf (dSsp d) f (trSrc d r c).1 e (trSrc d r c).2) (512 * j - k0 * e) n
      if used < 8 then l.dropLast ++ [BitVec.ofNat 8 ((l.getLastD 0).toNat + rest * 2 ^ used)] else l }

/-- Header granule h of a B image. -/
def trHead (d : DmaDesc) (h free : Nat) : Gran :=
  let e := trE d
  let p := imagePitch (trShape d)
  let scale := dPar d 5 0 48
  let ents := (List.range 32).map fun u =>
    let x := 32 * h + u
    let b := x / p
    let c := x % p
    (x, if c < trCd d then ((List.range 32).map (32 * b + ·) |>.filter (· < trRd d)).map (trSrc d · c) else [])
  { tabs := [], dst := dDst d + 64 * h, len := 64, bad := false
    srcs := touched (dSsp d) (ents.flatMap fun (x, es) =>
      es.map (fun y => elemSpan y.1 e y.2) ++ (if scale ≠ 0 then [((scale : Int) + x, 1)] else []))
    data := fun f => ents.flatMap fun (x, es) =>
      toLe 2 (blockEntry (trFmt d) (if scale ≠ 0 then (f (spAddr (dSsp d) (scale + x))).toNat else 127)
        (es.map fun y => elemOf (dSsp d) f y.1 e y.2) free) }

/-- Granule g of a transpose: the destination rows, then the header of a B image (log 26). -/
def transposeAt (cist : List Host.Cell) (d : DmaDesc) (g free : Nat) : Gran :=
  let np := trPieces d
  if g < trRd d * np then trPiece cist d (g / np) (g % np) free else trHead d (g - trRd d * np) free

def transposeCount (d : DmaDesc) : Nat :=
  trRd d * trPieces d + if trBimg d then imageHeader (trShape d) / 64 else 0

/-! ## Ragged walk (R129, R165, R166) -/

def rgS (d : DmaDesc) : Nat := dPar d 3 0 16
def rgU (d : DmaDesc) : Nat := dPar d 3 16 16
def rgP (d : DmaDesc) : Nat := max 1 (dPar d 3 32 16)
def rgZpad (d : DmaDesc) : Bool := (dword d 3).testBit 48
def rgTab (d : DmaDesc) (i : Nat) : Nat := dPar d 4 0 22 + 8 * i
/-- Entry i of the length table: as the walk has read it, or what the table holds (R165). -/
def rgEnt (cist : List Host.Cell) (d : DmaDesc) (i : Nat) : Nat × Nat :=
  (d.ents[i]?).getD (Mem.readLe cist (rgTab d i) 4, Mem.readLe cist (rgTab d i + 4) 4)
def rgLen (cist : List Host.Cell) (d : DmaDesc) (i : Nat) : Nat := (rgEnt cist d i).1
def rgStart (cist : List Host.Cell) (d : DmaDesc) (i : Nat) : Nat := (rgEnt cist d i).2
/-- The entries below n that the walk has still to read. -/
def rgUnread (d : DmaDesc) (n : Nat) : List (Nat × Nat) :=
  ((List.range n).filter (d.ents.length ≤ ·)).map fun i => (rgTab d i, 8)
/-- The first n entries. -/
def rgEnts (cist : List Host.Cell) (d : DmaDesc) (n : Nat) : List (Nat × Nat) := (List.range n).map (rgEnt cist d)
/-- Rows sequence i adds to D. -/
def rgSpan (cist : List Host.Cell) (d : DmaDesc) (i : Nat) : Nat := roundUp (rgLen cist d i) (rgP d)
/-- D_i. -/
def rgD (cist : List Host.Cell) (d : DmaDesc) (i : Nat) : Nat :=
  (List.range i).foldl (fun a j => a + rgSpan cist d j) 0
/-- Granules the walk moves for sequence i. -/
def rgGrans (cist : List Host.Cell) (d : DmaDesc) (i : Nat) : Nat :=
  rgU d * (if rgZpad d then rgSpan cist d i else rgLen cist d i)

/-- The sequence that holds granule g and the place of g in it. -/
def rgFind (cist : List Host.Cell) (d : DmaDesc) : Nat → Nat → Nat → Option (Nat × Nat)
  | 0, _, _ => none
  | n + 1, i, g =>
    if g < rgGrans cist d i then some (i, g) else rgFind cist d n (i + 1) (g - rgGrans cist d i)

/-- Granule g of a ragged walk. -/
def raggedAt (cist : List Host.Cell) (d : DmaDesc) (g : Nat) : Option Gran :=
  (rgFind cist d (rgS d) 0 g).map fun (i, x) =>
    let u := rgU d
    let row := x / u
    let part := x % u
    let tabs := rgUnread d (i + 1)
    let da : Int := dDst d + (rgD cist d i + row) * u * 64 + part * 64
    let seqBad := decide (x = 0) && !inSp (dDsp d) (dDst d + rgD cist d i * u * 64) (rgSpan cist d i * u * 64)
    if row < rgLen cist d i then
      let sr : Int := dSrc d + (rgStart cist d i + row) * u * 64
      let m := moveGran d tabs (sr + part * 64) da 64
      { m with bad := m.bad || seqBad || !inSp (dSsp d) sr (u * 64) }
    else
      { tabs := tabs, srcs := [], dst := spAddr (dDsp d) da, len := 64, bad := seqBad
        data := fun _ => List.replicate 64 0 }

/-- The table entries a walk has read once it has taken granule g: the index of its row, or the lengths up to its
sequence. -/
def entsAt (cist : List Host.Cell) (d : DmaDesc) (g : Nat) : List (Nat × Nat) :=
  match dMode d with
  | 2 => let k := g / dPar d 3 16 8; [(k, ixEnt cist d k)]
  | 5 => match rgFind cist d (rgS d) 0 g with
    | some (i, _) => rgEnts cist d (max d.ents.length (i + 1))
    | none => d.ents
  | _ => d.ents

/-- The prefix table D_0 … D_S. -/
def rgPrefix (cist : List Host.Cell) (d : DmaDesc) : Bytes :=
  (List.range (rgS d + 1)).flatMap fun i => toLe 4 (rgD cist d i)

/-! ## Every mode -/

/-- Granules of a descriptor, entries for a command list (R132). -/
def dmaCount (cist : List Host.Cell) (d : DmaDesc) : Nat :=
  match dMode d with
  | 0 => dPar d 3 0 32 / 64
  | 1 => dPar d 3 0 32 / 64 * dPar d 3 32 16 * dPar d 3 48 16
  | 2 => dPar d 3 0 16 * dPar d 3 16 8
  | 3 => skewCount d
  | 4 => transposeCount d
  | 5 => (List.range (rgS d)).foldl (fun a i => a + rgGrans cist d i) 0
  | 6 => dPar d 3 0 16
  | 7 => dPar d 3 0 22 / 64
  | 8 => dPar d 3 0 22 / 64
  | _ => 0

/-- What the walk moves at granule g; fill and copy move up to four granules in one access (R131). -/
def dmaAt (cist : List Host.Cell) (d : DmaDesc) (g free : Nat) : Option Gran :=
  if dmaCount cist d ≤ g then none
  else match dMode d with
    | 0 => some (moveGran d [] (dSrc d + 64 * g) (dDst d + 64 * g) 64)
    | 1 => some (moveGran d [] (stridedAt d g).1 (stridedAt d g).2 64)
    | 2 => some (indexedAt cist d g)
    | 3 => some (skewAt d g free)
    | 4 => some (transposeAt cist d g free)
    | 5 => raggedAt cist d g
    | 7 => some { tabs := [], srcs := [], dst := dDst d + 64 * g, len := 256, bad := false
                  data := fun _ => (List.range 32).flatMap fun _ => toLe 8 (dword d 4) }
    | 8 => some (moveGran d [] (dSrc d + 64 * g) (dDst d + 64 * g) (copyLen d g))
    | _ => none

/-! ## Checks (R126) -/

/-- Rows of n bytes from a at a pitch lie in the space. -/
def rowsIn (sp : Bool) (a : Int) (rows pitch n : Nat) : Bool := inSp sp a ((rows - 1) * pitch + n)

/-- A strided span lies in the space. -/
def spanIn (sp : Bool) (a : Int) (n0 n1 n2 : Nat) (s1 s2 : Int) : Bool :=
  let lo := a + min 0 (((n1 : Int) - 1) * s1) + min 0 (((n2 : Int) - 1) * s2)
  let hi := a + max 0 (((n1 : Int) - 1) * s1) + max 0 (((n2 : Int) - 1) * s2)
  inSp sp lo ((hi - lo).toNat + n0)

/-- A descriptor passes the checks made when it starts. -/
def dmaValid (d : DmaDesc) : Bool :=
  let src := dSrc d
  let dst := dDst d
  let ssp := dSsp d
  let dsp := dDsp d
  let al := decide (src % 64 = 0 ∧ dst % 64 = 0)
  nbits (dword d 0) 8 24 == 0 && dword d 1 < 2 ^ 48 && dword d 2 < 2 ^ 48
    && (!dChain d || decide (dNext d % 64 = 0 ∧ dNext d + 64 ≤ cistSize))
    && match dMode d with
      | 0 => let l := dPar d 3 0 32; decide (64 ≤ l ∧ l % 64 = 0) && al && inSp ssp src l && inSp dsp dst l
      | 1 =>
        let n0 := dPar d 3 0 32
        let n1 := dPar d 3 32 16
        let n2 := dPar d 3 48 16
        let st := [dPar d 4 0 32, dPar d 4 32 32, dPar d 5 0 32, dPar d 5 32 32]
        decide (0 < n0 ∧ n0 % 64 = 0 ∧ 1 ≤ n1 ∧ 1 ≤ n2) && st.all (· % 64 == 0) && al
          && spanIn ssp src n0 n1 n2 (s32 (dPar d 4 0 32)) (s32 (dPar d 4 32 32))
          && spanIn dsp dst n0 n1 n2 (s32 (dPar d 5 0 32)) (s32 (dPar d 5 32 32))
      | 2 =>
        let n := dPar d 3 0 16
        let rs := dPar d 3 16 8
        let tab := dPar d 4 0 22
        decide (1 ≤ rs) && al && decide (tab % 4 = 0 ∧ tab + 4 * n ≤ cistSize)
          && (if isScatter d then inSp ssp src (n * rs * 64) else inSp dsp dst (n * rs * 64))
      | 3 =>
        let scale := dPar d 5 0 48
        !dsp && decide (src % 64 = 0 ∧ dst % 256 = 0 ∧ 1 ≤ skM d ∧ skM d ≤ (if skQuad d then 512 else 1024)
            ∧ 1 ≤ skK d ∧ skK d ≤ 256 ∧ 1 ≤ skC d ∧ skC d ≤ 72 ∧ 1 ≤ skFmt d ∧ skFmt d ≤ 10)
          && (!skQuad d || skK d == 128) && decide (skEnd d ≤ cistSize)
          && (List.range (if skQuad d then 4 else 1)).all (fun q =>
            rowsIn ssp (skRow d q 0) (skM d) (dPar d 4 0 32) ((skK d * skE d + 7) / 8))
          && (scale == 0 || inSp ssp scale ((if skQuad d then 4 else 1) * skM d * ceilDiv (skK d) 32))
      | 4 =>
        let scale := dPar d 5 0 48
        decide (src % 64 = 0 ∧ dst % 64 = 0 ∧ 1 ≤ trRs d ∧ trRs d ≤ 256 ∧ 1 ≤ trCs d ∧ trCs d ≤ 256 ∧ trFmt d ≤ 11)
          && rowsIn ssp src (trRs d) (dPar d 4 0 32) ((trCs d * trE d + 7) / 8)
          && (if trBimg d then
              !dsp && decide (dst % 256 = 0 ∧ trFmt d ≤ 10 ∧ trCd d ≤ trWidth d
                ∧ (trShape d = .narrow → dPar d 3 40 6 ≤ 32)
                ∧ dst + imageSize (trShape d) (trE d) ≤ cistSize)
                && (scale == 0 || inSp ssp scale (8 * imagePitch (trShape d)))
            else rowsIn dsp dst (trRd d) (dPar d 6 0 32) (trBytes d))
      | 5 =>
        let l := dPar d 4 0 22
        let q := dPar d 5 0 22
        al && decide (1 ≤ rgS d ∧ rgS d ≤ 1024 ∧ l % 8 = 0 ∧ l + 8 * rgS d ≤ cistSize ∧ q % 4 = 0
          ∧ q + 4 * (rgS d + 1) ≤ cistSize) && inSp ssp src 0 && inSp dsp dst 0
      | 6 => !ssp && !dsp && decide (dst = 0 ∧ src % 16 = 0 ∧ src + 16 * dPar d 3 0 16 ≤ cistSize)
      | 7 => let l := dPar d 3 0 22; !ssp && !dsp && decide (l % 256 = 0 ∧ dst % 256 = 0 ∧ dst + l ≤ cistSize)
      | 8 =>
        let l := dPar d 3 0 22
        !ssp && !dsp && al && decide (l % 64 = 0 ∧ src + l ≤ cistSize ∧ dst + l ≤ cistSize
          ∧ (src + l ≤ dst ∨ dst + l ≤ src))
      | _ => false

/-! ## Transfers still due into the own cistern (R44) -/

/-- The device address of va by the tables alone. -/
def peekDpa (s : State) (p : Part) (va : Nat) : Option Nat :=
  if tblLen s p = 0 then none
  else
    let l1 := tblPeek s (tblBase s p + va / 0x40000000 * 8)
    if !l1.testBit 0 then none
    else if l1.testBit 1 then some ((leafEnt p va true l1).dpa va)
    else
      let l2 := tblPeek s (l1 % 2 ^ 48 / 4096 * 4096 + va / 0x200000 % 512 * 8)
      if l2.testBit 0 then some ((leafEnt p va false l2).dpa va) else none

/-- The offset in tile t's own cistern that a destination names, if it names one. -/
def ownCist (s : State) (t : Tile) (sp : Bool) (a : Nat) : Option Nat :=
  if !sp then some a
  else ((partOf s t).bind fun p => peekDpa s p a).bind fun x =>
    match placeOf x with
    | .cist t' o => if t' = t then some o else none
    | _ => none

/-- State of a channel (DMA_STS.state). -/
def dmaSts (t : Tile) (ch : Chan) : Nat := tilePage t (5 + ch.val) + 0x044
def dmaState (s : State) (t : Tile) (ch : Chan) : Nat := (fld (s.reg (dmaSts t ch)) 0 3).toNat

/-- A descriptor has still to write some byte of off … off + n − 1. -/
def descOwes (s : State) (t : Tile) (done off n : Nat) (d : DmaDesc) : Bool :=
  let c := (s.mem t).cist
  dMode d != 6 && dMode d < 9 && (List.range (dmaCount c d - done)).any fun i =>
    match dmaAt c d (done + i) 0 with
    | some g => (match ownCist s t (dDsp d) g.dst with
        | some x => decide (x < off + n ∧ off < x + g.len)
        | none => false)
    | none => false

/-- The channel owes a write launched before ord. -/
def chanOwes (s : State) (t : Tile) (ord off n : Nat) (ch : Chan) : Bool :=
  let c := (s.mem t).chan ch
  c.queue.zipIdx.any fun (d, i) =>
    decide (d.ord < ord) && !(i == 0 && decide (3 ≤ dmaState s t ch))
      && descOwes s t (if i = 0 ∧ c.started then c.done else 0) off n d

/-- A queued readout owes a write. -/
def rdoutOwes (ord off n : Nat) : ArrEntry → Bool
  | .rdout _ count dst ofmt _ _ _ _ o =>
    decide (o < ord ∧ dst < off + n ∧ off < dst + (count - 1) * rdoutPitch ofmt.toNat + 32 * fmtWidth ofmt.toNat)
  | _ => false

/-- The cistern range a WXPND entry writes (R158): start and length. -/
def xpndRange (e : BitVec 128) : Nat × Nat :=
  let x := e.toNat
  let d := 8 * (nbits x 84 7 + 1)
  (nbits x 58 16 * 64, nbits x 96 19 * (ceilDiv (d * fmtWidth (nbits x 8 4)) 512 * 64))

/-- A well-engine command of the tile owes its result stream. -/
def engOwes (t : Tile) (ord off n : Nat) (e : EngCmd) : Bool :=
  e.tile == t && nbits e.entry.toNat 0 4 == 7 && decide (e.ord < ord)
    && (let r := xpndRange e.entry; decide (r.1 < off + n ∧ off < r.1 + r.2))

/-- Some transfer that tile t launched before ord has still to write into bytes off … off + n − 1 of its cistern. -/
def owes (s : State) (t : Tile) (ord off n : Nat) : Bool :=
  (List.finRange 4).any (chanOwes s t ord off n)
    || (s.arr t).queue.any (rdoutOwes ord off n)
    || (s.mem t).engQ.any (engOwes t ord off n)
    || s.banks.any fun b => b.2.queue.any (engOwes t ord off n)

/-- A launch takes its place in the tile's order. -/
def nextLaunch (s : State) (t : Tile) : Nat × State :=
  ((s.mem t).launch, s.modMem t fun m => { m with launch := m.launch + 1 })

end Sys2Proof.Machine
end

