-- ==== Sys2Proof/Machine/EngineOps.lean ====
section
/-!
DEFINITION. Well engines (R148 … R161): the entry of Table 6.4, its checks and acceptance, the controller and bank
queues, and the effect of every sub-op.
-/

namespace Sys2Proof.Machine

/-! ## Entry fields (Table 6.4) -/

def eOp (e : BitVec 128) : Nat := nbits e.toNat 0 4
def eFmt (e : BitVec 128) : Nat := nbits e.toNat 4 4
def eOfmt (e : BitVec 128) : Nat := nbits e.toNat 8 4
def eWbuf (e : BitVec 128) : Bool := e.getLsbD 12
def eEvt (e : BitVec 128) : Bool := e.getLsbD 13
/-- Virtual address of z. -/
def eZ (e : BitVec 128) : Nat := nbits e.toNat 16 42 * 64
/-- Virtual addresses of x and y. -/
def eX (e : BitVec 128) : Int := eZ e + sext 19 (nbits e.toNat 58 19) * 64
def eY (e : BitVec 128) : Int := eZ e + sext 19 (nbits e.toNat 77 19) * 64
/-- The scalar s as a binary32 pattern. -/
def eS (e : BitVec 128) : Nat := nbits e.toNat 77 16 * 65536
def eK (e : BitVec 128) : Nat := nbits e.toNat 64 32
def eLen (e : BitVec 128) : Nat := nbits e.toNat 96 19
def eR (e : BitVec 128) : Nat := nbits e.toNat 74 10 + 1
def eD (e : BitVec 128) : Nat := 8 * (nbits e.toNat 84 7 + 1)

/-- Granules of a latent row (R158). -/
def eRowG (e : BitVec 128) : Nat := ceilDiv (eR e * fmtWidth (eFmt e)) 512

/-- Does the entry write the well at z (R149)? -/
def eWrites (e : BitVec 128) : Bool := eOp e != 7 && !(eOp e == 6 && eWbuf e)

/-- Granules of z, and whether x and y are operands. -/
def eZlen (e : BitVec 128) : Nat := if eOp e = 4 then 1 else if eOp e = 7 then eLen e * eRowG e else eLen e
def eUsesX (e : BitVec 128) : Bool := decide (eOp e = 1 ∨ eOp e = 2 ∨ eOp e = 3 ∨ eOp e = 4 ∨ eOp e = 6)
def eUsesY (e : BitVec 128) : Bool := decide (eOp e = 1)

/-- A run of granules lies in the 48-bit space. -/
def inVa (x : Int) (n : Nat) : Bool := decide (0 ≤ x ∧ x + 64 * n ≤ 2 ^ 48)

/-- Formats of a sub-op (Table 6.3). -/
def eFmtOk (e : BitVec 128) : Bool :=
  let f := eFmt e
  match eOp e with
  | 1 => decide (f = 8 ∨ f = 9 ∨ f = 10)
  | 2 => decide (f = 8 ∨ f = 9 ∨ f = 10)
  | 3 => decide (f = 8 ∨ f = 9 ∨ f = 10)
  | 4 => decide (f = 8 ∨ f = 9 ∨ f = 10 ∨ f = 5 ∨ f = 4)
  | 7 => decide ((f = 8 ∨ f = 5) ∧ (eOfmt e = 8 ∨ eOfmt e = 5 ∨ eOfmt e = 4))
  | _ => true

/-- The reason the entry's own fields give to reject it: 1, 2 or 5 (R150). -/
def eReason (e : BitVec 128) : Option Nat :=
  let op := eOp e
  let x := e.toNat
  if op = 0 ∨ 8 < op ∨ nbits x 14 2 ≠ 0 ∨ nbits x 115 13 ≠ 0 ∨ (op ≠ 7 ∧ eOfmt e ≠ 0) ∨ (op ≠ 6 ∧ eWbuf e)
      ∨ ((op = 2 ∨ op = 3) ∧ nbits x 93 3 ≠ 0) ∨ (op = 5 ∧ nbits x 58 6 ≠ 0) ∨ (op = 7 ∧ nbits x 91 5 ≠ 0)
      ∨ eLen e = 0 ∨ 262144 < eLen e ∨ !inVa (eZ e) (if op = 7 then eZlen e else eLen e)
      ∨ (eUsesX e ∧ !inVa (eX e) (eLen e)) ∨ (eUsesY e ∧ !inVa (eY e) (eLen e)) then some 1
  else if !eFmtOk e then some 2
  else if op = 7 ∧ 65536 < eR e * eD e * fmtWidth (eFmt e) / 8 then some 5
  else none

/-! ## Acceptance (R150) -/

/-- What the controller answers to an entry. -/
inductive EngAcc where
  | wait
  | reject
  | fault (cause va : Nat) (side : Bool)
  | guard
  | queued
  deriving DecidableEq, Repr

/-- Translate a range page by page: the device addresses of the pages it touches, or the first fault. -/
def xlRange (s : State) (t : Tile) (va n : Nat) (wr : Bool) : Except (Nat × Nat) (List Nat) × State :=
  let p0 := va / 0x200000
  (List.range ((va + 64 * n - 1) / 0x200000 - p0 + 1)).foldl (fun acc i =>
    match acc with
    | (.error f, s) => (.error f, s)
    | (.ok l, s) =>
      let a := max va ((p0 + i) * 0x200000)
      match xlate s t .eng a wr with
      | (.ok d, s1) => (.ok (l ++ [d / 0x200000 * 0x200000]), s1)
      | (.error c, s1) => (.error (c, a), s1)) (.ok [], s)

/-- Translate every operand: sources before the destination. -/
def engXlate (s : State) (t : Tile) (e : BitVec 128) :
    Except (Nat × Nat × Bool) (List Nat × List Nat × List Nat) × State :=
  let rx := if eUsesX e then xlRange s t (eX e).toNat (eLen e) false else (.ok [], s)
  match rx with
  | (.error (c, a), s1) => (.error (c, a, false), s1)
  | (.ok xs, s1) =>
    let ry := if eUsesY e then xlRange s1 t (eY e).toNat (eLen e) false else (.ok [], s1)
    match ry with
    | (.error (c, a), s2) => (.error (c, a, false), s2)
    | (.ok ys, s2) =>
      match xlRange s2 t (eZ e) (eZlen e) (eWrites e) with
      | (.error (c, a), s3) => (.error (c, a, eWrites e), s3)
      | (.ok zs, s3) => (.ok (zs, xs, ys), s3)

/-- The bank of tile t's home well that all pages lie in: every page in one bank, or none. -/
def oneBank (t : Tile) (l : List Nat) : Option Nat :=
  let b := l.map fun d => match placeOf d with
    | .well w o => if w = t then some (o / 0x1000000) else none
    | _ => none
  match b with
  | some x :: _ => if b.all (· == some x) then some x else none
  | _ => none

/-- A page of the tile's home well is twinned. -/
def pageTwinned (s : State) (t : Tile) (d : Nat) : Bool := (twinOf s t (d % wellSize)).isSome

/-- Some store of the tile to a bank of its home well has not drained, twin mirror included. -/
def bankStores (s : State) (t : Tile) (bank : Nat) : Bool :=
  (s.mem t).sb.any fun e => match placeOf (e.granule * 64) with
    | .well w o => w == t && o / 0x1000000 == bank
    | _ => false

/-- Key of a bank of a tile's home well. -/
def bankKey (s : State) (t : Tile) (b : Nat) : Nat := homeShaft s t * 32 + b

/-- The bank a command works on. -/
def cmdBank (c : EngCmd) : Nat := c.z.headD 0 % wellSize / 0x1000000

/-- Home-well offset of granule i of an operand at va whose pages are l. -/
def opOff (l : List Nat) (va i : Nat) : Nat :=
  let a := va + 64 * i
  l.getD (a / 0x200000 - va / 0x200000) 0 + a % 0x200000

/-- The twin of a command's z: the entry and the tile on whose bank it runs as well (R153). -/
def cmdTwin (s : State) (t : Tile) (c : EngCmd) : Option (Nat × Tile) := twinOf s t (opOff c.z (eZ c.entry) 0)

/-- Pass entries of the controller queue to their bank queues, strictly in order (R151). -/
def engPump (s : State) (t : Tile) : State :=
  s.each (s.mem t).engQ fun s _ =>
    match (s.mem t).engQ with
    | [] => s
    | c :: rest =>
      let k := bankKey s t (cmdBank c)
      if (s.bank k).queue.length < 4 then
        (s.modMem t fun m => { m with engQ := rest }).modBank k fun b => { b with queue := b.queue ++ [c] }
      else s

/-- A bank's share of a scrub of granules a … a + n − 1: its first granule and count. -/
def scrubShare (a n b : Nat) : Option (Nat × Nat) :=
  let lo := max a (b * 262144)
  let hi := min (a + n) ((b + 1) * 262144)
  if lo < hi then some (lo, hi - lo) else none

/-- The WSCRUB command of one bank's share. -/
def scrubCmd (t : Tile) (lo n ord : Nat) : EngCmd :=
  let va := lo * 64
  { entry := BitVec.ofNat 128 (8 + lo * 2 ^ 16 + n * 2 ^ 96), tile := t
    z := (List.range ((va + 64 * n - 1) / 0x200000 - va / 0x200000 + 1)).map fun i => (va / 0x200000 + i) * 0x200000
    x := [], y := [], list := none, scrub := true, ord := ord }

/-- Pass the WSCRUB commands of the scrub in progress to the banks whose queue of 4 has room (R148, R159). -/
def scrubFeed (s : State) (t : Tile) : State :=
  match (s.mem t).scrub with
  | none => s
  | some x =>
    s.each x.todo fun s b =>
      match scrubShare x.start x.len b.val with
      | none => s
      | some (lo, n) =>
        let k := bankKey s t b.val
        if (s.bank k).queue.length < 4 then
          let (o, s1) := nextLaunch s t
          (s1.modBank k fun q => { q with queue := q.queue ++ [scrubCmd t lo n o] }).modMem t fun m =>
            { m with scrub := m.scrub.map fun y => { y with todo := y.todo.filter (· != b) } }
        else s

/-- Put a command into the controller queue. -/
def engPush (s : State) (t : Tile) (c : Nat → EngCmd) : State :=
  let (o, s1) := nextLaunch s t
  engPump (s1.modMem t fun m => { m with engQ := m.engQ ++ [c o] }) t

/-- Reject an entry (R150): the reason of the first rejection since the last read is kept. -/
def engReject (s : State) (t : Tile) (n : Nat) : State :=
  let a := tilePage t 9 + 0x070
  let s1 := setEvt s (tilePage t 9) 1
  if fld (s1.reg a) 0 4 = 0 then s1.setReg a (BitVec.ofNat 32 n) else s1

/-- Check an entry and accept it, in the order of R150. It waits while the controller queue is full, or while an older
store to its bank has not drained. -/
def engSubmit (s : State) (t : Tile) (e : BitVec 128) (list : Option Chan) : EngAcc × State :=
  match eReason e with
  | some n => (.reject, engReject s t n)
  | none =>
    match engXlate s t e with
    | (.error (c, a, side), s1) => (.fault c a side, s1)
    | (.ok (zs, xs, ys), s1) =>
      match oneBank t (zs ++ xs ++ ys) with
      | none => (.reject, engReject s1 t 3)
      | some b =>
        if eWrites e && zs.any (pageTwinned s1 t) && !(xs ++ ys).all (pageTwinned s1 t) then (.reject, engReject s1 t 4)
        else if eWrites e && guardHit s1 t (eZ e) (64 * eZlen e) then (.guard, guardTake s1 t)
        else if 16 ≤ (s1.mem t).engQ.length || bankStores s1 t b then (.wait, s1)
        else
          (.queued, engPush s1 t fun o =>
            { entry := e, tile := t, z := zs.map (· % wellSize), x := xs.map (· % wellSize), y := ys.map (· % wellSize)
              list := list, scrub := false, ord := o })

/-! ## Execution (R148, R154) -/

/-- Elements of width w of a granule. -/
def granElems (d : Line) (w : Nat) : List Nat := (List.range (512 / w)).map fun i => nbits d.toNat (w * i) w

/-- A granule of elements. -/
def elemsGran (w : Nat) (l : List Nat) : Line := BitVec.ofNat 512 (l.foldr (fun x acc => x % 2 ^ w + 2 ^ w * acc) 0)

/-- An element as binary32 (R94). -/
def toF32 (code x : Nat) : Nat :=
  match ffmtOf code with
  | some f => (f32.ofVal 0 true f.mb (f.dec x)).1
  | none => x

/-- A binary32 result in a format: to nearest, saturating, subnormals kept (R148). -/
def fromF32 (code w : Nat) : Nat :=
  match ffmtOf code with
  | some f => (f.ofVal 0 true 23 (f32.dec w)).1
  | none => w

/-- Exact sum of decoded values; infinities of opposite sign give NaN. -/
def addVal (a b : FVal) : FVal :=
  match a, b with
  | .nan s p, _ => .nan s p
  | _, .nan s p => .nan s p
  | .inf s, .inf s' => if s = s' then .inf s else .nan false (2 ^ 22)
  | .inf s, _ => .inf s
  | _, .inf s => .inf s
  | .fin s m e, .fin s' m' e' =>
    let x := addExact (signed s m) e (signed s' m') e'
    .fin (if x.1 = 0 then s && s' else decide (x.1 < 0)) x.1.natAbs x.2

/-- Round an exact value to binary32. -/
def rnd32 (v : FVal) : Nat := (f32.ofVal 0 true 23 v).1

def add32 (a b : Nat) : Nat := rnd32 (addVal (f32.dec a) (f32.dec b))
def mul32 (a b : Nat) : Nat := rnd32 (mulVal (f32.dec a) (f32.dec b))
/-- a × b + c with one rounding. -/
def fma32 (a b c : Nat) : Nat := rnd32 (addVal (mulVal (f32.dec a) (f32.dec b)) (f32.dec c))

/-- Poison a granule of a home well and, where it is twinned, of the twin (R154). -/
def poisonAt (s : State) (t : Tile) (o : Nat) : State :=
  let s1 := poisonGran s (wellGran (homeShaft s t) o)
  match twinOf s1 t o with
  | some (_, t') => poisonGran s1 (wellGran (homeShaft s1 t') o)
  | none => s1

/-- What an engine accumulates over its granules: the first uncorrectable operand, and the reduction's lanes. -/
structure EngAccum where
  bad : Option Nat
  lanes : List (Option Nat)
  deriving DecidableEq, Repr

/-- Note an uncorrectable operand. -/
def EngAccum.note (a : EngAccum) (o : Nat) : EngAccum := { a with bad := some (a.bad.getD o) }

/-- Read a granule of an operand. -/
def engRead (s : State) (t : Tile) (a : EngAccum) (o : Nat) : Option Line × State × EngAccum :=
  match wellRead s t o with
  | (some d, s1) => (some d, s1, a)
  | (none, s1) => (none, s1, a.note o)

/-- Write a result granule, or poison it where an operand was lost. -/
def engPut (s : State) (t : Tile) (o : Nat) (d : Option Line) : State :=
  match d with
  | some d => wellWrite2 s t o d fullMask (tilePage t 9)
  | none => poisonAt s t o

/-- Add a granule to the lanes of a reduction: lane j takes x[j + 16i] in order of i. -/
def reduceInto (lanes : List (Option Nat)) (xs : List Nat) (first : Nat) : List (Option Nat) :=
  (xs.zipIdx).foldl (fun l (x, k) =>
    let j := (first + k) % 16
    l.set j (some (match l.getD j none with | some a => add32 a x | none => x))) lanes

/-- Granule i of a weight load, in the engine of the command's bank and, for a twinned command, in that of the twin's bank
(R153). -/
def wbufPut (s : State) (t : Tile) (c : EngCmd) (i v : Nat) : State :=
  let put := fun (b : EngBank) => { b with wbuf := Mem.writeLe b.wbuf (64 * i) 64 v }
  let s1 := s.modBank (bankKey s t (cmdBank c)) put
  match cmdTwin s t c with
  | some x => if fieldDark s (tileField x.2) then breakTwin s1 t x.1 else s1.modBank (bankKey s1 x.2 (cmdBank c)) put
  | none => s1

/-- One granule of a command that works granule by granule; answers the state and what is accumulated. -/
def engGran (t : Tile) (c : EngCmd) (x : State × EngAccum) (i : Nat) : State × EngAccum :=
  let e := c.entry
  let f := eFmt e
  let w := fmtWidth f
  let zo := opOff c.z (eZ e) i
  let rx := engRead x.1 t x.2 (opOff c.x (eX e).toNat i)
  match eOp e with
  | 1 =>
    let ry := engRead rx.2.1 t rx.2.2 (opOff c.y (eY e).toNat i)
    let r := match rx.1, ry.1 with
      | some a, some b => some (elemsGran w (((granElems a w).zip (granElems b w)).map fun p =>
          fromF32 f (add32 (toF32 f p.1) (toF32 f p.2))))
      | _, _ => none
    (engPut ry.2.1 t zo r, ry.2.2)
  | 2 => (engPut rx.2.1 t zo (rx.1.map fun a =>
      elemsGran w ((granElems a w).map fun p => fromF32 f (mul32 (eS e) (toF32 f p)))), rx.2.2)
  | 3 =>
    let rz := engRead rx.2.1 t rx.2.2 zo
    let r := match rx.1, rz.1 with
      | some a, some b => some (elemsGran w (((granElems a w).zip (granElems b w)).map fun p =>
          fromF32 f (fma32 (eS e) (toF32 f p.1) (toF32 f p.2))))
      | _, _ => none
    (engPut rz.2.1 t zo r, rz.2.2)
  | 4 => (rx.2.1, match rx.1 with
      | some a => { rx.2.2 with lanes := reduceInto rx.2.2.lanes ((granElems a w).map (toF32 f)) (i * (512 / w)) }
      | none => rx.2.2)
  | 5 => (engPut x.1 t zo (some (elemsGran 32 (List.replicate 16 (eK e)))), x.2)
  | 6 =>
    if eWbuf e then
      match rx.1 with
      | some a => (wbufPut rx.2.1 t c i (leNat (lineBytes a)), rx.2.2)
      | none => let (n, s1) := rx.2.1.fresh; (wbufPut s1 t c i (Config.freeBits n).toNat, rx.2.2)
    else (engPut rx.2.1 t zo rx.1, rx.2.2)
  | _ => x

/-- One row of a WXPND (R158). Bytes of the output pitch beyond the row are free (log 27). -/
def expandRow (t : Tile) (c : EngCmd) (x : State × EngAccum) (i : Nat) : State × EngAccum :=
  let e := c.entry
  let w := fmtWidth (eFmt e)
  let wo := fmtWidth (eOfmt e)
  let pitch := ceilDiv (eD e * wo) 512 * 64
  let row := (List.range (eRowG e)).foldl (fun (acc : Option (List Nat) × State × EngAccum) g =>
    let r := engRead acc.2.1 t acc.2.2 (opOff c.z (eZ e) (i * eRowG e + g))
    (match acc.1, r.1 with | some l, some d => some (l ++ granElems d w) | _, _ => none, r.2)) (some [], x)
  let s := row.2.1
  let dst := (xpndRange e).1 + i * pitch
  let s := if hasSlot s t 7 then s else breach s t 1
  if cistSize < dst + pitch then (unmapped s (0x080000000000 + t.val * 0x400000 + dst) (.tile t), row.2.2)
  else match row.1 with
    | none =>
      (s.modMem t fun m => { m with cistUe := (quartersOf dst pitch).foldl insertNat m.cistUe }, row.2.2)
    | some l =>
      let wb := (s.bank (bankKey s t (cmdBank c))).wbuf
      let out := (List.range (eD e)).map fun j =>
        fromF32 (eOfmt e) ((List.range (eR e)).foldl (fun acc k =>
          fma32 (toF32 (eFmt e) (l.getD k 0)) (toF32 (eFmt e) (packed wb 0 w (k * eD e + j))) acc) 0)
      let (n, s1) := s.fresh
      let bs := packBytes wo out
      (cistWrite s1 t mcRemote dst (bs ++ toLe (pitch - bs.length) (Config.freeBits n).toNat), row.2.2)

/-- The scrub of the granule's twin, on which the command runs as well (R153): a corrected granule is written back. -/
def scrubTwin (s : State) (t : Tile) (o : Nat) : State :=
  match twinOf s t o with
  | none => s
  | some (e, t') =>
    if fieldDark s (tileField t') then breakTwin s t e
    else
      let g := wellGran (homeShaft s t') o
      if s.wellUe.contains g then wellUeRec s t' o
      else if SMap.get zeroN s.wellCe g = 0 then s
      else freshGran (wellCeMet s t' o) g

/-- One granule of a scrub: a corrected granule is written back; an uncorrectable one is repaired from its twin or left
(R159). Counts in the scrub in progress where the command belongs to it. -/
def scrubGran (t : Tile) (c : EngCmd) (s : State) (i : Nat) : State :=
  let o := opOff c.z (eZ c.entry) i
  let g := wellGran (homeShaft s t) o
  let ce := SMap.get zeroN s.wellCe g != 0 && !s.wellUe.contains g
  let r := wellRead s t o
  let s1 := scrubTwin (if ce then freshGran r.2 g else r.2) t o
  if c.scrub then s1.modMem t fun m => { m with scrub := m.scrub.map fun x =>
    { x with ce := x.ce + (if ce then 1 else 0), ue := x.ue + (if r.1.isNone then 1 else 0)
             first := if r.1.isNone then some (match x.first with | some y => min y (o / 64) | none => o / 64) else x.first } }
  else s1

/-- Units a command works through one by one: rows of a WXPND, granules of the others. -/
def engUnits (c : EngCmd) : Nat := eLen c.entry

/-- Do the first n units of a command. -/
def engPart (s : State) (t : Tile) (c : EngCmd) (n : Nat) : State × EngAccum :=
  let x0 : State × EngAccum := (s, { bad := none, lanes := List.replicate 16 none })
  match eOp c.entry with
  | 7 => (List.range n).foldl (expandRow t c) x0
  | 8 => ((List.range n).foldl (scrubGran t c) s, x0.2)
  | _ => (List.range n).foldl (engGran t c) x0

/-- A weight load longer than the 64 KiB weight buffer leaves its contents open (log 27). -/
def freeWbuf (s : State) (k : Nat) : State :=
  s.each (List.range 256) fun s i =>
    let (n, s1) := s.fresh
    s1.modBank k fun b => { b with wbuf := Mem.writeLe (b.wbuf.filter (·.1 < 65536)) (256 * i) 256 (Config.freeBits n).toNat }

/-- The whole effect of a command: the state, and the offset of the first operand lost (R154). -/
def engRun (s : State) (t : Tile) (c : EngCmd) : State × Option Nat :=
  let r := engPart s t c (engUnits c)
  let s1 := if eOp c.entry = 4 then
      engPut r.1 t (opOff c.z (eZ c.entry) 0)
        (if r.2.bad.isSome then none else some (elemsGran 32 (r.2.lanes.map (·.getD 0))))
    else if eOp c.entry = 6 ∧ eWbuf c.entry ∧ 1024 < eLen c.entry then freeWbuf r.1 (bankKey r.1 t (cmdBank c))
    else r.1
  (s1, if eOp c.entry = 8 then none else r.2.bad)

/-- A discarded command in execution: the granules it has begun, of which the manual gives no number, are written whole
(R155, log 19). A reduction writes one granule at its end, begun or not. -/
def engDiscard (s : State) (c : EngCmd) : State :=
  let (n, s1) := s.fresh
  let k := Config.freeNat n % (engUnits c + 1)
  if eOp c.entry = 4 then (if k = engUnits c then (engRun s1 c.tile c).1 else s1) else (engPart s1 c.tile c k).1

/-- The summary of a scrub (R159). -/
def scrubSummary (s : State) (t : Tile) (x : ScrubSt) : State :=
  let p := tilePage t 9
  let s1 := (s.setReg (p + 0x07C) (BitVec.ofNat 32 x.ce)).setReg (p + 0x080) (BitVec.ofNat 32 x.ue)
  let s2 := s1.setReg (p + 0x084) (match x.first with | some g => BitVec.ofNat 32 (0x80000000 + g) | none => 0)
  let s3 := s2.setReg (p + 0x088) (BitVec.ofNat 32 (ceilDiv (tcyc s t - x.at0) 1024))
  setEvt (s3.modMem t fun m => { m with scrub := none }) p 5

/-- The scrub in progress ends early, with a summary of the granules scrubbed so far (R159). -/
def scrubEnd (s : State) (t : Tile) : State :=
  match (s.mem t).scrub with
  | some x => scrubSummary s t x
  | none => s

/-! ## Exclusion (R161) -/

/-- Exclusion depth of quadrant q over a shaft. -/
def exclDepth (s : State) (shaft q : Nat) : Nat :=
  match shaftField shaft with
  | some f => SMap.get zeroN (s.fld f).texcl (shaftPlace shaft * 4 + q)
  | none => 0

/-- The bank of a key is excluded: its layer is among those of the depth of its quadrant. -/
def bankExcluded (s : State) (key : Nat) : Bool :=
  let b := key % 32
  decide (4 ≤ b / 8 + exclDepth s (key / 32) (b % 8 / 2))

end Sys2Proof.Machine
end

