-- ==== Sys2Proof/Machine/DmaChan.lean ====
section
/-!
DEFINITION. A DMA channel's registers and record (R123, R132, R137), the abort of Table 5.8, and the wait for a full store
buffer (R56).
-/

namespace Sys2Proof.Machine

/-! ## Channel registers and records -/

def dmaPage (t : Tile) (ch : Chan) : Nat := tilePage t (5 + ch.val)
def State.dma (s : State) (t : Tile) (ch : Chan) : DmaChan := (s.mem t).chan ch
def State.modDma (s : State) (t : Tile) (ch : Chan) (f : DmaChan → DmaChan) : State := s.modMem t (·.modChan ch f)
def setDmaState (s : State) (t : Tile) (ch : Chan) (n : Nat) : State :=
  s.modReg (dmaSts t ch) fun w => setFld w 0 (BitVec.ofNat 3 n)

def tag0 (_ : Nat) : BitVec 2 := 0

/-- Give the outcome of a descriptor to its tag (R123). -/
def endTag (s : State) (t : Tile) (ch : Chan) (tag : BitVec 8) (st : BitVec 2) : State :=
  s.modDma t ch fun c => { c with tags := SMap.set tag0 c.tags tag.toNat st, lastEnded := st }

/-- The progress word (Table 5.7). -/
def progWord (done : Nat) (tag : BitVec 8) (state : Nat) (side : Bool) (cause : Nat) : Nat :=
  done % 2 ^ 32 + tag.toNat * 2 ^ 32 + state * 2 ^ 40 + (if side then 2 ^ 43 else 0) + cause * 2 ^ 44

/-- Write the progress word into the descriptor and into DMA_PROG (R132). -/
def putProg (s : State) (t : Tile) (ch : Chan) (d : DmaDesc) (w : Nat) : State :=
  cistWrite ((s.setReg (dmaPage t ch + 0x048) (BitVec.ofNat 32 w)).setReg (dmaPage t ch + 0x04C) (BitVec.ofNat 32 (w / 2 ^ 32)))
    t (mcDma ch) (d.off + 56) (toLe 8 w)

/-- Record a faulting or failing address. -/
def putFaddr (s : State) (t : Tile) (ch : Chan) (a : Nat) : State :=
  (s.setReg (dmaPage t ch + 0x050) (BitVec.ofNat 32 a)).setReg (dmaPage t ch + 0x054) (BitVec.ofNat 32 (a / 2 ^ 32 % 2 ^ 16))

/-! ## The wait for the store buffer (R56) -/

/-- The channel stands at a full store buffer: the FCLK cycle from which its stall is still to be counted is noted. -/
def sbStall (s : State) (t : Tile) (ch : Chan) : State :=
  s.modDma t ch fun c => { c with sbWait := some (s.cyc (tileField t)) }

/-- The cycles a channel has stood at a full store buffer count in CTR[5] (R56). -/
def sbStallCount (s : State) (t : Tile) (ch : Chan) : State :=
  match (s.dma t ch).sbWait with
  | some c => countCtr (s.modDma t ch fun x => { x with sbWait := none }) t 5 (s.cyc (tileField t) - c)
  | none => s

/-! ## Abort (Table 5.8) -/

/-- Abort: progress word with state 5, the queue discarded, every outstanding tag at status 3. -/
def dmaAbort (s : State) (t : Tile) (ch : Chan) : State :=
  let c := s.dma t ch
  match c.queue with
  | [] => s
  | d :: _ =>
    let s := sbStallCount s t ch
    let s1 := putProg s t ch d (progWord (if c.started then c.done else 0) d.tag 5 false 0)
    let l := if 3 ≤ dmaState s t ch then c.queue.drop 1 else c.queue
    let s2 := s1.each l fun s d => endTag s t ch d.tag 3
    (setDmaState s2 t ch 0).modDma t ch fun c => { c with queue := [], started := false, done := 0, lastEnded := 3, buf := [] }

end Sys2Proof.Machine
end

