-- ==== Sys2Proof/Machine/Hub.lean ====
section
/-!
DEFINITION. Completion queues of a partition (R249, R251) and what is posted there (R52, R252).
-/

namespace Sys2Proof.Machine

/-- Address of a register of queue pair q (R260). -/
def qpReg (p : Part) (q : Fin 64) (o : Nat) : Nat := partPage p (8 + q.val) + o

/-- Entries of a completion queue, 2^cq_log. -/
def cqSize (s : State) (p : Part) (q : Fin 64) : Nat := 2 ^ (fld (s.reg (qpReg p q 0x040)) 3 4).toNat

/-- Host port of a queue pair. -/
def qpPort (s : State) (p : Part) (q : Fin 64) : HostPort :=
  let h := fld (s.reg (qpReg p q 0x040)) 1 2
  ⟨h.toNat, h.isLt⟩

/-- The completion queue is full: tail + 1 = head, as R249 states it for the submission queue (log 18). -/
def cqFull (s : State) (p : Part) (q : Fin 64) : Bool :=
  decide ((((s.prt p).qp q).cqTail + 1) % cqSize s p q
    = (fld (s.reg (qpReg p q 0x050)) 0 12).toNat % cqSize s p q)

/-- The two words of a completion entry (R251): SQ head, command ID, status, phase; result. -/
def cqEntry (head : BitVec 6) (c : Completion) (phase : Bool) : BitVec 128 :=
  BitVec.ofNat 128 (head.toNat + c.cid.toNat * 2 ^ 16 + c.status.toNat * 2 ^ 32 + (if phase then 2 ^ 40 else 0)
    + c.result.toNat * 2 ^ 64)

/-- Write the oldest held completion of a pair, where the link is up and the queue has room. -/
def cqPostOne (s : State) (p : Part) (q : Fin 64) : State :=
  let r := (s.prt p).qp q
  match r.held with
  | [] => s
  | c :: rest =>
    let h := qpPort s p q
    if s.hub.linkUp.getLsbD h.val && !cqFull s p q then
      let base := (s.reg (qpReg p q 0x044)).toNat + (s.reg (qpReg p q 0x048)).toNat * 2 ^ 32
      let idx := r.cqTail % cqSize s p q
      let s1 := s.emit (.host h (.cq (base + 16 * idx) (cqEntry (fld (s.reg (qpReg p q 0x054)) 0 6) c r.phase)))
      let nxt := (idx + 1) % cqSize s p q
      let s2 := s1.modPart p (·.modQp q fun r =>
        { r with held := rest, cqTail := nxt, phase := if nxt = 0 then !r.phase else r.phase })
      sendMsix s2 (some p) h (BitVec.ofNat 11 q.val)
    else s

/-- Write every held completion that can be written, in order. -/
def cqFlush (s : State) (p : Part) (q : Fin 64) : State :=
  s.each ((s.prt p).qp q).held fun s _ => cqPostOne s p q

/-- Post a completion; it is held while the queue is full or the link is down, and nothing is lost (R245, R251). -/
def postCq (s : State) (p : Part) (q : Fin 64) (cid : BitVec 16) (status : Nat) (result : Nat) : State :=
  cqFlush (s.modPart p (·.modQp q fun r =>
    { r with held := r.held ++ [{ cid := cid, status := BitVec.ofNat 8 status, result := BitVec.ofNat 64 result }] })) p q

/-- An SQ entry completes: its completion is posted and the entry is no longer busy. -/
def sqDone (s : State) (p : Part) (q : Nat) (cid : BitVec 16) (status : Nat) (result : Nat) : State :=
  if h : q < 64 then
    postCq (s.modPart p (·.modQp ⟨q, h⟩ fun r => { r with busy := r.busy.erase cid })) p ⟨q, h⟩ cid status result
  else s

/-- Release the held tile posts at a commit (R50, R252). -/
def releasePosts (s : State) (p : Part) : State :=
  let l := (s.prt p).posts
  (s.modPart p fun x => { x with posts := [] }).each l fun s c =>
    if h : c.q < 64 then postCq s p ⟨c.q, h⟩ c.cid 0 c.value.toNat else s

end Sys2Proof.Machine
end

