-- ==== Sys2Proof/Machine/Remap.lean ====
section
/-!
DEFINITION. A write of FLD_REMAP moves logical tiles over the physical tiles, which keep their state (R14, R15).
-/

namespace Sys2Proof.Machine

/-- Key of the core that no logical tile of a segment carries. -/
def spareKey (f : Field) (seg : Nat) : Nat := f.val * 8 + seg

/-- The core of the physical tile at position j of a segment. -/
def physCore (s : State) (f : Field) (seg j : Nat) : TileCore :=
  match tileAbove s (shaftNo f seg j) with
  | some t => s.core t
  | none => SMap.get coreD s.spares (spareKey f seg)

/-- Put cores at the positions of a segment under the present FLD_REMAP. Step parity stays with the logical tile. -/
def putCores (s : State) (f : Field) (seg : Nat) (l : List TileCore) : State :=
  (List.range 12).foldl (fun s j =>
    let c := l.getD j TileCore.reset
    match tileAbove s (shaftNo f seg j) with
    | some t => s.setCore t { c with seq := { c.seq with parity := (s.seq t).parity } }
    | none => { s with spares := SMap.set coreD s.spares (spareKey f seg) c }) s

/-- Write FLD_REMAP: the physical tiles keep their state, and the logical tiles move (R15). -/
def remapOp (s : State) (f : Field) (v : Word) : State :=
  let old := s.reg (fldRemap f)
  let segs := (List.range 8).filter fun g => segVal old g != segVal v g
  let cores := segs.map fun g => (g, (List.range 12).map (physCore s f g))
  (s.setReg (fldRemap f) v).each cores fun s e => putCores s f e.1 e.2

/-- One segment of FLD_REMAP written. -/
def remapSeg (s : State) (f : Field) (seg x : Nat) : State :=
  remapOp s f (setFld (s.reg (fldRemap f)) (4 * seg) (BitVec.ofNat 4 x))

/-- Link in progress of a decant, forward or reverse (FLD_DECANT, R328, R334). -/
def putDecant (s : State) (f : Field) (seg next : Nat) (active reverse : Bool) : State :=
  s.setReg (fldDecant f) (BitVec.ofNat 32 (seg + next * 8 + (if active then 128 else 0) + if reverse then 256 else 0))

/-- Begin the decant of a segment whose maps differ. A failed position 11 moves no well. -/
def beginDecant (s : State) (f : Field) (seg : Nat) : State :=
  let x := segVal (s.reg (fldRemap f)) seg
  let w := segVal (s.reg (fldWmap f)) seg
  if x = 15 ∧ w < 11 then putDecant s f seg w true true
  else if x < 11 then putDecant s f seg 10 true false
  else s.modReg (fldWmap f) fun v => setFld v (4 * seg) (BitVec.ofNat 4 x)

/-- One decant runs per field at a time; further segments wait in ascending row order (R330). -/
def nextDecant (s : State) (f : Field) : State :=
  if s.rbit (fldDecant f) 7 then s
  else
    match (List.range 8).find? fun g => segVal (s.reg (fldRemap f)) g != segVal (s.reg (fldWmap f)) g with
    | some g => beginDecant s f g
    | none => s

end Sys2Proof.Machine
end

