-- ==== Sys2Proof/Machine/Image.lean ====
section
/-!
DEFINITION. Weirs (R200 … R205), and the running of a step image: start (R41), commit (R50), hold and replay (R53),
end (R55).
-/

namespace Sys2Proof.Machine

/-! ## Weir map (R201) -/

/-- Word w of weir map entry h (R217). -/
def weirEnt (p : Part) (h w : Nat) : Nat := partPage p (2 + h / 256) + 0x040 + h % 256 * 8 + 4 * w

/-- The weir a valid handle names. -/
def weirId (s : State) (p : Part) (h : Nat) : Option Nat :=
  let w := s.reg (weirEnt p h 0)
  if bit w 31 then some (fld w 0 14).toNat else none

/-- Every valid handle of a partition with its weir. -/
def mappedHandles (s : State) (p : Part) : List (Nat × Nat) :=
  s.regs.filterMap fun e =>
    let b := partPage p 2 + 0x040
    if partPage p 2 ≤ e.1 ∧ e.1 < partPage p 6 ∧ 0x040 ≤ e.1 % 4096 ∧ (e.1 - b) % 8 = 0 ∧ bit e.2 31 then
      some ((e.1 - partPage p 2) / 4096 * 256 + (e.1 % 4096 - 0x040) / 8, (fld e.2 0 14).toNat)
    else none

/-- The field of a field weir (R200). -/
def weirField (w : Nat) : Option Nat := if w < 12288 then some (w / 256) else none

/-- May entry h of the map hold this ID and threshold (R201)? -/
def weirEntryOk (s : State) (p : Part) (h : Nat) (w0 w1 : Word) : Bool :=
  let id := (fld w0 0 14).toNat
  !bit w0 31 ||
    (w1 != 0
      && (match (s.weir id).owner with | some q => q == p || decide (pstate s q = 0) | none => true)
      && (match weirField id with | some f => (partFields s p).any (·.val == f) | none => true)
      && !(mappedHandles s p).any fun e => e.1 != h && e.2 == id)

/-- Put a map entry, and give its weir the threshold and the owner (R194, R201). -/
def weirEntryPut (s : State) (p : Part) (h : Nat) (w0 w1 : Word) : State :=
  let s0 := match weirId s p h with
    | some id => if (s.weir id).owner == some p then s.modWeir id fun w => { w with owner := none } else s
    | none => s
  let s1 := (s0.setReg (weirEnt p h 0) w0).setReg (weirEnt p h 1) w1
  if bit w0 31 then s1.modWeir (fld w0 0 14).toNat fun w => { w with owner := some p, thr := w1 } else s1

/-- The weir a tile's instruction names: none for an invalid handle or another field's weir (R202). -/
def weirFor (s : State) (t : Tile) (h : Nat) : Option (Part × Nat) :=
  (partOf s t).bind fun p => (weirId s p h).bind fun id =>
    match weirField id with
    | some f => if f = (tileField t).val then some (p, id) else none
    | none => some (p, id)

/-- Ports of a partition (R194). -/
def partPorts (s : State) (p : Part) : List Port := (List.finRange 24).filter fun y => (partFields s p).contains (portField y)

/-! ## Geometry (R315) -/

/-- A logical tile is unavailable: its physical tile has failed, or its field is dark (R314, R331). -/
def unavailable (s : State) (t : Tile) : Bool :=
  fieldDark s (tileField t) || s.svc.failed.contains (tileShaft s t)

/-- Geometry ID of a list of tiles by index (R315). -/
def geomCrc (l : List (Nat × Tile)) (bad : Tile → Bool) : Word :=
  crc32 ((l.filter fun e => bad e.2).flatMap fun e => toLe 4 e.1)

/-- Present geometry ID of a partition, over local indices. -/
def partGeom (s : State) (p : Part) : Word := geomCrc ((partTiles s p).zipIdx.map fun e => (e.2, e.1)) (unavailable s)

/-! ## Availability (R338) -/

/-- Charge unplanned unavailability, in ns. -/
def charge (s : State) (ns : Nat) : State := s.modSvc fun v => { v with unav := v.unav + ns }

/-- A loss is charged from now until the partition next runs. -/
def lossBegins (s : State) (p : Part) : State :=
  s.modPart p fun x => { x with lossAt := some (x.lossAt.getD s.tsclk) }

/-- The partition runs again. -/
def lossEnds (s : State) (p : Part) : State :=
  match (s.prt p).lossAt with
  | some a => (charge s (s.tsclk - a)).modPart p fun x => { x with lossAt := none }
  | none => s

/-! ## Loading a step -/

/-- Fill a half with the code of step n; the bytes of a code range lie in the wells, and the fill
is one of R46. -/
def loadCode (s : State) (b : ImageBody) (t : Tile) (h : Bool) (n : Nat) : State :=
  match b.code.find? fun c => c.1 == t && c.2.1 == n with
  | some c => let s1 := fillHalf s t h c.2.2.toNat; countCtr s1 t 1 (fillUnsched s1 t c.2.2.toNat)
  | none => setHalf s t h .complete

/-- What a tile program gives for step n of a tile. -/
def stepEntry (l : List (Tile × Nat × Word)) (t : Tile) (n : Nat) : Option Word :=
  (l.find? fun e => e.1 == t && e.2.1 == n).map (·.2.2)

/-- STEP_LIMIT and the handler of step n (Table 2.4). -/
def loadLimit (s : State) (b : ImageBody) (t : Tile) (n : Nat) : State :=
  let s1 := match stepEntry b.stepLimit t n with
    | some l => s.setReg (stepLimit t) l
    | none => s
  match stepEntry b.tvec t n with
  | some v => s1.setReg (tvec t) (v &&& 0xFFFC)
  | none => s1

/-- Put a tile at the entry of its active half, ready to issue. -/
def enterTile (s : State) (t : Tile) : State :=
  let s1 := s.modSeq t fun q =>
    { q with pc := 0, stall := none, trap := false, unabsorbed := none, openAt := tcyc s t, lastIssue := tcyc s t }
  let s2 := s1.modReg (seqSts t) fun w => setBit (setBit w 0 false) 1 false
  s2.setRbit (ctrCtl t) 1 true

/-- Epochs of the partition's weirs as a step opens (R205). -/
def snapshotEpochs (s : State) (p : Part) : State :=
  let m := (mappedHandles s p).foldl (fun m e => SMap.set zero16 m e.1 (s.weir e.2).epoch) []
  s.modPart p fun x => { x with openEpochs := m, stepAt := s.tsclk }

/-! ## Stopping tiles -/

/-- The array gives up its queue and an unfinished shadow load; the B in use is then the last one loaded whole, active or in
the shadow (R65, log 94). -/
def ArrSt.discard (a : ArrSt) : ArrSt :=
  let whole := a.shadow.filter (·.img.isSome)
  let (sh, fmt) := match whole with
    | some x => (x.shape, x.fmt)
    | none => (a.b.shape, a.b.fmt)
  { a with queue := [], shadow := whole, curShape := sh, curFmt := fmt }

/-- B after a reset (R65): zero, FULL, FP4-E2M1, in both register sets. -/
def ArrSt.noB (a : ArrSt) : ArrSt :=
  { a with shadow := none, b := BImage.zero, other := [], curShape := .full, curFmt := 1, lastShape := none }

/-- Discard what the tile's channels and array queue hold (R136); the outcomes of descriptors that ended stay (R123). -/
def discardDma (s : State) (t : Tile) : State :=
  let idle := fun (s : State) (ch : Chan) =>
    (setDmaState s t ch 0).modDma t ch fun c => { c with queue := [], started := false, done := 0, buf := [], sbWait := none }
  (s.each (List.finRange 4) idle).modArr t ArrSt.discard

/-- Discard the tile's engine commands (R155); a scrub in progress ends (R159). -/
def discardEng (s : State) (t : Tile) : State :=
  let s1 := s.modMem t fun m => { m with engQ := [], engErr := false }
  scrubEnd (s1.each (List.range 32) fun s b =>
    let k := bankKey s t b
    let s2 := match (s.bank k).queue with
      | c :: _ => if (s.bank k).running && c.tile == t then engDiscard s c else s
      | [] => s
    s2.modBank k fun x =>
      { x with queue := x.queue.filter fun c => c.tile != t
               running := x.running && (match x.queue with | c :: _ => c.tile != t | [] => false) }) t

/-- Discard what the tile's channels, engines and array queue hold. -/
def discardWork (s : State) (t : Tile) : State := discardEng (discardDma s t) t

/-- Stop a tile. -/
def haltTile (s : State) (t : Tile) : State :=
  setHalted ((dropWaiter s t).modSeq t fun q => { q with stall := none, trap := false, stepArmed := false }) t true

/-- Stage 1 of Table 9.5 in one tile: it halts, its channels abort, its array queue and engine commands are discarded. -/
def stopTile (s : State) (t : Tile) : State :=
  let s1 := s.each (List.finRange 4) fun s ch => dmaAbort s t ch
  let s2 := s1.modArr t ArrSt.discard
  (discardEng (haltTile s2 t) t).modSeq t fun q => { q with unabsorbed := none }

/-! ## Releases and commits -/

/-- Handle of the closing weir of the running step. -/
def closingHandle (s : State) (p : Part) : Option Nat :=
  (s.prt p).image.bind fun r => (r.body.closing[r.committed]?).map (·.toNat)

/-- Weirs of a partition may release: not HELD or PREEMPTING (R205), and no tile holds an unabsorbed fault (R55). -/
def mayRelease (s : State) (p : Part) : Bool :=
  decide (pstate s p ≠ 3 ∧ pstate s p ≠ 4) && !(s.prt p).noRelease

/-- Free the tiles that wait at a weir: their WAIT has returned. -/
def freeWaiters (s : State) (id : Nat) : State :=
  let l := (s.weir id).waiters
  (s.modWeir id fun w => { w with waiters := [] }).each l fun s t =>
    match (s.seq t).stall with
    | some (.wait _ _ _) => boundary (advance (s.modSeq t fun q => { q with stall := none }) t) t
    | _ => s

/-- Enter step n at a commit (R36, R50): the halves swap, or the tile waits for its fill. -/
def enterStep (s : State) (b : ImageBody) (t : Tile) (n : Nat) : State :=
  let s1 := loadLimit (s.modSeq t fun q => { q with openAt := tcyc s t }) b t n
  let s2 := s1.setRbit (ctrCtl t) 1 true
  if nextReady s2 t then swapHalves (s2.modSeq t fun q => { q with stall := none }) t
  else stallOn s2 t (.ibufSwap t) (some 3)

/-- A cell row or a cistern quarter counts as repeated only within a step and its replay (R119, R323). -/
def forgetErrors (s : State) (t : Tile) : State :=
  (s.modArr t fun a => { a with erredRows := [] }).modMem t fun m => { m with erredQ := [] }

/-- What every tile does at the commit of a step (R50): STEP_NO and parity. -/
def commitTile (s : State) (t : Tile) : State :=
  forgetErrors ((setStepNo s t (stepNo s t + 1)).modSeq t fun q => { q with parity := !q.parity }) t

/-- Release what the ports and the hub held for the step (R50, R52, R236, R240). -/
def releaseHeld (s : State) (p : Part) : State :=
  (releasePosts s p).each (partPorts s p) fun s y =>
    s.modPort y fun u =>
      { u with
        ops := u.ops ++ u.heldAtomics, heldAtomics := []
        colRun := u.colRun.map fun c => { c with committed := true }
        colRetained := (u.colRetained.map fun c => { c with committed := true }).filter fun c => decide (c.peersDone < c.peersDue)
        sub0 := { u.sub0 with lost := false }
        sub1 := { u.sub1 with lost := false }
        sub2 := { u.sub2 with lost := false }
        sub3 := { u.sub3 with lost := false } }

/-- Discard what the ports and the hub held for a step (R52, R236). -/
def discardHeld (s : State) (p : Part) : State :=
  (s.modPart p fun x => { x with posts := [] }).each (partPorts s p) fun s y => s.modPort y fun u => { u with heldAtomics := [] }

/-- A step that is abandoned takes its operations and collectives with it: they are issued again (R236, R240, log 40). An
atomic that is queued or on its way was released by the commit of its step, and goes on. -/
def dropOps (s : State) (p : Part) : State :=
  let ts := partTiles s p
  let mine := fun (o : Yop) => ts.contains o.tile && nbits o.hdr.toNat 0 4 != 3
  s.each (partPorts s p) fun s y => s.modPort y fun u =>
    { u with
      ops := u.ops.filter fun o => !mine o
      fly := u.fly.filter fun o => !mine o
      colQ := u.colQ.filter fun c => !ts.contains c.tile
      colRun := u.colRun.filter fun c => !ts.contains c.tile
      colRetained := u.colRetained.filter (·.committed) }

/-- Discard all of it. -/
def discardAll (s : State) (p : Part) : State := dropOps (discardHeld s p) p

/-- A command of a partition completes (R197): cmd_done, PART_TIME, and the SQ entry that waits. -/
def cmdDone (s : State) (p : Part) : State :=
  match (s.prt p).job with
  | none => s
  | some j =>
    let ns := s.tsclk - j.at0
    let s1 := (setEvt s (partPage p 0) 0).setReg (partPage p 0 + 0x054) (BitVec.ofNat 32 ns)
    let s2 := s1.modPart p fun x => { x with job := none }
    s2.each j.sq fun s e => sqDone s p e.1 e.2 0 (ns % 2 ^ 32)

/-- The record of a partition is shown in PART_STS and PART_SAVE (R195, R217). -/
def putRecord (s : State) (p : Part) (r : SaveRec) : State :=
  let s1 := s.modPart p fun x => { x with record := some r }
  let s2 := s1.modReg (partSts p) fun w => setFld (setBit w 3 true) 4 r.kind
  (s2.setReg (partPage p 0 + 0x04C) (BitVec.ofNat 32 r.stepNo)).setReg (partPage p 0 + 0x050) (BitVec.ofNat 32 (r.stepNo / 2 ^ 32))

/-- Weir records with a count of 0 and the given epochs (Table 9.8, kinds 0 and 2). -/
def epochRecords (s : State) (p : Part) (epoch : Nat → Nat → BitVec 16) : List WeirRec :=
  (mappedHandles s p).map fun e =>
    { handle := e.1, id := e.2, thr := (s.weir e.2).thr, count := 0, epoch := epoch e.1 e.2, pend := false }

/-- The partition header of a save record. -/
def mkRecord (s : State) (p : Part) (kind : BitVec 2) (r : RunImage) (n : Nat) (ws : List WeirRec)
    (ts : List SavedTile) : SaveRec :=
  { kind := kind, img := r, stepNo := n, tblBase := s.reg (partPage p 1 + 0x040), tblLen := s.reg (partPage p 1 + 0x044),
    geometry := partGeom s p, weirs := ws, tiles := ts, opens := (s.prt p).openEpochs, replayed := (s.prt p).replayed
    posts := [], atomics := [] }

/-- No pre-emption waits any more. -/
def clearPend (s : State) (p : Part) : State :=
  (s.modPart p fun x => { x with pend := none }).setRbit (partSts p) 6 false

/-- The image leaves the partition: IDLE, every tile halted, its START completed. -/
def closeImage (s : State) (p : Part) (status result : Nat) : State :=
  match (s.prt p).image with
  | none => setPstate s p 1
  | some r =>
    let s1 := (setPstate s p 1).modPart p fun x => { x with image := none, replayed := false, noRelease := false }
    sqDone s1 p r.q r.cid status result

/-! ## Starting an image (R41) -/

/-- Write the weir assignments of an image into the map; the first handle whose entry R201 rejects stops it. -/
def applyWeirMap (s : State) (p : Part) : List (BitVec 10 × Word × Word) → Except Nat State
  | [] => .ok s
  | (h, w0, w1) :: r =>
    if weirEntryOk s p h.toNat w0 w1 then applyWeirMap (weirEntryPut s p h.toNat w0 w1) p r else .error h.toNat

/-- Put VSLOT[w] (R46): a code 0x9 … 0xF in any slot field drops the write whole; slot 63 stays 0x8. R46 both rejects
those codes and says that a value other than 0x8 for slot 63 is no rejection: that a code 0x9 … 0xF in slot 63 is a
rejection is the model's choice (DESIGN CHOICE, log 93). -/
def vslotPut (s : State) (t : Tile) (w : Fin 8) (v : Word) : State :=
  if (List.range 8).any fun i => decide (9 ≤ (fld v (4 * i) 4).toNat) then
    setEvt (countUe s (tilePage t 9) 1) (tilePage t 9) 10
  else s.setReg (tilePage t 9 + 0x040 + 4 * w.val) (if w = 7 then setFld v 28 (8 : BitVec 4) else v)

/-- Two ranges of units of 2 MiB overlap; an empty one overlaps none. -/
def overlaps (a n b k : Nat) : Bool := decide (0 < n ∧ 0 < k ∧ a < b + k ∧ b < a + n)

/-- A valid entry that a listed register is word 3 of: tile, entry, base, length and twin tile. -/
def twinEntryAt (s : State) (r : Nat × Word) : Option (Tile × Nat × Nat × Nat × Nat) :=
  let o := r.1 % 0x1000
  let e := (o - 0x09C) / 16
  match pageOf r.1 with
  | .tile t p =>
    if p = 9 ∧ 0x09C ≤ o ∧ (o - 0x09C) % 16 = 0 ∧ e < 8 ∧ bit r.2 0 then
      some (t, e, (fld (s.reg (twinWord t e 0)) 0 8).toNat, (fld (s.reg (twinWord t e 1)) 0 9).toNat,
        (fld (s.reg (twinWord t e 2)) 0 13).toNat)
    else none
  | _ => none

/-- Valid entries of every tile. -/
def twinEntries (s : State) : List (Tile × Nat × Nat × Nat × Nat) := s.regs.filterMap (twinEntryAt s)

/-- The cases of R145 in which entry e of tile t is rejected. -/
def twinBad (s : State) (t : Tile) (e b n w : Nat) : Bool :=
  if h : w < 4224 then
    let t' : Tile := ⟨w, h⟩
    tileField t' == tileField t || partOf s t' != partOf s t || decide (256 < b + n)
      || (twinEntries s).any fun (u, i, b', n', w') =>
        !(u == t && i == e) &&
          ((u == t && overlaps b n b' n') || (u == t' && overlaps b n b' n') || (w' == w && overlaps b n b' n'))
  else true

/-- An entry of tile t as state s1 would hold it: rejected where it is valid and one of the cases of R145 holds, which
leaves it as s has it, else in force. -/
def twinPut (s : State) (t : Tile) (e : Nat) (s1 : State) : State :=
  if !s1.rbit (twinWord t e 3) 0 then s1.modMem t fun x => { x with resync := removeNat x.resync e }
  else if twinBad s1 t e (fld (s1.reg (twinWord t e 0)) 0 8).toNat (fld (s1.reg (twinWord t e 1)) 0 9).toNat
      (fld (s1.reg (twinWord t e 2)) 0 13).toNat then setEvt s (tilePage t 9) 4
  else twinArm s1 t e

/-- Load what an image gives each tile for all its steps: slot table and twins, under the checks their registers make
(R46, R145, R331). -/
def applyTiles (s : State) (b : ImageBody) : State :=
  let s2 := s.each b.vslot fun s e => vslotPut s e.1 e.2.1 e.2.2
  s2.each b.twins fun s e =>
    twinPut s e.1 e.2.1.val
      ((((s.setReg (twinWord e.1 e.2.1.val 0) (e.2.2.1 &&& 0xFF)).setReg (twinWord e.1 e.2.1.val 1) (e.2.2.2.1 &&& 0x1FF)).setReg
        (twinWord e.1 e.2.1.val 2) (e.2.2.2.2 &&& 0x1FFF)).setReg (twinWord e.1 e.2.1.val 3) 1)

/-- Start every tile of an image at the entry of step n. -/
def beginImage (s : State) (p : Part) (r : RunImage) (n stepN : Nat) : State :=
  let s1 := applyTiles s r.body
  let s2 := s1.each r.body.tiles fun s t =>
    let s := loadLimit (loadCode s r.body t (activeHalf s t) n) r.body t n
    (enterTile (setStepNo (forgetErrors s t) t stepN) t).setRbit (seqCtl t) 0 true
  snapshotEpochs (setPstate ((lossEnds s2 p).modPart p fun x =>
    { x with image := some r, replayed := false, noRelease := false }) p 2) p

/-- Is the placement map inside the partition (R41)? -/
def placedInside (s : State) (p : Part) (b : ImageBody) : Bool :=
  b.tiles.all (fun t => (partFields s p).contains (tileField t)) && b.fields.all ((partFields s p).contains ·)

/-- Judge and start an image on an idle partition (R41, R201, R340, Table 11.4). -/
def startImage (s : State) (p : Part) (r : StartReq) : State :=
  let q := r.q
  let cid := r.cid
  let img := r.img
  if s.rbit (govPage 7 + 0x044) 4 then sqDone s p q cid 4 (fld (s.reg (partSts p)) 8 4).toNat
  else if !placedInside s p img.body then sqDone s p q cid 2 0
  else
    let g := partGeom s p
    match (img.body :: img.variants).find? (·.geometryId == g) with
    | none => sqDone s p q cid 1 g.toNat
    | some b =>
      if !placedInside s p b then sqDone s p q cid 2 0
      else match applyWeirMap s p b.weirMap with
        | .error h => sqDone (setEvt s (partPage p 0) 6) p q cid 3 h
        | .ok s1 =>
          match b.handles.find? fun h => (weirId s1 p h.toNat).isNone with
          | some h => sqDone s1 p q cid 3 h.toNat
          | none =>
            beginImage s1 p
              { body := b, variants := img.variants, va := r.va, imageId := r.imageId, q := q, cid := cid, committed := 0 } 0 0

/-- Start the next accepted START of an idle partition (R250). -/
def startNext (s : State) (p : Part) : State :=
  s.each (s.prt p).starts fun s e =>
    if pstate s p = 1 ∧ (s.prt p).job = none then
      startImage (s.modPart p fun x => { x with starts := x.starts.drop 1 }) p e
    else s

/-! ## Commit (R50, R205, R210) -/

/-- A weir of the partition holds a count (R205). -/
def residue (s : State) (p : Part) : Bool := (mappedHandles s p).any fun e => (s.weir e.2).count != 0

/-- A tile that passed its test goes back into its segment (R334): FLD_REMAP.seg = 15, and a reverse decant. -/
def returnTile (s : State) (e : Field × Fin 8) : State :=
  let x := segVal (s.reg (fldRemap e.1)) e.2.val
  let n := shaftNo e.1 e.2.val x
  let s1 := (remapSeg s e.1 e.2.val 15).modSvc fun v => { v with failed := removeNat v.failed n }
  let s2 := match tileAbove s1 n with
    | some t => s1.modSeq t fun q => { q with fenced := false }
    | none => s1
  nextDecant s2 e.1

/-- The tiles that wait to return go back at the commit. -/
def returnTiles (s : State) (p : Part) : State :=
  let l := (s.prt p).returns
  (s.modPart p fun x => { x with returns := [] }).each l returnTile

/-- The halves are exchanged where the next one reports complete (R36, R50): the exchange of a tile that then halts. -/
def swapIfReady (s : State) (t : Tile) : State := if nextReady s t then swapHalves s t else s

/-- The closing weir has released: the step commits. Where the image ends or a step pre-emption waits, the tiles exchange
their halves and halt. -/
def commit (s : State) (p : Part) : State :=
  match (s.prt p).image with
  | none => s
  | some r =>
    let s1 := s.each (partTiles s p) commitTile
    let s2 := returnTiles (releaseHeld s1 p) p
    let s3 := if residue s2 p then setEvt s2 (partPage p 0) 5 else s2
    let n := r.committed + 1
    let s4 := s3.modPart p fun x => { x with image := some { r with committed := n }, replayed := false }
    let last := decide (r.body.steps ≤ n)
    let pre := (s4.prt p).pend = some 3
    if last then
      let s5 := s4.each (partTiles s4 p) fun s t => haltTile (swapIfReady s t) t
      let s6 := closeImage s5 p 0 n
      startNext (if pre then cmdDone (clearPend s6 p) p else s6) p
    else if pre then
      let s5 := s4.each (partTiles s4 p) fun s t => haltTile (swapIfReady s t) t
      let rec0 := mkRecord s5 p 0 { r with committed := n } (stepNo s5 (r.body.tiles.headD 0))
        (epochRecords s5 p fun _ id => (s5.weir id).epoch) []
      let s6 := clearPend (setPstate (putRecord s5 p rec0) p 1) p
      cmdDone (s6.modPart p fun x => { x with image := none }) p
    else
      snapshotEpochs (s4.each (partTiles s4 p) fun s t => enterStep s r.body t n) p

/-- A weir releases (R203): the threshold leaves the count, the epoch advances, the waiters are freed; the closing weir's
release commits the step. -/
def releaseWeir (s : State) (p : Part) (h id : Nat) : State :=
  let s1 := s.modWeir id fun w => { w with count := w.count - w.thr, epoch := w.epoch + 1, pend := false }
  let s2 := freeWaiters s1 id
  if closingHandle s p = some h then commit s2 p else s2

/-- An addition lands at a weir (R203, R205): saturating, then one check of the threshold. -/
def weirAdd (s : State) (p : Part) (h id n : Nat) : State :=
  let w := s.weir id
  let s1 := if 0xFFFFFFFF < w.count.toNat + n then setEvt s (partPage p 0) 5 else s
  let s2 := s1.modWeir id fun w => { w with count := satAdd w.count n }
  if w.thr.toNat ≤ (s2.weir id).count.toNat ∧ w.thr ≠ 0 then
    if mayRelease s2 p then releaseWeir s2 p h id else s2.modWeir id fun w => { w with pend := true }
  else s2

/-! ## Hold and replay (R53, R205) -/

/-- Every weir of the partition at count 0 and the epoch of the step's opening (R205). -/
def rewindWeirs (s : State) (p : Part) : State :=
  let e := (s.prt p).openEpochs
  s.each (mappedHandles s p) fun s m =>
    s.modWeir m.2 fun w => { w with count := 0, epoch := SMap.get zero16 e m.1, waiters := [], pend := false }

/-- Replay the running step (R53, R136, R155, R52): every tile of the image restarts at the entry of its active half,
refilled with the step's code. -/
def replay (s : State) (p : Part) : State :=
  match (s.prt p).image with
  | none => s
  | some r =>
    let s1 := discardAll (rewindWeirs s p) p
    let s2 := s1.each (partTiles s1 p) discardWork
    let s3 := s2.each r.body.tiles fun s t => enterTile (loadCode s r.body t (activeHalf s t) r.committed) t
    setPstate (s3.modPart p fun x => { x with faulty := [], soft := [], noRelease := false }) p 2

/-- Every tile of the partition may be replayed (R53). -/
def replayOk (s : State) (p : Part) : Bool :=
  match (s.prt p).image with
  | some r => r.body.tiles.all fun t => s.rbit (ctrCtl t) 1
  | none => true

/-- A tile has stopped: halted, dark, at a WAIT, or faulty (R53, R55, R331). -/
def tileStopped (s : State) (p : Part) (t : Tile) : Bool :=
  halted s t || (s.seq t).dark || (s.seq t).fenced || fieldDark s (tileField t) || (s.prt p).faulty.contains t ||
    (match (s.seq t).stall with | some (.wait _ _ _) => true | _ => false)

/-- Every tile of the running image has stopped. -/
def allStopped (s : State) (p : Part) : Bool :=
  match (s.prt p).image with
  | some r => r.body.tiles.all (tileStopped s p)
  | none => true

/-- End the image (R53, R54, R55): everything stops as in stage 1 of Table 9.5, store buffers drain, held completions and
atomics are discarded, the START completes, and the next accepted START begins. -/
def endImage (s : State) (p : Part) (status result : Nat) : State :=
  let ts := partTiles s p
  let s2 := (s.each ts stopTile).each ts sbDrainAll
  let s4 := closeImage (discardAll s2 p) p status result
  startNext (if (s4.prt p).pend.isSome then cmdDone (clearPend s4 p) p else s4) p

/-- A partition is held (R53): no weir of it releases until the repair has completed. -/
def holdPart (s : State) (p : Part) : State :=
  if pstate s p = 2 then setPstate s p 3 else s

/-- A tile fault (R53, R323, Table 2.7): the partition is held, the failed tile is fenced, its stores are discarded. -/
def tileFaultOp (s : State) (t : Tile) : State :=
  let s1 := sbDiscard (s.modSeq t fun q => { q with fenced := true, stall := none }) t
  let s2 := logEv s1 1 323 (tileUnit s1 t) (tilePage t 0) none t.val
  match partOf s2 t with
  | none => s2
  | some p =>
    let s3 := (holdPart s2 p).modPart p fun x =>
      { x with faulty := if x.faulty.contains t then x.faulty else x.faulty ++ [t], soft := x.soft.filter (· != t) }
    let s4 := s3.modReg (govPage 5 + 0x044) fun w =>
      setFld (setFld (setFld w 0 (1 : BitVec 3)) 3 (BitVec.ofNat 4 p.val)) 7 (BitVec.ofNat 6 (tileField t).val)
    s4

/-- A tile fault that the replay alone repairs, unless the tile has failed already in this hold (R118, R119). -/
def softFault (s : State) (t : Tile) : State :=
  let s1 := tileFaultOp s t
  match partOf s t with
  | none => s1.modSeq t fun q => { q with fenced := (s.seq t).fenced }
  | some p =>
    if (s.prt p).faulty.contains t && !(s.prt p).soft.contains t then s1
    else s1.modPart p fun x => { x with soft := x.soft ++ [t] }

/-- Tile t met uncorrectable quarters of tile w's cistern: a tile fault of t, and the step is replayed; a quarter that was
uncorrectable in the step before fails the tile that owns it (R118, R119, R134). -/
def cistFaultQ (s : State) (t w : Tile) (qs : List Nat) : State :=
  let s1 := s.modMem w fun m => { m with erredQ := qs.foldl insertNat m.erredQ }
  if qs.any (s.mem w).erredQ.contains then (if w = t then tileFaultOp s1 t else softFault (tileFaultOp s1 w) t) else softFault s1 t

/-- The same for the uncorrectable quarters among n bytes at off. -/
def cistFault (s : State) (t w : Tile) (off n : Nat) : State :=
  cistFaultQ s t w ((quartersOf off n).filter (s.mem w).cistUe.contains)

end Sys2Proof.Machine
end

