-- ==== Sys2Proof/Machine/Vector.lean ====
section
/-!
DEFINITION. The vector unit (R97 … R103): lane arithmetic, comparisons, conversions, compensated pairs, reductions,
and VLD and VST.
-/

namespace Sys2Proof.Machine

/-- Format and lane count of a precision (R97). -/
def vfmt (prec : Bool) : FFmt := if prec then f32 else f64
def vwidth (prec : Bool) : Nat := if prec then 32 else 64
def vcount (prec : Bool) : Nat := if prec then 64 else 32

/-- Element i of a register under a precision. -/
def vel (s : State) (t : Tile) (r : VReg) (prec : Bool) (i : Nat) : Nat := lane (s.v t r) (vwidth prec) i

/-- Issue a vector instruction: a direction of 5 or 6, or another illegal field, traps (R100). -/
def vecIssue (t : Tile) (s : State) (rm : BitVec 3) (legal : Bool) (k : State → State) : Res :=
  issue t s fun s => if rm = 5 ∨ rm = 6 ∨ !legal then trapNow s t trapIllegal else advance (k s) t

/-- Put lane results: the register, and every flag they raise. -/
def putLanes (s : State) (t : Tile) (vd : VReg) (prec : Bool) (l : List (Nat × Nat)) : State :=
  raiseFlags (s.setV t vd (ofLanes (vwidth prec) (l.map (·.1)))) t (orFlags l)

/-- A lane by lane operation of va, vb, vc. -/
def vecMap (t : Tile) (s : State) (o : VOp) (f : FFmt → Nat → Nat → Nat → Nat → Nat × Nat) : Res :=
  vecIssue t s o.rm true fun s =>
    let rm := rmOf s t o.rm
    putLanes s t o.vd o.prec ((List.range (vcount o.prec)).map fun i =>
      f (vfmt o.prec) rm (vel s t o.va o.prec i) (vel s t o.vb o.prec i) (vel s t o.vc o.prec i))

def execVAdd (t : Tile) (o : VOp) (s : State) : Res := vecMap t s o fun f rm a b _ => fAdd f rm a b
def execVSub (t : Tile) (o : VOp) (s : State) : Res := vecMap t s o fun f rm a b _ => fSub f rm a b
def execVMul (t : Tile) (o : VOp) (s : State) : Res := vecMap t s o fun f rm a b _ => fMul f rm a b
def execVDiv (t : Tile) (o : VOp) (s : State) : Res := vecMap t s o fun f rm a b _ => fDiv f rm a b
def execVSqrt (t : Tile) (o : VOp) (s : State) : Res := vecMap t s o fun f rm a _ _ => fSqrt f rm a
def execVMin (t : Tile) (o : VOp) (s : State) : Res := vecMap t s o fun f _ a b _ => fMinMax f false false a b
def execVMax (t : Tile) (o : VOp) (s : State) : Res := vecMap t s o fun f _ a b _ => fMinMax f true false a b
def execVMinnum (t : Tile) (o : VOp) (s : State) : Res := vecMap t s o fun f _ a b _ => fMinMax f false true a b
def execVMaxnum (t : Tile) (o : VOp) (s : State) : Res := vecMap t s o fun f _ a b _ => fMinMax f true true a b
def execVAbs (t : Tile) (o : VOp) (s : State) : Res := vecMap t s o fun f _ a _ _ => (fAbs f a, 0)
def execVNeg (t : Tile) (o : VOp) (s : State) : Res := vecMap t s o fun f _ a _ _ => (fNeg f a, 0)
def execVCpsgn (t : Tile) (o : VOp) (s : State) : Res := vecMap t s o fun f _ a b _ => (fCpsgn f a b, 0)
def execVRint (t : Tile) (o : VOp) (s : State) : Res := vecMap t s o fun f rm a _ _ => fRint f rm a
def execVLogb (t : Tile) (o : VOp) (s : State) : Res := vecMap t s o fun f _ a _ _ => fLogb f a

/-- SCALEB: a lane whose vb is not an integral value receives a free value (log 20). -/
def execVScaleb (t : Tile) (o : VOp) (s : State) : Res :=
  vecIssue t s o.rm true fun s =>
    let (n, s1) := s.fresh
    let rm := rmOf s t o.rm
    putLanes s1 t o.vd o.prec ((List.range (vcount o.prec)).map fun i =>
      fScaleb (vfmt o.prec) rm (vel s t o.va o.prec i) (vel s t o.vb o.prec i) (lane (Config.freeBits n) (vwidth o.prec) i))

def execFma (t : Tile) (o : VOp) (s : State) : Res := vecMap t s o fun f rm a b c => fFma f rm false false a b c
def execFms (t : Tile) (o : VOp) (s : State) : Res := vecMap t s o fun f rm a b c => fFma f rm false true a b c
def execNfma (t : Tile) (o : VOp) (s : State) : Res := vecMap t s o fun f rm a b c => fFma f rm true false a b c
def execNfms (t : Tile) (o : VOp) (s : State) : Res := vecMap t s o fun f rm a b c => fFma f rm true true a b c

/-! ## Comparisons -/

/-- A comparison: a true lane is all ones. -/
def vecCmp (t : Tile) (s : State) (o : VOp) (sig un : Bool) (rel : Int → Bool) : Res :=
  vecMap t s o fun f _ a b _ =>
    let r := fRel f sig un rel a b
    (if r.1 then 2 ^ f.width - 1 else 0, r.2)

def execVcmpEq (t : Tile) (o : VOp) (s : State) : Res := vecCmp t s o false false fun c => c == 0
def execVcmpLt (t : Tile) (o : VOp) (s : State) : Res := vecCmp t s o false false fun c => decide (c < 0)
def execVcmpLe (t : Tile) (o : VOp) (s : State) : Res := vecCmp t s o false false fun c => decide (c ≤ 0)
def execVcmpUn (t : Tile) (o : VOp) (s : State) : Res := vecCmp t s o false true fun _ => false
def execVcmpSlt (t : Tile) (o : VOp) (s : State) : Res := vecCmp t s o true false fun c => decide (c < 0)
def execVcmpSle (t : Tile) (o : VOp) (s : State) : Res := vecCmp t s o true false fun c => decide (c ≤ 0)

/-- CLASS: the bit that a class sets is not given (log 20). -/
def execVcmpClass (t : Tile) (o : VOp) (s : State) : Res :=
  vecMap t s o fun f _ a _ _ => (2 ^ (Config.classBit (fClass f a)).val, 0)

/-! ## Conversions -/

/-- Decode an element of a code as a value, with the width of its NaN payload. -/
def codeVal (code x : Nat) : FVal × Nat :=
  match ffmtOf code with
  | some f => (f.dec x, f.mb)
  | none => let v := sext (fmtWidth code) x; (.fin (decide (v < 0)) v.natAbs 0, 0)

/-- Is an element a signalling NaN? -/
def codeSnan (code x : Nat) : Bool := match ffmtOf code with | some f => f.snan x | none => false

/-- Largest integer of INT8 or INT4 (R94). -/
def intMax (code : Nat) : Nat := if code = 6 then 7 else 127

/-- Write a value into a format code (R94): pattern, flags, saturated or not. sat: overflow saturates. -/
def toCode (code rm : Nat) (sat : Bool) (srcMb : Nat) (v : FVal) : Nat × Nat × Bool :=
  match ffmtOf code with
  | some f => f.ofVal rm sat srcMb v
  | none =>
    let w := fmtWidth code
    match v with
    | .nan _ _ => (intMax code, flNv, false)
    | .inf s => ((BitVec.ofInt w (signed s (intMax code))).toNat, flOf + flNx, true)
    | .fin s m e =>
      let (k, lost) := roundAt 0 s m e 0
      if intMax code < k then ((BitVec.ofInt w (signed s (intMax code))).toNat, flOf + flNx, true)
      else ((BitVec.ofInt w (signed s k)).toNat, if lost then flNx else 0, false)

/-- Codes that VCVT takes (Table 4.1). -/
def cvtCode (c : BitVec 4) : Bool := decide (1 ≤ c.toNat ∧ c.toNat ≤ 11)

/-- FMODE.ovf acts on BF16, FP16 and FP8-E5M2 (R94). -/
def ovfSat (s : State) (t : Tile) (code : Nat) : Bool :=
  s.rbit (fmodeAddr t) 4 && decide (code = 4 ∨ code = 8 ∨ code = 9)

/-- CVT: narrow formats round to nearest, ties to even (R94); binary32 and binary64 by rm (R98). As many elements as the
precision has lanes and both registers hold (log 20). -/
def execCvt (t : Tile) (vd va : VReg) (src dst : BitVec 4) (prec : Bool) (rm : BitVec 3) (s : State) : Res :=
  vecIssue t s rm (cvtCode src && cvtCode dst) fun s =>
    let ws := fmtWidth src.toNat
    let wd := fmtWidth dst.toNat
    let n := min (vcount prec) (2048 / max ws wd)
    let r := if dst.toNat = 10 ∨ dst.toNat = 11 then rmOf s t rm else 0
    let l := (List.range n).map fun i =>
      let x := lane (s.v t va) ws i
      let (v, mb) := codeVal src.toNat x
      let c := toCode dst.toNat r (ovfSat s t dst.toNat) mb v
      (c.1, c.2.1 ||| (if codeSnan src.toNat x then flNv else 0))
    raiseFlags (s.setV t vd (ofLanes wd (l.map (·.1)))) t (orFlags l)

/-- Largest exponent of an MX destination (R101). -/
def mxEmax (code : Nat) : Int := match code with | 1 => 2 | 2 => 4 | 3 => 2 | 4 => 15 | _ => 8

/-- ⌊log₂⌋ of a magnitude that is not zero; an infinity stands above every exponent. -/
def floorLog (f : FFmt) (x : Nat) : Int :=
  match f.dec x with
  | .fin _ m e => (bitLen m : Int) - 1 + e
  | _ => 1000

/-- CVT.MX (R101). DESIGN CHOICE (log 99): where some lane is NaN the rule gives the scale code and no X; the other elements
take the X of the largest magnitude that is not NaN. -/
def execCvtMx (t : Tile) (vd va : VReg) (dst : BitVec 4) (prec : Bool) (rm : BitVec 3) (s : State) : Res :=
  vecIssue t s rm (prec && decide (1 ≤ dst.toNat ∧ dst.toNat ≤ 5)) fun s =>
    let l := (List.range 32).map fun i => lane (s.v t va) 32 i
    let num := l.filter fun x => !(f32.dec x).isNan
    let m := num.foldl (fun a x => max a (fAbs f32 x)) 0
    let x : Int := if m = 0 then -127 else max (-127) (min 127 (floorLog f32 m - mxEmax dst.toNat))
    let code : Nat := if num.length < l.length then 0xFF else (x + 127).toNat
    let r := l.map fun v =>
      let d := match f32.dec v with | .fin s m e => FVal.fin s m (e - x) | d => d
      let c := toCode dst.toNat 0 (ovfSat s t dst.toNat) 23 d
      (c.1, c.2.1 ||| (if f32.snan v then flNv else 0))
    let body := (ofLanes (fmtWidth dst.toNat) (r.map (·.1))).toNat
    raiseFlags (s.setV t vd (BitVec.ofNat 2048 (body + code * 2 ^ 2040))) t (orFlags r)

/-- CVT.I: to a 32-bit integer where vc[0] is 0, from one where it is 1 (log 20); a lane with no integer receives a
free value. DESIGN CHOICE (log 99): integers are signed, a rounding raises inexact, and with prec 0 the 32 integers stand in
consecutive 32-bit lanes with the rest of the register zero. -/
def execCvtI (t : Tile) (o : VOp) (s : State) : Res :=
  vecIssue t s o.rm true fun s =>
    let rm := rmOf s t o.rm
    let f := vfmt o.prec
    if o.vc.val % 2 = 1 then
      putLanes s t o.vd o.prec ((List.range (vcount o.prec)).map fun i =>
        let v := sext 32 (lane (s.v t o.va) 32 i)
        roundInt f rm v 0 false)
    else
      let (n, s1) := s.fresh
      let l := (List.range (vcount o.prec)).map fun i =>
        let r := fToInt f rm (vel s t o.va o.prec i)
        (match r.1 with | some v => (BitVec.ofInt 32 v).toNat | none => lane (Config.freeBits n) 32 i, r.2)
      raiseFlags (s1.setV t o.vd (ofLanes 32 (l.map (·.1)))) t (orFlags l)

/-! ## Compensated pairs (R102) -/

/-- The low register of a pair. -/
def pairLo (vd : VReg) : VReg := ⟨(vd.val + 1) % 16, by omega⟩

/-- An even destination of a pair. -/
def pairOk (vd : VReg) : Bool := decide (vd.val % 2 = 0)

/-- PADD: TwoSum of hi and va, the error added to lo; always to nearest. DESIGN CHOICE (log 99): R99's order of NaN
operands does not name vd; hi comes before va, and lo before the error. -/
def execPadd (t : Tile) (o : VOp) (s : State) : Res :=
  vecIssue t s o.rm (pairOk o.vd) fun s =>
    let f := vfmt o.prec
    let l := (List.range (vcount o.prec)).map fun i =>
      let (h, e, fl) := twoSum f (vel s t o.vd o.prec i) (vel s t o.va o.prec i)
      let r := fAdd f 0 (vel s t (pairLo o.vd) o.prec i) e
      (h, r.1, fl ||| r.2)
    let w := vwidth o.prec
    raiseFlags ((s.setV t o.vd (ofLanes w (l.map (·.1)))).setV t (pairLo o.vd) (ofLanes w (l.map (·.2.1)))) t
      (l.foldl (fun a x => a ||| x.2.2) 0)

/-- One node of the PRED tree. -/
def predNode (f : FFmt) (a b : Nat × Nat × Nat) : Nat × Nat × Nat :=
  let (h, e, fl) := twoSum f a.1 b.1
  let r := fAdd f 0 a.2.1 b.2.1
  let r' := fAdd f 0 r.1 e
  (h, r'.1, a.2.2 ||| b.2.2 ||| fl ||| r.2 ||| r'.2)

/-- One level of a pairwise tree: elements 2j and 2j + 1 meet. -/
def pairLevel {α : Type} (op : α → α → α) : List α → List α
  | a :: b :: r => op a b :: pairLevel op r
  | l => l

/-- A pairwise tree of up to 2^k elements. -/
def treeRed {α : Type} (op : α → α → α) : Nat → List α → List α
  | 0, l => l
  | k + 1, l => treeRed op k (pairLevel op l)

/-- Write lane 0 of a register; the other lanes stay. -/
def putLane0 (s : State) (t : Tile) (r : VReg) (prec : Bool) (x : Nat) : State :=
  s.setV t r (ofLanes (vwidth prec) (x :: (List.range (vcount prec - 1)).map fun i => vel s t r prec (i + 1)))

/-- PRED: the lanes of the pair in vd reduced into lane 0 of that pair; the other lanes stay (log 20). -/
def execPred (t : Tile) (o : VOp) (s : State) : Res :=
  vecIssue t s o.rm (pairOk o.vd) fun s =>
    let f := vfmt o.prec
    let l := (List.range (vcount o.prec)).map fun i =>
      (vel s t o.vd o.prec i, vel s t (pairLo o.vd) o.prec i, 0)
    match treeRed (predNode f) 6 l with
    | r :: _ => raiseFlags (putLane0 (putLane0 s t o.vd o.prec r.1) t (pairLo o.vd) o.prec r.2.1) t r.2.2
    | [] => s

/-- PFIN: hi + lo, rounded once by rm, into vd. -/
def execPfin (t : Tile) (o : VOp) (s : State) : Res :=
  vecIssue t s o.rm (pairOk o.vd) fun s =>
    let rm := rmOf s t o.rm
    putLanes s t o.vd o.prec ((List.range (vcount o.prec)).map fun i =>
      fAdd (vfmt o.prec) rm (vel s t o.vd o.prec i) (vel s t (pairLo o.vd) o.prec i))

/-! ## Reductions -/

/-- A reduction of va in the fixed tree into lane 0 of vd. -/
def vecRed (t : Tile) (s : State) (o : VOp) (op : FFmt → Nat → Nat → Nat → Nat × Nat) : Res :=
  vecIssue t s o.rm true fun s =>
    let f := vfmt o.prec
    let rm := rmOf s t o.rm
    let l := (List.range (vcount o.prec)).map fun i => (vel s t o.va o.prec i, 0)
    match treeRed (fun a b => let r := op f rm a.1 b.1; (r.1, a.2 ||| b.2 ||| r.2)) 6 l with
    | r :: _ => raiseFlags (putLane0 s t o.vd o.prec r.1) t r.2
    | [] => s

def execVredSum (t : Tile) (o : VOp) (s : State) : Res := vecRed t s o fAdd
def execVredMax (t : Tile) (o : VOp) (s : State) : Res := vecRed t s o fun f _ a b => fMinMax f true false a b
def execVredMin (t : Tile) (o : VOp) (s : State) : Res := vecRed t s o fun f _ a b => fMinMax f false false a b

/-! ## VLD and VST -/

/-- A legal 256-byte access of the vector unit: aligned, inside the cistern (R113, R357). -/
def vmemOk (off : Nat) : Bool := decide (off % 256 = 0 ∧ off + 256 ≤ cistSize)

/-- Body of VLD: it waits for transfers of the tile into the bytes it reads (R44); an uncorrectable quarter is a tile fault
(Table 5.3). -/
def bodyVld (t : Tile) (vd : VReg) (ga : GReg) (s : State) : Ans :=
  let off := (s.g t ga).toNat
  if !vmemOk off then .done (raiseTrap s t trapAccess off)
  else if owes s t (s.mem t).launch off 256 then .wait (some 3) s
  else
    match cistRead s t mcVector off 256 with
    | (some bs, s1) => .done (advance (s1.setV t vd (BitVec.ofNat 2048 (leNat bs))) t)
    | (none, s1) => .done (cistFault s1 t t off 256)

/-- VLD. -/
def execVld (t : Tile) (vd : VReg) (ga : GReg) (s : State) : Res := issueWait t s (.vld t vd ga) (bodyVld t vd ga)

/-- VST. -/
def execVst (t : Tile) (vd : VReg) (ga : GReg) (s : State) : Res :=
  issue t s fun s =>
    let off := (s.g t ga).toNat
    if !vmemOk off then raiseTrap s t trapAccess off
    else advance (cistWrite s t mcVector off (toLe 256 (s.v t vd).toNat)) t

/-! ## FMODE and the flags of sampling -/

/-- FMODE (R95): a reserved rounding direction leaves it unchanged as a whole. -/
def execFmodeWrite (m : Master) (t : Tile) (v : BitVec 32) (s : State) : Res :=
  .next <| owned s m (fmodeAddr t) v.toNat fun s =>
    if 5 ≤ (fld v 0 3).toNat then setEvt s (tilePage t 3) 2 else s.setReg (fmodeAddr t) (v &&& 0x1F)

def plbCtl (t : Tile) : Nat := tilePage t 3 + 0x048
def plbSts (t : Tile) : Nat := tilePage t 3 + 0x04C

/-- Clear the histogram and the sample counter (R109). -/
def plbClear (s : State) (t : Tile) : State := s.modVec t fun u => { u with hist := [], sample := 0 }

/-- PLB_CTL (R106): any accepted write restarts the counter; k = 13 … 15 is rejected whole. -/
def execPlbCtlWrite (m : Master) (t : Tile) (v : BitVec 32) (s : State) : Res :=
  .next <| owned s m (plbCtl t) v.toNat fun s =>
    if 13 ≤ (fld v 1 4).toNat then setEvt s (tilePage t 3) 2
    else
      let s1 := (s.setReg (plbCtl t) (v &&& 0xFF)).modVec t fun u => { u with sample := 0 }
      if bit v 8 then plbClear s1 t else s1

/-- PLB_CTL.clr alone (R109): the other fields stay, and any write restarts the counter. -/
def execPlbClr (m : Master) (t : Tile) (s : State) : Res :=
  .next <| owned s m (plbCtl t) 0x100 fun s => plbClear s t

end Sys2Proof.Machine
end

