-- ==== Sys2Proof/Machine/Control.lean ====
section
/-!
DEFINITION. Control flow of the sequencer: branches (R358, R110), PHASE (R284), HALT, TRET and IBUF.SWAP (R36, R40),
undefined words (R35, R359), trap entry (R38), and the writes of SEQ_CTL (R40).
-/

namespace Sys2Proof.Machine

/-! ## Branches -/

/-- Jump to a target; an illegal one traps at the branch (R358). -/
def jumpTo (s : State) (t : Tile) (x : Int) (k : State → State) : State :=
  if legalTarget x then setPc (k s) t x.toNat else trapNow s t trapIllegal

/-- A conditional branch on two registers. -/
def branchOn (t : Tile) (ga gb : GReg) (off : BitVec 12) (s : State) (c : Word → Word → Bool) : Res :=
  issue t s fun s => if c (s.g t ga) (s.g t gb) then jumpTo s t (offTarget s t off) id else advance s t

def execBranchEq (t : Tile) (ga gb : GReg) (off : BitVec 12) (s : State) : Res := branchOn t ga gb off s (· == ·)
def execBranchNe (t : Tile) (ga gb : GReg) (off : BitVec 12) (s : State) : Res := branchOn t ga gb off s (· != ·)
def execBranchLt (t : Tile) (ga gb : GReg) (off : BitVec 12) (s : State) : Res := branchOn t ga gb off s BitVec.slt
def execBranchGe (t : Tile) (ga gb : GReg) (off : BitVec 12) (s : State) : Res := branchOn t ga gb off s fun a b => !a.slt b
def execBranchLtu (t : Tile) (ga gb : GReg) (off : BitVec 12) (s : State) : Res := branchOn t ga gb off s BitVec.ult
def execBranchGeu (t : Tile) (ga gb : GReg) (off : BitVec 12) (s : State) : Res := branchOn t ga gb off s fun a b => !a.ult b

/-- Write the return offset, PC + 4. -/
def linkTo (s : State) (t : Tile) (ga : GReg) : State := s.setG t ga (BitVec.ofNat 32 (s.pc t + 4))

/-- JR: jump to the offset in gb; ga receives PC + 4. -/
def execJr (t : Tile) (ga gb : GReg) (s : State) : Res :=
  issue t s fun s => jumpTo s t (s.g t gb).toNat fun s => linkTo s t ga

/-- JAL. -/
def execJal (t : Tile) (ga : GReg) (off : BitVec 12) (s : State) : Res :=
  issue t s fun s => jumpTo s t (offTarget s t off) fun s => linkTo s t ga

/-- The branch on plumb alarm (R110): taken while PLB_STS.alarm is 1; with clr a taken branch clears alarm and more. -/
def execBranchPlumbAlarm (t : Tile) (clr : Bool) (off : BitVec 12) (s : State) : Res :=
  issue t s fun s =>
    if s.rbit (plbSts t) 0 then
      jumpTo s t (offTarget s t off) fun s =>
        if clr then (s.setRbit (plbSts t) 0 false).setRbit (plbSts t) 1 false else s
    else advance s t

/-! ## Phases (R284, R285) -/

/-- The phase of a field: the ID its running tile of lowest index marked last, 1,023 where none runs. -/
def fieldPhase (s : State) (f : Field) : BitVec 10 :=
  match (fieldTiles f).find? fun t => !halted s t with
  | some t => fld (s.reg (seqSts t)) 16 10
  | none => 1023

/-- Take a measured occurrence of mean x into a phase's estimate (R285). -/
def learn (e : PhaseEst) (x : Rat) : PhaseEst :=
  if e.n < 8 then { e := (e.e * e.n + x) / (e.n + 1), n := e.n + 1 } else { e := e.e + (x - e.e) / 8, n := e.n + 1 }

def estD (_ : Nat) : PhaseEst := PhaseEst.reset

/-- A field enters a phase when its lead tile's ID changes, or another tile leads: the occurrence that ends is learnt where it lasted 100 µs, one
sample a microsecond. -/
def phaseCheck (s : State) (f : Field) : State :=
  let old : BitVec 10 := fld (s.reg (fgovPhase f)) 0 10
  let new := fieldPhase s f
  if old = new then s
  else
    let s1 := s.modFld f fun x =>
      { x with
        est := if 100 ≤ x.occN then
            SMap.set estD x.est old.toNat (learn (SMap.get estD x.est old.toNat) ((x.occSum : Rat) / x.occN)) else x.est
        occSum := 0, occN := 0 }
    s1.modReg (fgovPhase f) fun w => setFld w 0 new

/-- PHASE (R284). -/
def execPhase (t : Tile) (id : BitVec 10) (s : State) : Res :=
  issue t s fun s => phaseCheck (advance (s.modReg (seqSts t) fun w => setFld w 16 id) t) (tileField t)

/-! ## System class -/

/-- HALT stops the tile; it does not arrive at its closing weir (R40). -/
def execHalt (t : Tile) (s : State) : Res := issue t s fun s => haltTile (advance s t) t

/-- TRET returns to TRAP_PC; outside a handler it is illegal (Table 2.3). -/
def execTret (t : Tile) (s : State) : Res :=
  issue t s fun s =>
    if inTrap s t then setPc (s.setRbit (seqSts t) 1 false) t (fld (s.reg (trapPc t)) 0 16).toNat
    else trapNow s t trapIllegal

/-- IBUF.SWAP (R36). -/
def execIbufSwap (t : Tile) (s : State) : Res := issueWait t s (.ibufSwap t) (bodySwap t)

/-- An undefined word at issue (R35, R359). -/
def execUndefinedInstruction (t : Tile) (_w : BitVec 32) (s : State) : Res := issue t s fun s => trapNow s t trapIllegal

/-- Trap entry (R38, R40): once the store buffer has drained, the handler starts at TVEC. -/
def enterTrap (s : State) (t : Tile) : State :=
  let s1 := (setPc s t ((fld (s.reg (tvec t)) 2 14).toNat * 4)).setRbit (seqSts t) 1 true
  setEvt (s1.modSeq t fun q => { q with trap := false }) (tilePage t 0) 0

/-- TRAP_ENTRY. -/
def execTrapEntry (t : Tile) (s : State) : Res :=
  .next <| if (s.seq t).trap && sbEmpty s t && fieldRuns s (tileField t) && !halted s t && !(s.seq t).fenced && !saving s t then
    enterTrap s t else s

/-! ## SEQ_CTL (R40) -/

/-- A write of 1 to SEQ_CTL.run: a halted sequencer starts at the entry of its active half; run
relaxes a safety field, halt_req never does (R259). -/
def execSeqRun (m : Master) (t : Tile) (s : State) : Res :=
  .next <| owned s m (seqCtl t) 1 fun s => safetyWrite s m (seqCtl t) 1 (halted s t) fun s =>
    let s1 := s.setRbit (seqCtl t) 0 true
    if halted s t then
      (setPc (s1.modReg (seqSts t) fun w => setBit (setBit w 0 false) 1 false) t 0).modSeq t fun q =>
        { q with stall := none, trap := false, lastIssue := tcyc s t }
    else s1

/-- A write of 1 to SEQ_CTL.halt_req: the sequencer halts at its next boundary, once its stores have drained. -/
def execSeqHaltReq (m : Master) (t : Tile) (s : State) : Res :=
  .next <| owned s m (seqCtl t) 2 fun s => safetyWrite s m (seqCtl t) 2 false fun s =>
    if halted s t then s else boundary (s.setRbit (seqCtl t) 1 true) t

end Sys2Proof.Machine
end

