-- ==== Sys2Proof/Machine/Weir.lean ====
section
/-!
DEFINITION. The weir instructions (R202, R203, R50) and writes of the weir map (R201).
-/

namespace Sys2Proof.Machine

/-- Body of FENCE: the older store-buffer entries drain first. -/
def bodyFence (t : Tile) (s : State) : Ans := if sbEmpty s t then .done (advance s t) else .wait (some 3) s

/-- An arrival of n at a weir: gd receives the epoch in force, the tile goes on, and the addition lands. -/
def arriveAt (s : State) (t : Tile) (p : Part) (h id n : Nat) (gd : GReg) : State :=
  let s1 := advance (s.setG t gd ((s.weir id).epoch.setWidth 32)) t
  if n = 0 then s1 else weirAdd s1 p h id n

/-- Body of ARRIVE. -/
def bodyArrive (t : Tile) (h : BitVec 10) (gn gd : GReg) (s : State) : Ans :=
  match weirFor s t h.toNat with
  | none => .done (trapNow s t trapAccess)
  | some (p, id) =>
    if !sbEmpty s t then .wait (some 3) s
    else .done (arriveAt s t p h.toNat id (if gn = 0 then 1 else (fld (s.g t gn) 0 16).toNat) gd)

/-- Body of ARRIVE.STEP (R50, R55): the closing weir only; a tile that holds an unabsorbed fault halts instead. -/
def bodyArriveStep (t : Tile) (h : BitVec 10) (gd : GReg) (s : State) : Ans :=
  if ((partOf s t).bind (closingHandle s)) ≠ some h.toNat then .done (trapNow s t trapIllegal)
  else
    match weirFor s t h.toNat with
    | none => .done (trapNow s t trapAccess)
    | some (p, id) =>
      if !sbEmpty s t then .wait (some 3) s
      else if (s.seq t).unabsorbed.isSome then .done (haltTile s t)
      else .done (arriveAt s t p h.toNat id 1 gd)

/-- Body of WAIT: until the epoch differs from gs. -/
def bodyWait (t : Tile) (h : BitVec 10) (gs : GReg) (s : State) : Ans :=
  match weirFor s t h.toNat with
  | none => .done (trapNow s t trapAccess)
  | some (_, id) =>
    if (s.weir id).epoch ≠ fld (s.g t gs) 0 16 then .done (advance s t)
    else .wait none (s.modWeir id fun w => { w with waiters := w.waiters ++ [t] })

/-- FENCE. -/
def execFence (t : Tile) (s : State) : Res := issueWait t s (.fence t) (bodyFence t)
/-- ARRIVE. -/
def execArrive (t : Tile) (h : BitVec 10) (gn gd : GReg) (s : State) : Res :=
  issueWait t s (.arrive t h gn gd) (bodyArrive t h gn gd)
/-- ARRIVE.STEP. -/
def execArriveStep (t : Tile) (h : BitVec 10) (gd : GReg) (s : State) : Res :=
  issueWait t s (.arriveStep t h gd) (bodyArriveStep t h gd)
/-- WAIT. -/
def execWait (t : Tile) (h : BitVec 10) (gs : GReg) (s : State) : Res := issueWait t s (.wait t h gs) (bodyWait t h gs)

/-- RESET: the count goes to 0, the epoch stays, no waiter is released. -/
def execWeirReset (t : Tile) (h : BitVec 10) (s : State) : Res :=
  issue t s fun s =>
    match weirFor s t h.toNat with
    | none => trapNow s t trapAccess
    | some (_, id) => advance (s.modWeir id fun w => { w with count := 0, pend := false }) t

/-- A write of one word of a weir map entry (R201, R196): by a physical function or the service processor, while the
partition is IDLE, and only to an entry the rules accept. -/
def execWeirMapWrite (m : Master) (p : Part) (h : BitVec 10) (thr : Bool) (v : BitVec 32) (s : State) : Res :=
  .next <|
    let a := weirEnt p h.toNat (if thr then 1 else 0)
    let ok := match m with | .svp | .pf _ => true | _ => false
    if !ok then ownReject s m a v.toNat
    else
      let w0 := if thr then s.reg (weirEnt p h.toNat 0) else v &&& 0x80003FFF
      let w1 := if thr then v else s.reg (weirEnt p h.toNat 1)
      if pstate s p = 1 ∧ weirEntryOk s p h.toNat w0 w1 then weirEntryPut s p h.toNat w0 w1
      else setEvt s (partPage p 0) 6

end Sys2Proof.Machine
end

