-- ==== Sys2Proof/Machine/Port.lean ====
section
/-!
DEFINITION. A Yurno port as the chapters above the link see it (R218 … R226, R230): its registers and subports, the
flits of Table 10.3 with their CRC-64, credits, the replay buffer, and the choice of an alternate.
-/

namespace Sys2Proof.Machine

/-! ## Registers of a port (R243) -/

def ypCtl (y : Port) : Nat := yurnoPage y 0 + 0x040
def ypSts (y : Port) : Nat := yurnoPage y 0 + 0x044
def ypAlt (y : Port) : Nat := yurnoPage y 0 + 0x048
def ylane (y : Port) (l : Nat) : Nat := yurnoPage y 1 + 0x040 + 4 * l

/-- An event of a port. -/
def portEvt (s : State) (y : Port) (i : Nat) : State := setEvt s (yurnoPage y 0) i

/-- Number of subports (R219). -/
def subCount (s : State) (y : Port) : Nat := 2 ^ (fld (s.reg (ypCtl y)) 0 2).toNat

/-- Lanes of a subport at full width. -/
def subWidth (s : State) (y : Port) : Nat := 64 / subCount s y

/-- YP_STS.state of a subport: 0 down, 1 training, 2 up, 3 narrowed. -/
def subState (s : State) (y : Port) (i : Sub) : Nat := (fld (s.reg (ypSts y)) (2 * i.val) 2).toNat
def setSubState (s : State) (y : Port) (i : Sub) (n : Nat) : State :=
  s.modReg (ypSts y) fun w => setFld w (2 * i.val) (BitVec.ofNat 2 n)

/-- A subport carries traffic: it is up, narrowed or not, and its port is not held down (R317). -/
def subUp (s : State) (y : Port) (i : Sub) : Bool :=
  decide (i.val < subCount s y ∧ 2 ≤ subState s y i) && !(s.port y).heldDown

/-- Some subport of a port is up. -/
def portUp (s : State) (y : Port) : Bool := (List.finRange 4).any (subUp s y)

/-- The partition that owns a port (R194, R218). -/
def portPart (s : State) (y : Port) : Option Part := partOfField s (portField y)

/-- A subport of a port. -/
def PortSt.sub (u : PortSt) (i : Sub) : SubSt := match i with | 0 => u.sub0 | 1 => u.sub1 | 2 => u.sub2 | 3 => u.sub3

/-- Change a subport. -/
def PortSt.modSub (u : PortSt) (i : Sub) (f : SubSt → SubSt) : PortSt :=
  match i with
  | 0 => { u with sub0 := f u.sub0 } | 1 => { u with sub1 := f u.sub1 }
  | 2 => { u with sub2 := f u.sub2 } | 3 => { u with sub3 := f u.sub3 }

def State.sub (s : State) (y : Port) (i : Sub) : SubSt := (s.port y).sub i
def State.modSub (s : State) (y : Port) (i : Sub) (f : SubSt → SubSt) : State := s.modPort y fun u => u.modSub i f

/-! ## Credits (R223) -/

/-- Credits of a channel. -/
def SubSt.credits (u : SubSt) (vc : Nat) : Nat :=
  match vc with | 0 => u.cr0 | 1 => u.cr1 | 2 => u.cr2 | _ => u.cr3
def SubSt.setCredits (u : SubSt) (vc n : Nat) : SubSt :=
  match vc with
  | 0 => { u with cr0 := n } | 1 => { u with cr1 := n } | 2 => { u with cr2 := n } | _ => { u with cr3 := n }

/-- Credits owed to the peer. -/
def SubSt.owed (u : SubSt) (vc : Nat) : Nat :=
  match vc with | 0 => u.owed0 | 1 => u.owed1 | 2 => u.owed2 | _ => u.owed3
def SubSt.setOwed (u : SubSt) (vc n : Nat) : SubSt :=
  match vc with
  | 0 => { u with owed0 := n } | 1 => { u with owed1 := n } | 2 => { u with owed2 := n } | _ => { u with owed3 := n }

/-- Receive buffers of a port by channel (Table 10.4). -/
def rxShare (vc : Nat) : Nat := match vc with | 0 => 2048 | 1 => 2048 | 2 => 4096 | _ => 64

/-! ## Flits (R222) -/

/-- One bit of the CRC-64, most significant first. -/
def crc64Bit (c : BitVec 64) : BitVec 64 := if c.getLsbD 63 then (c <<< 1) ^^^ 0x42F0E1EBA9EA3693#64 else c <<< 1

/-- One byte of the CRC-64. -/
def crc64Byte (c : BitVec 64) (b : Byte) : BitVec 64 :=
  (List.range 8).foldl (fun c _ => crc64Bit c) (c ^^^ (b.setWidth 64 <<< 56))

/-- The CRC-64 of a flit (R222): initial value and final XOR all ones. -/
def crc64 (bs : Bytes) : BitVec 64 := ~~~(bs.foldl crc64Byte (BitVec.allOnes 64))

/-- The fields of a flit's first eight bytes. -/
structure FlitHdr where
  type : Nat
  vc : Nat
  seq : BitVec 16
  ack : BitVec 16
  nak : Bool
  credits : Nat
  cvc : Nat
  deriving DecidableEq, Repr

/-- The first eight bytes as a number. -/
def FlitHdr.word (h : FlitHdr) : Nat :=
  h.type % 16 + h.vc % 4 * 2 ^ 4 + h.seq.toNat * 2 ^ 6 + h.ack.toNat * 2 ^ 22 + (if h.nak then 2 ^ 38 else 0)
    + h.credits % 4096 * 2 ^ 39 + h.cvc % 4 * 2 ^ 51

/-- The header of received bytes. -/
def flitHdr (bs : Bytes) : FlitHdr :=
  let w := leNat (bs.take 8)
  { type := nbits w 0 4, vc := nbits w 4 2, seq := BitVec.ofNat 16 (nbits w 6 16), ack := BitVec.ofNat 16 (nbits w 22 16)
    nak := w.testBit 38, credits := nbits w 39 12, cvc := nbits w 51 2 }

/-- A flit of 256 bytes: header, payload, CRC with its most significant byte first. -/
def flitBytes (h : FlitHdr) (payload : Bytes) : Bytes :=
  let body := toLe 8 h.word ++ payload
  body ++ (toLe 8 (crc64 body).toNat).reverse

/-- The CRC of a received flit holds. -/
def flitOk (bs : Bytes) : Bool :=
  bs.length == 256 && bs.drop 248 == (toLe 8 (crc64 (bs.take 248)).toNat).reverse

/-- Put one flit on the wire. -/
def putFlit (s : State) (y : Port) (i : Sub) (h : FlitHdr) (payload : Bytes) : State :=
  s.emit (.yurno y i (.flit (flitBytes h payload)))

/-- Free payload bytes: what an idle flit or the rest of a last flit carries (log 8). -/
def freePayload (s : State) (n : Nat) : Bytes × State :=
  let (k, s1) := s.fresh
  (toLe n (Config.freeBits k).toNat, s1)

/-- An idle flit: an acknowledgement, a nak, or returned credits. -/
def idleFlit (s : State) (y : Port) (i : Sub) (nak : Bool) (credits cvc : Nat) : State :=
  let (p, s1) := freePayload s 240
  putFlit s1 y i
    { type := 0, vc := 0, seq := 0, ack := (s.sub y i).rxSeq, nak := nak, credits := credits, cvc := cvc } p

/-- A data or control flit as it is sent now: control on channel 3, data on the others. -/
def sendTx (s : State) (y : Port) (i : Sub) (seq : BitVec 16) (x : TxFlit) : State :=
  putFlit s y i
    { type := if x.vc = 3 then 2 else 1, vc := x.vc, seq := seq, ack := (s.sub y i).rxSeq, nak := false
      credits := 0, cvc := 0 } x.payload

/-- The channel that sends next: control, responses, collective, requests (R224), each against its credits. -/
def txPick (u : SubSt) : Option Nat :=
  [3, 1, 2, 0].find? fun vc => decide (0 < u.credits vc) && u.txq.any (·.vc == vc)

/-- Count data and control flits in units of 1,024. -/
def countTx (s : State) (y : Port) : State :=
  let n := (s.port y).txCount + 1
  (s.modPort y fun u => { u with txCount := n % 1024 }).count (yurnoPage y 2 + 0x04C) (n / 1024)
def countRx (s : State) (y : Port) : State :=
  let n := (s.port y).rxCount + 1
  (s.modPort y fun u => { u with rxCount := n % 1024 }).count (yurnoPage y 2 + 0x050) (n / 1024)

/-- Flits of the replay buffer that are a subport's share (R225). -/
def replayShare (s : State) (y : Port) : Nat := 4096 / subCount s y

/-- Send the next flit of a subport, where its channel has credit and the replay buffer has room. -/
def txOne (s : State) (y : Port) (i : Sub) : State :=
  let u := s.sub y i
  if subUp s y i && decide (u.replay.length < replayShare s y) then
    match (txPick u).bind fun vc => u.txq.find? (·.vc == vc) with
    | none => s
    | some x =>
      let seq := u.txSeq + 1
      let s1 := s.modSub y i fun u =>
        ({ u with txSeq := seq, txq := u.txq.erase x, replay := u.replay ++ [(seq, x)] }).setCredits x.vc (u.credits x.vc - 1)
      countTx (sendTx s1 y i seq x) y
  else s

/-- Send whatever can be sent. -/
def txPump (s : State) (y : Port) (i : Sub) : State := s.each (s.sub y i).txq fun s _ => txOne s y i

/-- Cut bytes into payloads of 240. -/
def payloads : Nat → Bytes → List Bytes
  | 0, _ => []
  | n + 1, bs => bs.take 240 :: payloads n (bs.drop 240)

/-- The flits of a message of d data bytes (R233): a 32-byte header, whose layout the manual gives for no message as
a whole (log 36), and the data. -/
def msgFlits (s : State) (vc : Nat) (m : YMsg) (data : Bytes) : List TxFlit × State :=
  let (h, s1) := freePayload s 32
  let n := ceilDiv (32 + data.length) 240
  let (pad, s2) := freePayload s1 (240 * n - (32 + data.length))
  let l := payloads n (h ++ data ++ pad)
  (l.zipIdx.map fun e => { vc := vc, payload := e.1, last := if e.2 + 1 = n then some m else none }, s2)

/-- Hand a message to a subport's transmitter: the fabric sees the message, and the link its flits. -/
def ySend (s : State) (y : Port) (i : Sub) (vc : Nat) (m : YMsg) (data : Bytes) : State :=
  let (l, s1) := msgFlits s vc m data
  let s2 := s1.emit (.yurno y i m)
  txPump (s2.modSub y i fun u => { u with txq := u.txq ++ l }) y i

/-- The first subport of a port that is up: the one its collectives and its control messages take (log 39). -/
def firstUp (s : State) (y : Port) : Option Sub := (List.finRange 4).find? (subUp s y)

/-- Send a control message on channel 3. -/
def yControl (s : State) (y : Port) (m : YMsg) : State :=
  match firstUp s y with
  | some i => ySend s y i 3 m []
  | none => s

/-! ## Alternates (R230) -/

/-- A port by its number. -/
def portNo (n : Nat) : Option Port := if h : n < 24 then some ⟨n, h⟩ else none

/-- The alternate a port names. -/
def altOf (s : State) (y : Port) : Option Port := portNo (fld (s.reg (ypAlt y)) 0 5).toNat

/-- The subport of an alternate that takes a lost subport's traffic: the same letter, or s mod m, or the next that is up. -/
def altSub (s : State) (y : Port) (i : Sub) : Option Sub :=
  let m := subCount s y
  let first := if i.val < m then i.val else i.val % m
  ((List.range m).map fun k => (first + k) % m).findSome? fun k =>
    if h : k < 4 then (if subUp s y ⟨k, h⟩ then some ⟨k, h⟩ else none) else none

/-- Follow the alternates of a port, n at most. -/
def altRoute (s : State) (i : Sub) : Nat → Port → Option (Port × Sub)
  | 0, _ => none
  | n + 1, y =>
    match altOf s y with
    | none => none
    | some z => match altSub s z i with
      | some j => some (z, j)
      | none => altRoute s i n z

/-- The port and subport that take new traffic for a subport: itself while it is there, or its alternate. -/
def liveSub (s : State) (y : Port) (i : Sub) : Option (Port × Sub) :=
  if (s.sub y i).lost ∨ subState s y i = 0 ∨ subCount s y ≤ i.val then altRoute s i 3 y else some (y, i)

end Sys2Proof.Machine
end

