-- ==== Sys2Proof/Machine/Yurno.lean ====
section
/-!
DEFINITION. One-sided operations (R231 … R236): the headers of a tile, what a port sends and receives, and what the
target does.
-/

namespace Sys2Proof.Machine

/-! ## Access to partition memory by a port -/

/-- Translate for a port: the unit of its field, or a walk (R208). -/
def portXl (s : State) (y : Port) (p : Part) (va : Nat) : Option XEnt × State :=
  match (s.fld (portField y)).xcache.find? (·.covers p va) with
  | some e => (some e, s.count (partPage p 1 + 0x060) 1)
  | none =>
    match walk (s.count (partPage p 1 + 0x064) 1) p va with
    | (some e, s1) => (some e, cacheFill s1 (portField y) e)
    | (none, s1) => (none, s1)

/-- Cut n bytes from va at 2 MiB bounds. -/
def pagePieces : Nat → Nat → Nat → List (Nat × Nat)
  | 0, _, _ => []
  | k + 1, va, n =>
    if n = 0 then []
    else
      let m := min n (0x200000 - va % 0x200000)
      (va, m) :: pagePieces k (va + m) (n - m)

/-- A run of bytes at a device physical address, and the place that it names. -/
structure Run where
  dpa : Nat
  at0 : Place
  len : Nat
  deriving DecidableEq, Repr

/-- The places of n bytes from va, where every page translates with the permissions needed. -/
def portRuns (s : State) (y : Port) (p : Part) (rd wr : Bool) : List (Nat × Nat) → Option (List Run) × State
  | [] => (some [], s)
  | (va, n) :: l =>
    match portXl s y p va with
    | (none, s1) => (none, s1.count (partPage p 1 + 0x068) 1)
    | (some e, s1) =>
      if (rd && !e.r) || (wr && !e.w) then (none, s1.count (partPage p 1 + 0x068) 1)
      else
        match portRuns s1 y p rd wr l with
        | (none, s2) => (none, s2)
        | (some rs, s2) => (some ({ dpa := e.dpa va, at0 := placeOf (e.dpa va), len := n } :: rs), s2)

/-- Where a run lies: in a well or inside a cistern. -/
def Run.target (r : Run) : Option Target :=
  match r.at0 with
  | .well t o => if o + r.len ≤ wellSize then some (.well t o) else none
  | .cist t o => if o + r.len ≤ cistSize then some (.cist t) else none
  | _ => none

/-- The seams between a port's field and a target, and back. -/
def portHops (s : State) (y : Port) (x : Target) : List (Field × Adapter × Field) :=
  let f := portField y
  if (s.fld f).absent then [] else routeOf 12 f x.field ++ routeOf 12 x.field f

/-- The outputs on the way of a port's transfer, which enters its field at the attach lanes (Table 8.1). -/
def portOuts (s : State) (y : Port) (x : Target) : List (Nat × Nat) := outputsOf s (portField y) 221 x

/-- A transfer of a port meets the fabric as a host access does, and the seams on its way (R218, R232, R180, R28). -/
def portGate (s : State) (y : Port) (x : Target) : Gate :=
  match fieldGate s x with
  | .go =>
    if (portHops s y x).any fun h => (seamRefuses s none h).isSome then .err
    else if (portHops s y x).any (fun h => !fieldRuns s h.2.2) || !(portOuts s y x).all (fun o => arbClear s o.1 (.port y)) then .wait
    else .go
  | g => g

/-- The outputs grant a granule of a port, in the unscheduled class; a well port takes note of it (R176, R177, R232). -/
def portGrant (s : State) (y : Port) (x : Target) (wr : Bool) : State :=
  atWellPort (grantOuts s (.port y) 4 (portOuts s y x)) 4 x wr

/-- A loss of data that no twin holds is reported (R6, R235). -/
def cistLost (s : State) (t : Tile) (o : Nat) : State :=
  reportLoss s (tileUnit s t) (tilePage t 4) (0x080000000000 + t.val * 0x400000 + o)

/-- Read bytes of a cistern for a port; what is uncorrectable is lost. -/
def portCist (s : State) (y : Port) (t : Tile) (o n : Nat) : Option Bytes × State :=
  match cistRead (portGrant s y (.cist t) false) t mcUnsched o n with
  | (none, s1) => (none, cistLost s1 t o)
  | r => r

/-- Read a run; none where some of it is uncorrectable. -/
def runRead (s : State) (y : Port) (r : Run) : Option Bytes × State :=
  match r.at0 with
  | .well t o =>
    let step := fun (acc : Option Bytes × State) (g : Nat) =>
      match portWellRead (portGrant acc.2 y (.well t (64 * g)) false) t (64 * g) with
      | (some d, s1) => (acc.1.map (· ++ lineBytes d), s1)
      | (none, s1) => (none, s1)
    let g0 := o / 64
    let (bs, s1) := ((List.range ((o + r.len - 1) / 64 - g0 + 1)).map (· + g0)).foldl step (some [], s)
    (bs.map fun l => (l.drop (o % 64)).take r.len, s1)
  | .cist t o => portCist s y t o r.len
  | _ => (none, s)

/-- Write a run. -/
def runWrite (s : State) (y : Port) (r : Run) (bs : Bytes) : State :=
  match r.at0 with
  | .well t o =>
    let s1 := s.each (List.range (ceilDiv (o % 64 + bs.length) 64)) fun s k => portGrant s y (.well t (64 * (o / 64 + k))) true
    wellBytes s1 t o bs (tilePage t 9)
  | .cist t o => cistWrite (portGrant s y (.cist t) true) t mcUnsched o bs
  | _ => s

/-- Read every run. -/
def runsRead (s : State) (y : Port) : List Run → Option Bytes × State
  | [] => (some [], s)
  | r :: l =>
    match runRead s y r with
    | (none, s1) => (none, s1)
    | (some bs, s1) =>
      match runsRead s1 y l with
      | (some cs, s2) => (some (bs ++ cs), s2)
      | (none, s2) => (none, s2)

/-- Write every run in turn. -/
def runsWrite (s : State) (y : Port) : List Run → Bytes → State
  | [], _ => s
  | r :: l, bs => runsWrite (runWrite s y r (bs.take r.len)) y l (bs.drop r.len)

/-- The runs that hold n bytes at va, where every page translates with the permissions needed. -/
def portSpan (s : State) (y : Port) (p : Part) (va n : Nat) (rd wr : Bool) : Option (List Run) × State :=
  portRuns s y p rd wr (pagePieces (n / 0x200000 + 2) va n)

/-- A transfer of n bytes at va has to wait: for a stopped field, wells in self-refresh, or a frozen or busy port (R28, R188,
R303). -/
def portStops (s : State) (y : Port) (p : Part) (va n : Nat) (rd wr : Bool) : Bool :=
  match (portSpan s y p va n rd wr).1 with
  | some rs => rs.any fun r => match r.target with | some x => portGate s y x == .wait | none => false
  | none => false

/-- A port's access to an address that nothing decodes is counted and logged (R32). -/
def portNowhere (s : State) (y : Port) (a : Nat) : State :=
  let pg := decodePage a (.pf 0)
  logEv (countUe s pg 1) (Config.openClass 32) 32 (logUnit (portPart s y) none) pg none a

/-- What the first seam that refuses a transfer of a port leaves. -/
def portRefused (s : State) (y : Port) (rs : List Run) : Option State :=
  (rs.filterMap Run.target).findSome? fun x => (portHops s y x).findSome? (seamRefuses s none)

/-- What a port may do with n bytes at va: the runs, or the status that refuses it (Table 10.7). Which status a closed seam
gives is open (log 38). -/
def portReach (s : State) (y : Port) (p : Part) (va n : Nat) (rd wr : Bool) : Except Nat (List Run) × State :=
  match portSpan s y p va n rd wr with
  | (none, s1) => (.error 3, s1)
  | (some rs, s1) =>
    match rs.find? (·.target.isNone) with
    | some r => (.error 3, portNowhere s1 y r.dpa)
    | none =>
      if (rs.filterMap Run.target).any fun x => fieldDark s1 x.field then (.error 6, s1)
      else
        match portRefused s1 y rs with
        | some s2 => let (k, s3) := s2.fresh; (.error (Config.freeNat k % 7 + 1), s3)
        | none => (.ok rs, s1)

/-- Read n bytes at va for a port. -/
def portRead (s : State) (y : Port) (p : Part) (va n : Nat) : Except Nat Bytes × State :=
  match portReach s y p va n true false with
  | (.error e, s1) => (.error e, s1)
  | (.ok rs, s1) =>
    match runsRead s1 y rs with
    | (some bs, s2) => (.ok bs, s2)
    | (none, s2) => (.error 4, s2)

/-- Write bytes at va for a port; the status, 0 where they are written. -/
def portWrite (s : State) (y : Port) (p : Part) (va : Nat) (bs : Bytes) : Nat × State :=
  match portReach s y p va bs.length false true with
  | (.error e, s1) => (e, s1)
  | (.ok rs, s1) => (0, runsWrite s1 y rs bs)

/-! ## Elements -/

/-- The first n numbers of w bytes. -/
def groupLe (w : Nat) : Nat → Bytes → List Nat
  | 0, _ => []
  | n + 1, bs => leNat (bs.take w) :: groupLe w n (bs.drop w)

/-- Numbers of w bytes. -/
def ungroup (w : Nat) (l : List Nat) : Bytes := l.flatMap (toLe w)

/-- The format of a reduction and its width in bytes: BF16, FP16, FP32. -/
def redFmt (code : Nat) : Option (FFmt × Nat) :=
  if code = 8 then some (bf16, 2) else if code = 9 then some (fp16, 2) else if code = 10 then some (f32, 4) else none

/-- One reduction of two elements: 0 SUM to nearest with ties to even, 1 MAX, 2 MIN (R234). -/
def redElem (f : FFmt) (op a b : Nat) : Nat :=
  if op = 0 then (fAdd f 0 a b).1 else (fMinMax f (decide (op = 1)) false a b).1

/-! ## Headers (Table 10.6) -/

def Yop.f (o : Yop) (i n : Nat) : Nat := nbits o.hdr.toNat i n
def Yop.op (o : Yop) : Nat := o.f 0 4
def Yop.subOp (o : Yop) : Nat := o.f 4 4
def Yop.fmt (o : Yop) : Nat := o.f 8 4
def Yop.fence (o : Yop) : Bool := o.hdr.getLsbD 12
def Yop.handle (o : Yop) : Nat := o.f 34 10
def Yop.len (o : Yop) : Nat := o.f 44 17
def Yop.rva (o : Yop) : Nat := o.f 64 48
def Yop.lva (o : Yop) : Nat := o.f 128 48

/-- A length that a put, a get or a reduction may have. -/
def lenOk (n : Nat) : Bool := decide (16 ≤ n ∧ n ≤ 65536 ∧ n % 16 = 0)

/-- A header without fault. -/
def Yop.ok (o : Yop) : Bool :=
  let rsv := o.f 13 1 == 0 && o.f 61 3 == 0 && o.f 112 16 == 0 && o.f 176 16 == 0
  rsv && match o.op with
    | 1 | 2 => lenOk o.len
    | 3 => decide (o.subOp ≤ 3 ∧ o.len = 8)
    | 4 => decide (o.subOp ≤ 2) && (redFmt o.fmt).isSome && lenOk o.len
    | _ => false

/-! ## Completion (R235) -/

/-- Record a failed operation or collective of a tile: YOP_ERR holds the first, and the tile holds an unabsorbed
fault. -/
def opError (s : State) (y : Port) (t : Tile) (status : Nat) : State :=
  let a := yurnoPage y 3 + 0x048
  let s1 := if s.rbit a 31 then s else s.setReg a (BitVec.ofNat 32 (0x80000000 + status + t.val * 8))
  holdUnabsorbed (portEvt s1 y 5) t (.op (BitVec.ofNat 3 status))

/-- ARRIVE(1) on a weir handle of the tile's partition. -/
def opArrive (s : State) (t : Tile) (h : Nat) : State :=
  match partOf s t with
  | none => s
  | some p => match weirId s p h with
    | some id => weirAdd s p h id 1
    | none => s

/-- An operation completes: a result is written first; an error marks the tile before the arrival lands. -/
def opDone (s : State) (y : Port) (o : Yop) (status : Nat) (data : Bytes) : State :=
  let (st, s1) :=
    if status = 0 ∧ (o.op = 2 ∨ o.op = 3) then
      match partOf s o.tile with
      | some p => portWrite s y p o.lva (data.take (if o.op = 2 then o.len else 8))
      | none => (status, s)
    else (status, s)
  let s2 := if st = 0 then s1 else opError s1 y o.tile st
  opArrive s2 o.tile o.handle

/-! ## Sending -/

/-- What an operation carries: data of PUT and REDUCE, the compare value of CAS64. -/
def opData (s : State) (y : Port) (o : Yop) : Except Nat (Bytes × DWord) × State :=
  match partOf s o.tile with
  | none => (.error 1, s)
  | some p =>
    if o.op = 1 ∨ o.op = 4 then
      match portRead s y p o.lva o.len with
      | (.ok bs, s1) => (.ok (bs, 0), s1)
      | (.error e, s1) => (.error e, s1)
    else if o.op = 3 ∧ o.subOp = 2 then
      match portRead s y p o.lva 8 with
      | (.ok bs, s1) => (.ok ([], BitVec.ofNat 64 (leNat bs)), s1)
      | (.error e, s1) => (.error e, s1)
    else (.ok ([], 0), s)

/-- Operation x of a port was issued before o (R231: a port numbers its operations in turn). -/
def Yop.before (x o : Yop) : Bool :=
  x.opNo.toNat % 32 == o.opNo.toNat % 32 && x.opNo != o.opNo && decide ((o.opNo - x.opNo).toNat < 2 ^ 31)

/-- A fenced operation waits for every earlier one of its tile on its subport, wherever that has been sent: on subport j of
port z where the traffic of its own subport goes there now. -/
def fenceHolds (s : State) (y z : Port) (j : Sub) (o : Yop) : Bool :=
  o.fence &&
    (((s.port y).fly ++ (s.port y).heldAtomics).any (fun x => x.tile == o.tile && x.sub == o.sub && x.before o)
      || (s.port z).fly.any fun x => x.tile == o.tile && x.sub == j && x.before o)

/-- The local data that an operation carries cannot be read yet. -/
def opStops (s : State) (y : Port) (o : Yop) : Bool :=
  match partOf s o.tile with
  | none => false
  | some p =>
    if o.op = 1 ∨ o.op = 4 then portStops s y p o.lva o.len true false
    else o.op == 3 && o.subOp == 2 && portStops s y p o.lva 8 true false

/-- Send one operation of port y, or leave it: none where it waits. -/
def sendOp (s : State) (y : Port) (o : Yop) : Option State :=
  match liveSub s y o.sub with
  | none => some (opDone s y o 5 [])
  | some (z, j) =>
    if (z = y ∧ j = o.sub ∧ !subUp s y j) ∨ fenceHolds s y z j o ∨ opStops s y o then none
    else some <|
      match opData s y o with
      | (.error e, s1) => opDone s1 y o e []
      | (.ok (bs, cmp), s1) =>
        let s2 := s1.modPort z fun u => { u with fly := u.fly ++ [{ o with sub := j }] }
        ySend s2 z j 0 (.op o.hdr o.opNo bs cmp) bs

/-- Send the queued operations of a port in order; one that waits holds back those behind it on its subport. Local data
is read through the crossbar, so nothing is sent while the field is stopped. -/
def pumpOps (s : State) (y : Port) : State :=
  if !fieldRuns s (portField y) then s
  else
    ((s.port y).ops.foldl (fun (acc : State × List Sub) o =>
      if acc.2.contains o.sub then acc
      else
        match sendOp (acc.1.modPort y fun u => { u with ops := u.ops.erase o }) y o with
        | some s1 => (s1, acc.2)
        | none => (acc.1, acc.2 ++ [o.sub])) (s, [])).1

/-- YOP_DB (R232): the port fetches the header and queues the operation. A doorbell from a tile outside its partition, to a
full queue, or to a header or subport that is not there is dropped. An atomic is held until its step commits (R236). -/
def yopDoorbell (s : State) (t : Tile) (y : Port) (v : Word) : State :=
  let off := (fld v 0 17).toNat
  let i : Sub := ⟨(fld v 17 2).toNat, (fld v 17 2).isLt⟩
  let queued := ((s.port y).ops.filter (·.sub == i)).length
  if portPart s y = none ∨ portPart s y ≠ partOf s t ∨ 0x17FFF < off ∨ subCount s y ≤ i.val ∨ 256 ≤ queued then portEvt s y 5
  else
    match portCist s y t (32 * off) 32 with
    | (none, s1) => opError s1 y t 4
    | (some bs, s1) =>
      let n := (s1.port y).nextOp
      let o : Yop := { tile := t, hdr := BitVec.ofNat 256 (leNat bs), sub := i, opNo := BitVec.ofNat 32 y.val + 32 * n }
      let s2 := s1.modPort y fun u => { u with nextOp := n + 1 }
      if !o.ok then opDone s2 y o 7 []
      else if o.op = 3 then s2.modPort y fun u => { u with heldAtomics := u.heldAtomics ++ [o] }
      else pumpOps (s2.modPort y fun u => { u with ops := u.ops ++ [o] }) y

/-- A tile's store to a doorbell of a port: one that the page's owner turns away (R257) is dropped too where the tile is
outside the port's partition (R232). -/
def doorbell (s : State) (t : Tile) (y : Port) (addr : Nat) (v : Word) (k : State → State) : State :=
  let s1 := owned s (.tile t) addr v.toNat k
  if !mayWrite s (.tile t) (pageBase addr) && (portPart s y).isSome && portPart s y != partOf s t then portEvt s1 y 5 else s1

def execYopDoorbell (t : Tile) (y : Port) (v : BitVec 32) (s : State) : Res :=
  .next <| doorbell s t y (yurnoPage y 3 + 0x040) v fun s => yopDoorbell s t y v

/-! ## Receiving a response -/

/-- A response for an operation in flight. -/
def opResponse (s : State) (y : Port) (opId status : Nat) (data : Bytes) : State :=
  match (s.port y).fly.find? fun o => o.opNo.toNat == opId with
  | none => s
  | some o => pumpOps (opDone (s.modPort y fun u => { u with fly := u.fly.erase o }) y o status data) y

/-- A port takes traffic for its field now: its field runs and a subport is up. -/
def portTakes (s : State) (y : Port) : Bool :=
  fieldRuns s (portField y) && !(s.fld (portField y)).selfRefresh && portUp s y

/-- While the field is stopped, what has come in stays in the receive buffers (R303). -/
def holdIn (s : State) (i : Instr) : State := s.modHub fun u => { u with held := u.held ++ [i] }

/-- Do k with something that comes in on a port: at once, or held until restart; a port with no subport up brings
nothing in (log 1). -/
def incoming (s : State) (y : Port) (i : Instr) (k : State → State) : State :=
  if portTakes s y then k s
  else if portUp s y && !fieldDark s (portField y) then holdIn s i
  else s

/-- The result of an operation in flight cannot be written yet. -/
def resultStops (s : State) (y : Port) (opId status : Nat) : Bool :=
  match (s.port y).fly.find? fun o => o.opNo.toNat == opId with
  | none => false
  | some o =>
    status == 0 && (o.op == 2 || o.op == 3) &&
      match partOf s o.tile with
      | some p => portStops s y p o.lva (if o.op = 2 then o.len else 8) false true
      | none => false

def execOperationComplete (y : Port) (opId : Nat) (status : BitVec 3) (data : Bytes) (s : State) : Res :=
  let i := Instr.operationComplete y opId status data
  .next <| incoming s y i fun s =>
    if resultStops s y opId status.toNat then holdIn s i else opResponse s y opId status.toNat data

/-! ## Serving a request (R234) -/

/-- YPEER[e] of a port. -/
def ypeer (y : Port) (e : Nat) : Nat := yurnoPage y 4 + 0x040 + 8 * e

/-- A valid YPEER entry gives a source the permission of a bit: 0 read, 1 write, 2 atomic, 3 collective. -/
def peerMay (s : State) (y : Port) (m : BitVec 16) (p : Part) (perm : Nat) : Bool :=
  (List.range 64).any fun e =>
    let w := s.reg (ypeer y e)
    bit w 31 && fld w 0 16 == m && (fld w 16 4).toNat == p.val && bit w (20 + perm)

/-- Answer a request on channel 1. -/
def respond (s : State) (y : Port) (r : YReq) (status : Nat) (data : Bytes) : State :=
  match firstUp s y with
  | some i => ySend s y i 1 (.resp r.srcModule r.srcPart r.opNo (BitVec.ofNat 3 status) data) data
  | none => s

/-- Check a request in order: the partition serves, the source may, the pages translate, the header is well formed, the
fields are there; k then acts on the runs and gives the status and the data of the answer. Where the target's memory cannot be
reached yet, the request is held (R28, R303). -/
def serve (s : State) (y : Port) (i : Instr) (r : YReq) (perm : Nat) (rd wr ok : Bool)
    (k : State → List Run → Nat × Bytes × State) : State :=
  let serving := match portPart s y with
    | some p => p == r.part && partServes s p
    | none => false
  if !serving then respond s y r 1 []
  else if !peerMay s y r.srcModule r.srcPart perm then respond s y r 2 []
  else if ok && !r.rsv && portStops s y r.part r.rva.toNat r.len.toNat rd wr then holdIn s i
  else
    match portReach s y r.part r.rva.toNat r.len.toNat rd wr with
    | (.error e, s1) => respond s1 y r (if e = 6 ∧ (!ok ∨ r.rsv) then 7 else e) []
    | (.ok rs, s1) =>
      if !ok ∨ r.rsv then respond s1 y r 7 []
      else
        let (st, data, s2) := k s1 rs
        respond s2 y r st data

/-- PUT. -/
def execPut (y : Port) (r : YReq) (data : Bytes) (s : State) : Res :=
  .next <| incoming s y (.put y r data) fun s =>
    serve s y (.put y r data) r 1 false true (lenOk r.len.toNat && data.length == r.len.toNat) fun s rs =>
      (0, [], runsWrite s y rs data)

/-- GET. -/
def execGet (y : Port) (r : YReq) (s : State) : Res :=
  .next <| incoming s y (.get y r) fun s =>
    serve s y (.get y r) r 0 true false (lenOk r.len.toNat) fun s rs =>
      match runsRead s y rs with
      | (some bs, s1) => (0, bs, s1)
      | (none, s1) => (4, [], s1)

/-- The record of a repeated atomic of the target partition (R231). -/
def atomSeen (s : State) (p : Part) (r : YReq) : Option AtomRec :=
  (s.prt p).atoms.find? fun a => a.srcModule == r.srcModule && a.srcPart == r.srcPart && a.opNo == r.opNo

/-- Keep the number and the result of an atomic, the last 4,096 of each source. -/
def atomKeep (s : State) (r : YReq) (old : Nat) : State :=
  s.modPart r.part fun u =>
    let mine := u.atoms.filter fun a => a.srcModule == r.srcModule && a.srcPart == r.srcPart
    let rest := if mine.length < 4096 then u.atoms else u.atoms.erase (mine.headD ⟨0, 0, 0, 0⟩)
    { u with atoms := rest ++ [{ srcModule := r.srcModule, srcPart := r.srcPart, opNo := r.opNo, old := BitVec.ofNat 64 old }] }

/-- One indivisible read and write of an aligned 8-byte word. -/
def atomicOp (s : State) (y : Port) (i : Instr) (r : YReq) (f : Nat → Nat) : State :=
  match atomSeen s r.part r with
  | some a =>
    if peerMay s y r.srcModule r.srcPart 2 && (match portPart s y with | some p => p == r.part && partServes s p | none => false) then
      respond s y r 0 (toLe 8 a.old.toNat)
    else serve s y i r 2 true true true fun s _ => (0, [], s)
  | none =>
    serve s y i r 2 true true (decide (r.len = 8 ∧ r.rva.toNat % 8 = 0)) fun s rs =>
      match runsRead s y rs with
      | (none, s1) => (4, [], s1)
      | (some bs, s1) =>
        let old := leNat bs
        (0, toLe 8 old, atomKeep (runsWrite s1 y rs (toLe 8 (f old % 2 ^ 64))) r old)

/-- FADD32 adds arg[31:0] to the low four bytes of the word (R234, Table 10.6). -/
def fadd32 (arg old : Nat) : Nat := old / 2 ^ 32 * 2 ^ 32 + (fAdd f32 0 (old % 2 ^ 32) (arg % 2 ^ 32)).1

def execAtomicAdd64 (y : Port) (r : YReq) (a : YAtomic) (s : State) : Res :=
  .next <| incoming s y (.atomicAdd64 y r a) fun s => atomicOp s y (.atomicAdd64 y r a) r fun old => old + a.arg.toNat
def execAtomicSwap64 (y : Port) (r : YReq) (a : YAtomic) (s : State) : Res :=
  .next <| incoming s y (.atomicSwap64 y r a) fun s => atomicOp s y (.atomicSwap64 y r a) r fun _ => a.arg.toNat
def execAtomicCas64 (y : Port) (r : YReq) (a : YAtomic) (s : State) : Res :=
  .next <| incoming s y (.atomicCas64 y r a) fun s =>
    atomicOp s y (.atomicCas64 y r a) r fun old => if old = a.cmp.toNat then a.arg.toNat else old
def execAtomicFadd32 (y : Port) (r : YReq) (a : YAtomic) (s : State) : Res :=
  .next <| incoming s y (.atomicFadd32 y r a) fun s => atomicOp s y (.atomicFadd32 y r a) r fun old => fadd32 a.arg.toNat old

/-- REDUCE: each element is combined once with what the target holds. -/
def reduceOp (s : State) (y : Port) (i : Instr) (r : YReq) (op : Nat) (fmt : BitVec 4) (data : Bytes) : State :=
  let fw := redFmt fmt.toNat
  serve s y i r 1 true true (fw.isSome && lenOk r.len.toNat && data.length == r.len.toNat) fun s rs =>
    match fw, runsRead s y rs with
    | some (f, w), (some bs, s1) =>
      let n := data.length / w
      let out := List.zipWith (redElem f op) (groupLe w n bs) (groupLe w n data)
      (0, [], runsWrite s1 y rs (ungroup w out))
    | _, (_, s1) => (4, [], s1)

def execReduceSum (y : Port) (r : YReq) (fmt : BitVec 4) (data : Bytes) (s : State) : Res :=
  .next <| incoming s y (.reduceSum y r fmt data) fun s => reduceOp s y (.reduceSum y r fmt data) r 0 fmt data
def execReduceMax (y : Port) (r : YReq) (fmt : BitVec 4) (data : Bytes) (s : State) : Res :=
  .next <| incoming s y (.reduceMax y r fmt data) fun s => reduceOp s y (.reduceMax y r fmt data) r 1 fmt data
def execReduceMin (y : Port) (r : YReq) (fmt : BitVec 4) (data : Bytes) (s : State) : Res :=
  .next <| incoming s y (.reduceMin y r fmt data) fun s => reduceOp s y (.reduceMin y r fmt data) r 2 fmt data

end Sys2Proof.Machine
end

