-- ==== Sys2Proof/Machine/Collective.lean ====
section
/-!
DEFINITION. The collective engine of a port (R237 … R240): descriptors, ring and direct algorithms, compensated pairs,
retention, duplicates and timeouts. A chunk travels as one message (log 37); chunk j of a reduce-scatter has number j, of
an all-gather R + j, and a report that the sender's part is complete has number 2R.
-/

namespace Sys2Proof.Machine

/-! ## Descriptor (Table 10.8) -/

def Coll.w (c : Coll) (i lo n : Nat) : Nat := nbits c.desc.toNat (64 * i + lo) n
def Coll.kind (c : Coll) : Nat := c.w 0 0 2
def Coll.direct (c : Coll) : Bool := c.w 0 2 1 == 1
def Coll.det (c : Coll) : Bool := c.w 0 3 1 == 1
def Coll.redop (c : Coll) : Nat := c.w 0 4 2
def Coll.fmt (c : Coll) : Nat := c.w 0 6 4
def Coll.pairs (c : Coll) : Bool := c.fmt == 0xC
def Coll.pairOut (c : Coll) : Bool := c.w 0 10 1 == 1
def Coll.handle (c : Coll) : Nat := c.w 0 11 10
def Coll.r (c : Coll) : Nat := c.w 0 21 10 + 1
def Coll.rank (c : Coll) : Nat := c.w 0 31 10
def Coll.e (c : Coll) : Nat := c.w 1 0 32
def Coll.cid (c : Coll) : Word := BitVec.ofNat 32 (c.w 1 32 32)
def Coll.inVa (c : Coll) : Nat := c.w 2 0 48
def Coll.outVa (c : Coll) : Nat := c.w 3 0 48
def Coll.stage (c : Coll) : Nat := c.w 4 0 48
def Coll.peers (c : Coll) : Nat := c.w 5 0 48

/-- Elements of a chunk. -/
def Coll.ce (c : Coll) : Nat := c.e / c.r
/-- Bytes of an input, a wire and an output element. -/
def Coll.inW (c : Coll) : Nat := if c.fmt = 8 ∨ c.fmt = 9 then 2 else 4
def Coll.wireW (c : Coll) : Nat := if c.pairs then 8 else c.inW
def Coll.outW (c : Coll) : Nat := if c.pairs && c.pairOut then 8 else c.inW

/-- Slot k of the region at stage, one chunk in wire form: of the staging region the other ranks in order, of the retention
region what was sent first, second and so on (log 37). -/
def Coll.slot (c : Coll) (k : Nat) : Nat := c.stage + k * c.ce * c.wireW
def Coll.stageSlot (c : Coll) (rank : Nat) : Nat := c.slot (if rank < c.rank then rank else rank - 1)

/-- The ranks after and before this one. -/
def Coll.next (c : Coll) : Nat := (c.rank + 1) % c.r
def Coll.prev (c : Coll) : Nat := (c.rank + c.r - 1) % c.r

/-- A descriptor that an engine runs. -/
def Coll.ok (c : Coll) : Bool :=
  c.kind != 3 && decide (c.redop ≤ 2) && ((redFmt c.fmt).isSome || c.pairs)
    && decide (2 ≤ c.r ∧ c.rank < c.r ∧ c.e % c.r = 0) && c.w 0 41 23 == 0 && c.w 6 0 64 == 0 && c.w 7 0 64 == 0

/-! ## Elements (R238, R239) -/

/-- One addition of a binary32 to a pair, as PADD does (R102). -/
def padd (h l x : Nat) : Nat × Nat :=
  let (s, e, _) := twoSum f32 h x
  (s, (fAdd f32 0 l e).1)

/-- A partial of one element, in wire form, with a contribution in wire form added. -/
def Coll.comb (c : Coll) (a b : Nat) : Nat :=
  if c.pairs then
    let (ah, al) := (a % 2 ^ 32, a / 2 ^ 32)
    if c.redop = 0 then
      let (h, l) := padd ah al (b % 2 ^ 32)
      h + l * 2 ^ 32
    else redElem f32 c.redop ah (b % 2 ^ 32)
  else match redFmt c.fmt with
    | some (f, _) => redElem f c.redop a b
    | none => a

/-- Add a chunk of contributions to a chunk of partials. -/
def Coll.combine (c : Coll) (a b : Bytes) : Bytes :=
  ungroup c.wireW (List.zipWith c.comb (groupLe c.wireW c.ce a) (groupLe c.wireW c.ce b))

/-- Inputs in wire form: an FP32 input of a pair is (x, 0). -/
def Coll.toWire (c : Coll) (bs : Bytes) : Bytes :=
  if c.pairs then ungroup 8 (groupLe 4 c.ce bs) else bs

/-- The final value of a chunk in output form: pairs stay, or are rounded to FP32 once. -/
def Coll.toOut (c : Coll) (bs : Bytes) : Bytes :=
  if c.pairs && !c.pairOut then
    ungroup 4 ((groupLe 8 c.ce bs).map fun v => (fAdd f32 0 (v % 2 ^ 32) (v / 2 ^ 32)).1)
  else bs

/-! ## Progress -/

/-- What a step of a collective leaves: the state, the collective, and the status that ends it, 0 while it goes on. -/
structure ColRun where
  s : State
  c : Coll
  status : Nat
  deriving DecidableEq, Repr

/-- Go on unless a status has ended the collective. -/
def ColRun.andThen (x : ColRun) (k : State → Coll → ColRun) : ColRun := if x.status = 0 then k x.s x.c else x

/-- The port and subport that carry a port's collective messages (log 39), or its alternate's. -/
def colRoute (s : State) (y : Port) : Option (Port × Sub) :=
  match firstUp s y with
  | some i => some (y, i)
  | none => altRoute s 0 3 y

/-- The entry of a rank in the peer table: module ID and partition. -/
def peerOf (s : State) (c : Coll) (rank : Nat) : Nat := cistLe s c.tile (c.peers + 4 * rank) 4 % 2 ^ 20

/-- Send a chunk to a rank; with no route the collective ends with status 5. -/
def colEmit (s : State) (y : Port) (c : Coll) (dest chunk : Nat) (data : Bytes) : ColRun :=
  match colRoute s y with
  | none => ⟨s, c, 5⟩
  | some (z, i) => ⟨ySend s z i 2 (.coll (peerOf s c dest) c.cid c.stepNo c.rank chunk data) data, c, 0⟩

/-- Read n bytes at a local address. -/
def colRead (s : State) (y : Port) (c : Coll) (va n : Nat) (k : State → Bytes → ColRun) : ColRun :=
  match partOf s c.tile with
  | none => ⟨s, c, 1⟩
  | some p =>
    match portRead s y p va n with
    | (.ok bs, s1) => k s1 bs
    | (.error e, s1) => ⟨s1, c, e⟩

/-- Write bytes at a local address. -/
def colWrite (s : State) (y : Port) (c : Coll) (va : Nat) (bs : Bytes) : ColRun :=
  match partOf s c.tile with
  | none => ⟨s, c, 1⟩
  | some p =>
    let (e, s1) := portWrite s y p va bs
    ⟨s1, c, e⟩

/-- Send a chunk, and keep it where the algorithm is the ring (R240): in the retention region while it has a slot, what goes
beyond it in the engine (log 37). -/
def colSend (s : State) (y : Port) (c : Coll) (dest chunk : Nat) (data : Bytes) : ColRun :=
  let k := c.retained.length
  if c.direct then colEmit s y c dest chunk data
  else if k < c.r - 1 then
    (colWrite s y { c with retained := c.retained ++ [(chunk, [])] } (c.slot k) data).andThen fun s c =>
      colEmit s y c dest chunk data
  else colEmit s y { c with retained := c.retained ++ [(chunk, data)] } dest chunk data

/-- Send a chunk to each rank of a list. -/
def colSendAll (y : Port) (chunk : Nat → Nat) (data : Nat → Bytes) : List Nat → State → Coll → ColRun
  | [], s, c => ⟨s, c, 0⟩
  | j :: l, s, c => (colSend s y c j (chunk j) (data j)).andThen fun s c => colSendAll y chunk data l s c

/-- The other ranks. -/
def Coll.others (c : Coll) : List Nat := (List.range c.r).filter (· != c.rank)

/-- Read n bytes of the input region from byte o. -/
def colIn (s : State) (y : Port) (c : Coll) (o n : Nat) (k : State → Bytes → ColRun) : ColRun :=
  colRead s y c (c.inVa + o) n k

/-- Write bytes of the output region from byte o. -/
def colOut (s : State) (y : Port) (c : Coll) (o : Nat) (bs : Bytes) : ColRun := colWrite s y c (c.outVa + o) bs

/-- Chunk j of this rank's own inputs, in wire form. -/
def ownChunk (s : State) (y : Port) (c : Coll) (j : Nat) (k : State → Bytes → ColRun) : ColRun :=
  colIn s y c (j * c.ce * c.inW) (c.ce * c.inW) fun s bs => k s (c.toWire bs)

/-- Start the all-gather with this rank's chunk in output form (R238: it copies and never rounds). -/
def agStart (s : State) (y : Port) (c : Coll) (own : Bytes) : ColRun :=
  (colOut s y c (c.rank * c.ce * c.outW) own).andThen fun s c =>
    colSendAll y (fun _ => c.r + c.rank) (fun _ => own) (if c.direct then c.others else [c.next]) s c

/-- The reduce-scatter has this rank's chunk: it is written, and the all-gather follows where there is one. -/
def rsResult (s : State) (y : Port) (c : Coll) (wire : Bytes) : ColRun :=
  let own := c.toOut wire
  if c.kind = 2 then agStart s y c own else colOut s y c 0 own

/-- Send this rank's contribution to each other rank's chunk (direct). -/
def directSend (y : Port) : List Nat → State → Coll → ColRun
  | [], s, c => ⟨s, c, 0⟩
  | j :: l, s, c =>
    ownChunk s y c j fun s own => (colSend s y c j j own).andThen fun s c => directSend y l s c

/-- Add in ascending rank order (det = 1) what has come: this rank's own chunk when it is its turn, another from the staging
region; after the last the chunk is done. -/
def directAdd (y : Port) : Nat → State → Coll → ColRun
  | 0, s, c => ⟨s, c, 0⟩
  | n + 1, s, c =>
    let add := fun (s : State) (bs : Bytes) =>
      directAdd y n s
        { c with turn := c.turn + 1, parked := c.parked.erase c.turn, acc := if c.turn = 0 then bs else c.combine c.acc bs }
    if c.r ≤ c.turn then rsResult s y { c with acc := [] } c.acc
    else if c.turn = c.rank then ownChunk s y c c.rank add
    else if c.parked.contains c.turn then colRead s y c (c.stageSlot c.turn) (c.ce * c.wireW) add
    else ⟨s, c, 0⟩

/-- Start the reduce-scatter. -/
def rsStart (s : State) (y : Port) (c : Coll) : ColRun :=
  if c.direct then
    if c.det then (directSend y c.others s c).andThen (directAdd y (c.r + 1))
    else ownChunk s y c c.rank fun s own => directSend y c.others s { c with acc := own }
  else ownChunk s y c c.prev fun s own => colSend s y c c.next c.prev own

/-- Start a collective. -/
def colStart (s : State) (y : Port) (c : Coll) : ColRun :=
  if c.kind = 1 then
    colIn s y c 0 (c.ce * c.inW) fun s bs => agStart s y c (if c.outW = 8 then c.toWire bs else bs)
  else rsStart s y c

/-- A contribution to this rank's chunk arrives (direct): det = 0 adds as they arrive, det = 1 adds in ascending rank order
and parks what comes early in the staging region. -/
def directTake (s : State) (y : Port) (c : Coll) (rank : Nat) (data : Bytes) : ColRun :=
  let got := (c.seen.filter fun e => e.2 == c.rank).length
  if c.det then
    if c.turn = rank then
      directAdd y (c.r + 1) s { c with turn := rank + 1, acc := if rank = 0 then data else c.combine c.acc data }
    else colWrite s y { c with parked := c.parked ++ [rank] } (c.stageSlot rank) data
  else
    let a := c.combine c.acc data
    if got < c.r - 1 then ⟨s, { c with acc := a }, 0⟩ else rsResult s y { c with acc := [] } a

/-- A partial arrives on the ring: this rank adds its own chunk, and keeps the result or sends it on. -/
def ringTake (s : State) (y : Port) (c : Coll) (chunk : Nat) (data : Bytes) : ColRun :=
  ownChunk s y c chunk fun s own =>
    let a := c.combine data own
    if chunk = c.rank then rsResult s y c a else colSend s y c c.next chunk a

/-- A chunk of the all-gather arrives. -/
def agTake (s : State) (y : Port) (c : Coll) (j : Nat) (data : Bytes) : ColRun :=
  (colOut s y c (j * c.ce * c.outW) data).andThen fun s c =>
    if c.direct ∨ c.next = j then ⟨s, c, 0⟩ else colSend s y c c.next (c.r + j) data

/-- A message that this collective expects: from its ring neighbour or an owner, for the right chunk, of the right size. -/
def Coll.expects (c : Coll) (rank chunk : Nat) (data : Bytes) : Bool :=
  decide (rank < c.r ∧ rank ≠ c.rank) &&
    if chunk < c.r then
      c.kind != 1 && data.length == c.ce * c.wireW && (if c.direct then chunk == c.rank else rank == c.prev && chunk != c.prev)
    else if chunk < 2 * c.r then
      c.kind != 0 && data.length == c.ce * c.outW && chunk - c.r != c.rank
        && (if c.direct then chunk - c.r == rank else rank == c.prev)
    else chunk == 2 * c.r && !c.direct && (rank == c.prev || rank == c.next)

/-- Consume a message. -/
def colTake (s : State) (y : Port) (c : Coll) (rank chunk : Nat) (data : Bytes) : ColRun :=
  let c1 := { c with seen := c.seen ++ [(rank, chunk)] }
  if chunk < c.r then (if c.direct then directTake s y c1 rank data else ringTake s y c1 chunk data)
  else if chunk < 2 * c.r then agTake s y c1 (chunk - c.r) data
  else ⟨s, { c1 with peersDone := c1.peersDone + 1 }, 0⟩

/-- Everything a collective waits for has come. -/
def Coll.finished (c : Coll) : Bool :=
  let rs := c.seen.filter fun e => e.2 < c.r
  let ag := c.seen.filter fun e => decide (c.r ≤ e.2 ∧ e.2 < 2 * c.r)
  let rsDone := decide (c.kind = 1) || (if c.direct then rs.length == c.r - 1 else rs.any (·.2 == c.rank))
  rsDone && (decide (c.kind = 0) || ag.length == c.r - 1)

/-! ## Completion (R235, R240) -/

def sameColl (a b : Coll) : Bool := a.cid == b.cid && a.stepNo == b.stepNo

/-- Take a collective from the running ones. -/
def colOff (s : State) (y : Port) (c : Coll) : State :=
  s.modPort y fun u => { u with colRun := u.colRun.filter fun x => !sameColl x c }

/-- A collective ends with an error status. -/
def colFail (s : State) (y : Port) (c : Coll) (status : Nat) : State :=
  opArrive (opError (portEvt (colOff s y c) y 6) y c.tile status) c.tile c.handle

/-- Retention has served its purpose. -/
def Coll.spent (c : Coll) : Bool := c.direct || (c.committed && decide (c.peersDue ≤ c.peersDone))

/-- A collective completes: its neighbours are told, its outgoing data stays in retention, and its weir arrival lands. -/
def colDone (s : State) (y : Port) (c : Coll) : State :=
  let s1 := colOff s y c
  let s2 := if c.direct then s1
    else (if c.r = 2 then [c.next] else [c.prev, c.next]).foldl (fun s j => (colEmit s y c j (2 * c.r) []).s) s1
  let s3 := if c.spent then s2 else s2.modPort y fun u => { u with colRetained := u.colRetained ++ [c] }
  opArrive s3 c.tile c.handle

/-- Put the outcome of a step of a running collective back. -/
def colPut (y : Port) (x : ColRun) : State :=
  if x.status ≠ 0 then colFail x.s y x.c x.status
  else if x.c.finished then colDone x.s y x.c
  else x.s.modPort y fun u => { u with colRun := u.colRun.map fun e => if sameColl e x.c then x.c else e }

/-- Send a neighbour what is in retention again. -/
def resendRetained (s : State) (y : Port) (c : Coll) (rank : Nat) : State :=
  s.each c.retained.zipIdx fun s e =>
    let emit := fun (s : State) (bs : Bytes) => colEmit s y c rank e.1.1 bs
    if e.2 < c.r - 1 then (colRead s y c (c.slot e.2) (c.ce * if e.1.1 < c.r then c.wireW else c.outW) emit).s
    else (emit s e.1.2).s

/-- A region that a collective reads or writes cannot be reached yet (R28, R303). -/
def collStops (s : State) (y : Port) (c : Coll) : Bool :=
  match partOf s c.tile with
  | none => false
  | some p =>
    portStops s y p c.inVa ((if c.kind = 1 then c.ce else c.e) * c.inW) true false
      || portStops s y p c.outVa ((if c.kind = 0 then c.ce else c.e) * c.outW) false true
      || ((!c.direct || c.det) && portStops s y p c.stage ((c.r - 1) * c.ce * c.wireW) true true)

/-- A message as the command that brings it. -/
def ColMsg.cmd (m : ColMsg) (y : Port) : Instr := .collectiveMessage y m.cid m.stepNo m.rank m.chunk m.data

/-- The source of a message may take part (YPEER, collective). -/
def colMay (s : State) (y : Port) (c : Coll) (rank : Nat) : Bool :=
  let w := peerOf s c rank
  peerMay s y (BitVec.ofNat 16 w) ⟨w / 2 ^ 16 % 16, by omega⟩ 3

/-- A message meets its collective. One consumed before is discarded, and retained data is sent to its sender again. -/
def colMeet (s : State) (y : Port) (c : Coll) (m : ColMsg) : State :=
  if !colMay s y c m.rank ∨ !c.expects m.rank m.chunk m.data then s
  else if collStops s y c then holdIn s (m.cmd y)
  else if c.seen.contains (m.rank, m.chunk) then resendRetained s y c m.rank
  else colPut y (colTake s y c m.rank m.chunk m.data)

/-- A message meets a collective that has completed here. -/
def colMeetDone (s : State) (y : Port) (c : Coll) (m : ColMsg) : State :=
  if !colMay s y c m.rank ∨ !c.expects m.rank m.chunk m.data then s
  else if c.seen.contains (m.rank, m.chunk) then resendRetained s y c m.rank
  else
    let c1 := (colTake s y c m.rank m.chunk m.data).c
    s.modPort y fun u =>
      { u with colRetained := (u.colRetained.map fun e => if sameColl e c then c1 else e).filter (!·.spent) }

/-- A message arrives: for a running collective, one in retention, or one still to come. -/
def colArrive (s : State) (y : Port) (m : ColMsg) : State :=
  let is := fun (c : Coll) => c.cid == m.cid && c.stepNo == m.stepNo
  match (s.port y).colRun.find? is with
  | some c => colMeet s y c m
  | none =>
    match (s.port y).colRetained.find? is with
    | some c => colMeetDone s y c m
    | none =>
      let old := match portPart s y with
        | some p => decide (m.stepNo.toNat < stepNo s ((partTiles s p).headD 0))
        | none => true
      if old then s else s.modPort y fun u => { u with colEarly := u.colEarly ++ [m] }

/-- The messages that came early for a collective that now runs. -/
def colEarlyIn (s : State) (y : Port) (c : Coll) : State :=
  let mine := fun (m : ColMsg) => m.cid == c.cid && m.stepNo == c.stepNo
  let l := (s.port y).colEarly.filter mine
  (s.modPort y fun u => { u with colEarly := u.colEarly.filter fun m => !mine m }).each l fun s m => colArrive s y m

/-! ## Commands -/

/-- YCOL_DB (R237). -/
def ycolDoorbell (s : State) (t : Tile) (y : Port) (v : Word) : State :=
  let off := (fld v 0 16).toNat
  if portPart s y = none ∨ portPart s y ≠ partOf s t ∨ 0xC000 ≤ off ∨ 16 ≤ (s.port y).colQ.length then portEvt s y 5
  else
    match portCist s y t (64 * off) 64 with
    | (none, s1) => opError (portEvt s1 y 6) y t 4
    | (some bs, s1) =>
      let c : Coll :=
        { tile := t, desc := bytesLine bs, stepNo := BitVec.ofNat 64 (stepNo s t), seen := [], parked := [], acc := []
          retained := [], peersDone := 0, peersDue := 0, committed := false, at0 := 0 }
      if c.ok then s1.modPort y fun u => { u with colQ := u.colQ ++ [{ c with peersDue := if c.r = 2 then 1 else 2 }] }
      else colFail s1 y c 7

def execYcolDoorbell (t : Tile) (y : Port) (v : BitVec 32) (s : State) : Res :=
  .next <| doorbell s t y (yurnoPage y 5 + 0x040) v fun s => ycolDoorbell s t y v

/-- The engine starts the first queued collective, where it is of this kind and fewer than four run. -/
def colBegin (s : State) (y : Port) (kind : Nat) : State :=
  match (s.port y).colQ with
  | [] => s
  | c :: rest =>
    if c.kind = kind ∧ (s.port y).colRun.length < 4 ∧ fieldRuns s (portField y) ∧ !collStops s y c then
      let c1 := { c with at0 := s.tsclk }
      let s1 := s.modPort y fun u => { u with colQ := rest, colRun := u.colRun ++ [c1] }
      colEarlyIn (colPut y (colStart s1 y c1)) y c1
    else s

def execReduceScatter (y : Port) (s : State) : Res := .next (colBegin s y 0)
def execAllGather (y : Port) (s : State) : Res := .next (colBegin s y 1)
def execReduceScatterAllGather (y : Port) (s : State) : Res := .next (colBegin s y 2)

def execCollectiveMessage (y : Port) (cid : BitVec 32) (step : BitVec 64) (rank chunk : Nat) (data : Bytes) (s : State) : Res :=
  .next <| incoming s y (.collectiveMessage y cid step rank chunk data) fun s =>
    colArrive s y { cid := cid, stepNo := step, rank := rank, chunk := chunk, data := data }

/-- A running collective exceeds YP_CTL.col_timeout; a peer's HALT suspends the timeout (R303). The status is one of 1 … 7
and the manual does not say which (log 38). -/
def execCollectiveTimeout (y : Port) (cid : BitVec 32) (s : State) : Res :=
  .next <|
    match (s.port y).colRun.find? (·.cid == cid) with
    | none => s
    | some c =>
      if !(s.port y).peerHalted && decide (c.at0 + (fld (s.reg (ypCtl y)) 14 8).toNat * 1000000 < s.tsclk) then
        let (n, s1) := s.fresh
        colFail s1 y c (Config.freeNat n % 7 + 1)
      else s

end Sys2Proof.Machine
end

