-- ==== Sys2Proof/Machine/Array.lean ====
section
/-!
DEFINITION. The matrix array of a tile (R65 … R82, R104 … R107): checks at issue, the array queue in program order,
compute, readout, plumb capture. Timing is left out (log 10); row-period and injected freezes are counted.
-/

namespace Sys2Proof.Machine

/-! ## Compute -/

/-- The job of a queued compute. -/
def jobOf (shape : Shape) (passes : BitVec 2) (a m : Nat) (afmt bfmt : BitVec 4) (fm : Word) : Job :=
  { shape := shape, p := passes.toNat, m := m, ga := a, afmt := afmt.toNat, bfmt := bfmt.toNat, subn := bit fm 3 }

/-- Quadrants of a shape: quadrant, first column, columns, first cell row, row offset in units of M. -/
def quadrants (sh : Shape) (n : Nat) : List (Nat × Nat × Nat × Nat × Nat) :=
  match sh with
  | .quad => [(0, 0, 128, 0, 0), (1, 128, 128, 0, 0), (2, 0, 128, 128, 1), (3, 128, 128, 128, 1)]
  | _ => [(0, 0, shapeCols sh n, 0, 0)]

/-- Output rows of a job. -/
def outRows (sh : Shape) (m : Nat) : Nat := match sh with | .quad => 2 * m | _ => m

/-- Does a store word lie in the rows and columns a job writes? -/
def inOut (sh : Shape) (n m d : Nat) (int : Bool) (key : Nat) : Bool :=
  let k := if int then 2 else 1
  decide (k * d ≤ key / 256 ∧ key / 256 < k * (d + outRows sh m) ∧ key % 256 < shapeCols sh n)

/-- Words that a read of store words meets in error (R75): correctable ones are corrected, written back, counted and logged (R322);
an uncorrectable one is a tile fault. Answers whether the read may go on. -/
def storeErrors (s : State) (t : Tile) (touch : Nat → Bool) : Bool × State :=
  let ce := (s.arr t).accCe.filter touch
  let ue := (s.arr t).accUe.filter touch
  let s1 := if ce.isEmpty then s else
    logEv (setEvt (countCe (s.modArr t fun a => { a with accCe := a.accCe.filter fun k => !touch k }) (tilePage t 2) ce.length)
      (tilePage t 2) 2) 1 75 (tileUnit s t) (tilePage t 2) none ce.length
  if ue.isEmpty then (true, s1)
  else (false, tileFaultOp (setEvt (countUe s1 (tilePage t 2) ue.length) (tilePage t 2) 3) t)

/-- Write a store word; its code is renewed. -/
def putAcc (a : ArrSt) (key : Nat) (w : Word) : ArrSt :=
  { a with accum := SMap.set zeroW a.accum key w, accCe := removeNat a.accCe key, accUe := removeNat a.accUe key }

/-- A stored 64-bit value of integer-mode row i, column n (R72). -/
def acc64 (a : ArrSt) (i n : Nat) : Int :=
  sext 64 ((SMap.get zeroW a.accum (2 * i * 256 + n)).toNat + (SMap.get zeroW a.accum ((2 * i + 1) * 256 + n)).toNat * 2 ^ 32)

/-- Write a 64-bit value. -/
def put64 (a : ArrSt) (i n : Nat) (v : Int) : ArrSt :=
  let u := (BitVec.ofInt 64 v).toNat
  putAcc (putAcc a (2 * i * 256 + n) (BitVec.ofNat 32 u)) ((2 * i + 1) * 256 + n) (BitVec.ofNat 32 (u / 2 ^ 32))

/-- Drain one output element at output row i. -/
def drainOne (j : Job) (img : BImage) (acc : Bool) (r : ARow) (k0 n i : Nat) (x : ArrSt × Census) : ArrSt × Census :=
  if intMode j.afmt j.bfmt then
    let (v, sat) := sat64 (joinInt j img r k0 n + if acc then acc64 x.1 i n else 0)
    (put64 x.1 i n v, if sat then { x.2 with sat := x.2.sat + 1 } else x.2)
  else
    let w := drainFloat acc (SMap.get zeroW x.1.accum (i * 256 + n)) (joinFloat j img r k0 n)
    (putAcc x.1 (i * 256 + n) w, if nonFinite w then { x.2 with naninf := x.2.naninf + 1 } else x.2)

/-- Compute every output row of a job into the store. -/
def computeRows (cist : List Host.Cell) (j : Job) (img : BImage) (n : Nat) (acc : Bool) (d : Nat) (a : ArrSt) :
    ArrSt × Census :=
  (quadrants j.shape n).foldl (fun x (q, c0, nc, k0, ro) =>
    (List.range j.m).foldl (fun x i =>
      let r := aRow cist j q i
      let x := (x.1, x.2.add r.census)
      (List.range nc).foldl (fun x c => drainOne j img acc r k0 (c0 + c) (d + ro * j.m + i) x) x) x) (a, .zero)

/-! ## Plumb sampling (R106, R107) -/

/-- The output blocks of a job in drain order: the elements of each, as quadrant, row, column and first cell row. -/
def outBlocks (sh : Shape) (m n : Nat) : List (List (Nat × Nat × Nat × Nat)) :=
  let halves : List (Nat × Nat) := match sh with | .quad => [(0, 0), (2, 128)] | _ => [(0, 0)]
  let cols := shapeCols sh n
  halves.flatMap fun (q0, k0) =>
    (List.range (ceilDiv m 16)).flatMap fun rg =>
      (List.range (ceilDiv cols 16)).map fun cg =>
        (List.range (min 16 (m - 16 * rg))).flatMap fun i =>
          (List.range (min 16 (cols - 16 * cg))).map fun c =>
            let col := 16 * cg + c
            ((match sh with | .quad => q0 + col / 128 | _ => 0), 16 * rg + i, col, k0)

/-- Sample the output blocks of a float-mode job whose formats have 8 bits or fewer. -/
def sampleBlocks (s : State) (t : Tile) (j : Job) (img : BImage) (n : Nat) (phase : BitVec 10) : State :=
  let ctl := s.reg (plbCtl t)
  let cist := (s.mem t).cist
  if !bit ctl 0 || intMode j.afmt j.bfmt || decide (8 < fmtWidth j.afmt) || decide (8 < fmtWidth j.bfmt) then s
  else
    s.each (outBlocks j.shape j.m n) fun s blk =>
      if (s.vec t).sample + 1 = 2 ^ (fld ctl 1 4).toNat then
        let s1 := s.modVec t fun v => { v with sample := 0 }
        if 4 ≤ (s.vec t).captures.length then setEvt (s1.count (tilePage t 3 + 0x054) 1) (tilePage t 3) 1
        else
          let cap : Capture :=
            { phase := phase
              carr := blk.map fun (q, i, c, k0) => joinFloat j img (aRow cist j q i) k0 c
              cref := blk.map fun (q, i, c, k0) => refValue cist j img q i c k0 }
          s1.modVec t fun v => { v with captures := v.captures ++ [cap] }
      else s.modVec t fun v => { v with sample := v.sample + 1 }

/-! ### Injected freeze (R76, R287) -/

/-- A number from lo to hi, which of them is free. -/
def freeBetween (s : State) (lo hi : Nat) : Nat × State :=
  if hi = 0 then (0, s)
  else let (k, s1) := s.fresh; (lo + Config.freeNat k % (hi - lo + 1), s1)

/-- Fractions in 1/64 between which the two governors of a tile freeze its array: the larger of the two, and their sum. -/
def injBounds (s : State) (t : Tile) : Nat × Nat :=
  let a := fieldInj s (tileField t)
  let b := SMap.get zeroN (s.fld (tileField t)).tinj (shaftPlace (tileShaft s t))
  (max a b, min 63 (a + b))

/-- Injected cycles on a busy array: FGOV_INJ of the field, and ARR_CNT[3] of the tile. -/
def countInj (s : State) (t : Tile) (k : Nat) : State :=
  (s.count (fgov (tileField t) 0x048) k).count (tilePage t 2 + 0x05C) k

/-- Injected cycles among n busy cycles of a compute that runs: each is one more frozen cycle. Which cycles are injected is
left open (log 71). -/
def injectRun (s : State) (t : Tile) (n : Nat) : State :=
  let (a, b) := injBounds s t
  let (k, s1) := freeBetween s (n * a / (64 - a)) (ceilDiv (n * b) (64 - b))
  (countInj s1 t k).count (tilePage t 2 + 0x050) k

/-- Injected cycles among n frozen cycles of a compute that waits for a word. -/
def injectHeld (s : State) (t : Tile) (n : Nat) : State :=
  let (a, b) := injBounds s t
  let (k, s1) := freeBetween s (n * a / 64) (ceilDiv (n * b) 64)
  countInj s1 t k

/-- Array reads per A word, and the row period (R67). -/
def rowPeriod (j : Job) : Nat :=
  let a := ceilDiv (fmtWidth j.afmt) 8
  max j.c (match j.shape with | .quad => 2 * a | _ => a)

/-- The cycle counters of a job (R67, R81): row-period freezes, and busy cycles; whether it chains to the one before
depends on timing (R79, log 8). -/
def countArray (s : State) (t : Tile) (j : Job) (n : Nat) : State :=
  let fr := j.m * (rowPeriod j - j.c)
  let a := tilePage t 2 + 0x050
  let (k, s1) := s.fresh
  let chained := (s.arr t).lastShape = some j.shape ∧ !s.rbit (tilePage t 2 + 0x040) 0 ∧ Config.freeBit k
  let busy := j.m * j.c + (if chained then 0 else shapeFill j.shape + shapeDrain j.shape n)
  (injectRun (((s1.count a fr).count (a + 4) fr).count (a + 20) busy) t busy).modArr t fun x =>
    { x with lastShape := some j.shape }

/-- A shadow load that stands before a place of the launch order: the compute at that place uses its B (R65). -/
def shadowBefore (a : ArrSt) (ord : Nat) : Option Shadow := a.shadow.filter fun x => decide (x.ord ≤ ord)

/-- Cell rows of a B whose parity does not match in some cell (Table 3.1). -/
def badRows (img : BImage) : List (Fin 256) :=
  (List.finRange 256).filter fun k => img.cells.any fun e => e.1 / 256 == k.val && e.2.parity != cellParity e.2

/-- Cell rows with a parity error are a tile fault (R75): counted and reported, and noted, for the repeated row of R323. -/
def parityFault (s : State) (t : Tile) (rows : List (Fin 256)) : State :=
  let s1 := setEvt (countUe s (tilePage t 2) rows.length) (tilePage t 2) 1
  let s2 := s1.each rows fun s row =>
    let s1 := if (s.arr t).erredRows.contains row.val then
        match partOf s t with
        | some p => s.modPart p fun x => { x with cellRow := some (t, row.val) }
        | none => s
      else s
    s1.modArr t fun a => { a with erredRows := insertNat a.erredRows row.val }
  tileFaultOp s2 t

/-- The B of a completed shadow load becomes active (R65). -/
def switchB (a : ArrSt) (ord : Nat) : ArrSt :=
  match shadowBefore a ord with
  | some ⟨_, _, _, _, _, _, _, some img⟩ => { a with b := img, other := a.b.cells, shadow := none, bSet := !a.bSet }
  | _ => a

/-- Run a compute: its B becomes active, and its parity is checked at the switch (R65, R75); an uncorrectable quarter of the
stream or an uncorrectable stored word is a tile fault. -/
def runCompute (s : State) (t : Tile) (j : Job) (acc : Bool) (d : Nat) (phase : BitVec 10) (ord : Nat) : State :=
  let bad := match shadowBefore (s.arr t) ord with
    | some x => (x.img.map badRows).getD []
    | none => []
  let s0 := s.modArr t (switchB · ord)
  let n := (s0.arr t).b.n
  let len := streamEnd j.shape j.ga j.m j.c (fmtWidth j.afmt) - j.ga
  let s1 := cistNote s0 t mcPump j.ga len
  if !bad.isEmpty then parityFault s0 t bad
  else if cistBad s0 t j.ga len then cistFault s1 t t j.ga len
  else
    let r := if acc then storeErrors s1 t (inOut j.shape n j.m d (intMode j.afmt j.bfmt)) else (true, s1)
    if !r.1 then r.2
    else
      let s2 := r.2
      let img := (s2.arr t).b
      let s3 := sampleBlocks s2 t j img n phase
      let x := computeRows (s3.mem t).cist j img n acc d (s3.arr t)
      countArray (countCensus (s3.modArr t fun _ => x.1) t x.2) t j n

/-! ## Readout -/

/-- Capture a magnitude in AMAX[b] and AMAX_ALL (R105). -/
def captureAmax (s : State) (t : Tile) (b x : Nat) : State :=
  let up := fun (s : State) (a : Nat) => s.modReg a fun w => if w.toNat < x then BitVec.ofNat 32 x else w
  up (up s (tilePage t 2 + 0x0D0 + 4 * b)) (tilePage t 2 + 0x0F0)

/-- The FP32 value of a stored 64-bit integer, exact. -/
def intFVal (v : Int) : FVal := .fin (decide (v < 0)) v.natAbs 0

/-- Read out row i of the store into output row j of the cistern (R74, R94, R105). -/
def rdoutRow (s : State) (t : Tile) (i dst ofmt : Nat) (scale : Word) (clr int : Bool) (fm : Word) : State :=
  let a := s.arr t
  let vals : List (Nat × FVal × Nat) := (List.range 256).map fun n =>
    if int then let v := acc64 a i n; (n, intFVal v, amaxInt v)
    else let w := SMap.get zeroW a.accum (i * 256 + n); (n, f32.dec w.toNat, amaxFloat w)
  let out := vals.map fun x => rdoutOne ofmt (bit fm 3) (bit fm 4) (mulVal x.2.1 (f32.dec scale.toNat))
  let s1 := s.each vals fun s x => captureAmax s t (x.1 / 32) x.2.2
  let s2 := countCensus s1 t (out.foldl (fun c x => c.add x.2) .zero)
  let s3 := cistWrite s2 t mcRdout dst (packBytes (fmtWidth ofmt) (out.map (·.1)))
  if clr then s3.modArr t fun a => (List.range 256).foldl (fun a n => if int then put64 a i n 0 else putAcc a (i * 256 + n) 0) a
  else s3

/-- Run a readout: its rows in order; an uncorrectable stored word is a tile fault (R75). -/
def runRdout (s : State) (t : Tile) (first count dst ofmt : Nat) (scale : Word) (clr int : Bool) (fm : Word) : State :=
  let k := if int then 2 else 1
  let r := storeErrors s t fun key => decide (k * first ≤ key / 256 ∧ key / 256 < k * (first + count))
  if !r.1 then r.2
  else r.2.each (List.range count) fun s j => rdoutRow s t (first + j) (dst + j * rdoutPitch ofmt) ofmt scale clr int fm

/-! ## The queue (R65, R79) -/

/-- BLK_CTL.freeze of page 2 freezes the array (R76). -/
def arrFrozen (s : State) (t : Tile) : Bool := s.rbit (tilePage t 2 + 0x008) 1

/-- Store rows an entry reads or writes: the first and the one after the last (R72, R74). -/
def entryRows : ArrEntry → Nat × Nat
  | .compute sh _ _ _ m d afmt bfmt _ _ _ =>
    let k := if intMode afmt.toNat bfmt.toNat then 2 else 1
    (k * d, k * (d + outRows sh m))
  | .rdout first count _ _ _ _ int _ _ => let k := if int then 2 else 1; (k * first, k * (first + count))
  | .ldb _ _ _ _ _ _ => (0, 0)

def isCompute : ArrEntry → Bool | .compute .. => true | _ => false
def isLdb : ArrEntry → Bool | .ldb .. => true | _ => false
def isRdout : ArrEntry → Bool | .rdout .. => true | _ => false
def entryOrd : ArrEntry → Nat
  | .compute _ _ _ _ _ _ _ _ _ _ o | .ldb _ _ _ _ _ o | .rdout _ _ _ _ _ _ _ _ o => o

/-- Two entries meet in a store row. -/
def rowsMeet (e f : ArrEntry) : Bool :=
  let x := entryRows e
  let y := entryRows f
  decide (x.1 < y.2 ∧ y.1 < x.2)

/-- What keeps a compute at the head of its kind from running: its B is not loaded (R65), a word of its stream is not yet
written (R44, R76), the freeze of BLK_CTL (R76). -/
structure ArrWait where
  b : Bool
  pump : Bool
  inj : Bool
  deriving DecidableEq, Repr

def ArrWait.any (w : ArrWait) : Bool := w.b || w.pump || w.inj

def computeWait (s : State) (t : Tile) : ArrEntry → ArrWait
  | .compute sh passes _ a m _ afmt bfmt fm _ ord =>
    let j := jobOf sh passes a m afmt bfmt fm
    { b := match shadowBefore (s.arr t) ord with
        | some x => x.img.isNone
        | none => false
      pump := owes s t ord a (streamEnd sh a m j.c (fmtWidth afmt.toNat) - a)
      inj := arrFrozen s t }
  | _ => ⟨false, false, false⟩

/-- May an entry that stands behind pre act but for its own waits? Computes run in order, each after the loads that precede
it; a readout runs beside a compute that writes none of its rows (R73, R79); a load runs through every freeze, and waits
only while a compute before it has still to switch to the shadow (R64, R65). -/
def inTurn (a : ArrSt) (pre : List ArrEntry) : ArrEntry → Bool
  | .ldb _ _ _ _ _ _ => !pre.any isLdb && !pre.any fun c => isCompute c && (shadowBefore a (entryOrd c)).isSome
  | .rdout first count dst ofmt scale clr int fm ord =>
    !pre.any isRdout && !pre.any fun c => isCompute c && rowsMeet c (.rdout first count dst ofmt scale clr int fm ord)
  | .compute sh passes acc x m d afmt bfmt fm phase ord =>
    !pre.any isCompute && !pre.any isLdb
      && !pre.any fun r => isRdout r && rowsMeet r (.compute sh passes acc x m d afmt bfmt fm phase ord)

/-- The first entry that can act, and the queue without it. -/
def pickArr (s : State) (t : Tile) (pre : List ArrEntry) : List ArrEntry → Option (ArrEntry × List ArrEntry)
  | [] => none
  | e :: rest =>
    if inTurn (s.arr t) pre e && !(computeWait s t e).any then some (e, pre ++ rest) else pickArr s t (pre ++ [e]) rest

/-- Act on an entry that has left the queue. -/
def runEntry (s : State) (t : Tile) : ArrEntry → State
  | .ldb sh fmt n src fm ord =>
    s.modArr t fun a =>
      { a with shadow := some { shape := sh, fmt := fmt, n := n, src := src, fmode := fm, ord := ord, at0 := tcyc s t, img := none } }
  | .rdout first count dst ofmt scale clr int fm _ => runRdout s t first count dst ofmt.toNat scale clr int fm
  | .compute sh passes acc a m d afmt bfmt fm phase ord => runCompute s t (jobOf sh passes a m afmt bfmt fm) acc d phase ord

/-- Act on the first entry of the array queue that can act. -/
def arrNext (s : State) (t : Tile) : Option State :=
  (pickArr s t [] (s.arr t).queue).map fun x => runEntry (s.modArr t fun a => { a with queue := x.2 }) t x.1

/-- Work through the queue as far as it goes; a tile fault or a save stops it. -/
def pumpArr (s : State) (t : Tile) : State :=
  s.each (s.arr t).queue fun s _ => if (s.seq t).fenced || saving s t then s else (arrNext s t).getD s

/-- The compute whose turn it is and that waits: what it waits for. One that lacks only a word or is frozen holds rows and is
busy; one without its B is not (R65, R76). -/
def heldCompute (s : State) (t : Tile) : Option (ArrEntry × ArrWait) :=
  match (s.arr t).queue.span fun e => !isCompute e with
  | (pre, e :: _) => if inTurn (s.arr t) pre e then some (e, computeWait s t e) else none
  | _ => none

/-- The array holds rows of a compute. -/
def arrBusy (s : State) (t : Tile) : Bool :=
  match heldCompute s t with
  | some (_, w) => !w.b && (w.pump || w.inj)
  | none => false

/-- n FCLK cycles pass over a compute that waits: B-wait cycles, or frozen cycles by cause (R65, R76). -/
def countHeld (s : State) (t : Tile) (n : Nat) : State :=
  let a := tilePage t 2 + 0x050
  match heldCompute s t with
  | some (_, w) =>
    if w.b then s.count (a + 16) n
    else if w.pump || w.inj then
      let s1 := (s.count a n).count (a + 4) (if w.pump then n else 0)
      if w.inj then s1.count (a + 12) n else injectHeld s1 t n
    else s
  | none => s

/-- Enter an instruction into the array queue (R79). -/
def pushArr (s : State) (t : Tile) (e : Nat → ArrEntry) : State :=
  let (o, s1) := nextLaunch s t
  pumpArr (s1.modArr t fun a => { a with queue := a.queue ++ [e o] }) t

/-- The shadow load reads its image and completes (R60, R64, R65), with the mode it latched. An uncorrectable quarter is a
tile fault; an element above its header entry sets EVT_STS.b_hdr. Nothing happens while no load is under way, or while
the image is still being written (R44). -/
def bLoad (s : State) (t : Tile) : State :=
  match (s.arr t).shadow with
  | none => s
  | some x =>
    let n := imageSize x.shape (fmtWidth x.fmt.toNat)
    if x.img.isSome || owes s t x.ord x.src n then s
    else
      let s1 := cistNote s t mcLoader x.src n
      if cistBad s t x.src n then cistFault s1 t t x.src n
      else
        let l := loadImage (s1.mem t).cist x.shape x.fmt x.n x.src (bit x.fmode 3)
        let s2 := countCensus (s1.modArr t fun a => { a with shadow := some { x with img := some (l.img.keep a.other) } }) t l.census
        pumpArr (if l.hdr = 0 then s2 else setEvt (countUe s2 (tilePage t 2) l.hdr) (tilePage t 2) 0) t

/-! ## Instructions (R77, R78) -/

/-- Largest M of a shape (Table 3.5). -/
def maxM (sh : Shape) (int : Bool) : Nat :=
  match sh, int with | .quad, false => 512 | .quad, true => 256 | _, false => 1024 | _, true => 512

/-- A check that fails at issue: the trap and, for an access, its address. -/
def trapAt (s : State) (t : Tile) (code addr : Nat) : Ans := .done (raiseTrap s t code addr)

/-- Body of a compute instruction (R77). DESIGN CHOICE (log 98): where only the store rows exceed the store, no cistern
access is at fault and the rule names no address; TRAP_ADDR takes ga. -/
def bodyMm (t : Tile) (sh : Shape) (passes : BitVec 2) (acc : Bool) (ga gm gd : GReg) (afmt : BitVec 4) (s : State) : Ans :=
  let x := s.arr t
  let m := (fld (s.g t gm) 0 11).toNat
  let a := (s.g t ga).toNat
  let d := (fld (s.g t gd) 0 10).toNat
  let int := intMode afmt.toNat x.curFmt.toNat
  let c := fmtCpp x.curFmt.toNat * passes.toNat
  if passes = 0 ∨ !pairFmtOk afmt.toNat x.curFmt.toNat ∨ sh ≠ x.curShape ∨ m = 0 ∨ maxM sh int < m then
    trapAt s t trapIllegal 0
  else if a % 256 ≠ 0 ∨ cistSize < streamEnd sh a m c (fmtWidth afmt.toNat)
      ∨ (if int then 512 else 1024) < d + outRows sh m then trapAt s t trapAccess a
  else if 4 ≤ x.queue.length then .wait (some 3) s
  else .done (advance (pushArr s t (.compute sh passes acc a m d afmt x.curFmt (fmode s t)
    (fld (s.reg (seqSts t)) 16 10) ·)) t)

/-- Body of MM.LDB (R65, R78). The B in use at issue is the one it names; DESIGN CHOICE (log 94): after a replay has
discarded one that was queued or unfinished, it is the last B that was loaded whole (ArrSt.discard). -/
def bodyLdb (t : Tile) (sh : Shape) (bfmt : BitVec 4) (gb gn : GReg) (s : State) : Ans :=
  let n := if sh = .narrow then (fld (s.g t gn) 0 6).toNat else shapeCols sh 0
  let b := (s.g t gb).toNat
  if 10 < bfmt.toNat ∨ n = 0 ∨ (sh = .narrow ∧ 32 < n) then trapAt s t trapIllegal 0
  else if b % 256 ≠ 0 ∨ cistSize < b + imageSize sh (fmtWidth bfmt.toNat) then trapAt s t trapAccess b
  else if 4 ≤ (s.arr t).queue.length then .wait (some 3) s
  else
    let s1 := s.modArr t fun a => { a with curShape := sh, curFmt := bfmt }
    .done (advance (pushArr s1 t (.ldb sh bfmt n b (fmode s t) ·)) t)

/-- Body of MM.RDOUT (R78). DESIGN CHOICE (log 98): where only first + count exceeds the store, the rule names no address;
TRAP_ADDR takes gc. -/
def bodyRdout (t : Tile) (gs gc : GReg) (ofmt : BitVec 4) (gk : GReg) (clr int : Bool) (s : State) : Ans :=
  let w := s.g t gs
  let first := (fld w 0 10).toNat
  let count := (fld w 16 11).toNat
  let c := (s.g t gc).toNat
  let lim := if int then 512 else 1024
  let scale := if gk = 0 then (0x3F800000 : Word) else s.g t gk
  if count = 0 ∨ lim < count ∨ ofmt = 0 ∨ 10 < ofmt.toNat then trapAt s t trapIllegal 0
  else if lim < first + count ∨ c % 256 ≠ 0
      ∨ cistSize < c + (count - 1) * rdoutPitch ofmt.toNat + 32 * fmtWidth ofmt.toNat then trapAt s t trapAccess c
  else if 4 ≤ (s.arr t).queue.length then .wait (some 3) s
  else .done (advance (pushArr s t (.rdout first count c ofmt scale clr int (fmode s t) ·)) t)

/-- Body of MM.WAIT. -/
def bodyMmWait (t : Tile) (s : State) : Ans := if (s.arr t).queue.isEmpty then .done (advance s t) else .wait (some 3) s

def execMmFull (t : Tile) (passes : BitVec 2) (acc : Bool) (ga gm gd : GReg) (afmt : BitVec 4) (s : State) : Res :=
  issueWait t s (.mmFull t passes acc ga gm gd afmt) (bodyMm t .full passes acc ga gm gd afmt)
def execMmHalf (t : Tile) (passes : BitVec 2) (acc : Bool) (ga gm gd : GReg) (afmt : BitVec 4) (s : State) : Res :=
  issueWait t s (.mmHalf t passes acc ga gm gd afmt) (bodyMm t .half passes acc ga gm gd afmt)
def execMmQuad (t : Tile) (passes : BitVec 2) (acc : Bool) (ga gm gd : GReg) (afmt : BitVec 4) (s : State) : Res :=
  issueWait t s (.mmQuad t passes acc ga gm gd afmt) (bodyMm t .quad passes acc ga gm gd afmt)
def execMmNarrow (t : Tile) (passes : BitVec 2) (acc : Bool) (ga gm gd : GReg) (afmt : BitVec 4) (s : State) : Res :=
  issueWait t s (.mmNarrow t passes acc ga gm gd afmt) (bodyMm t .narrow passes acc ga gm gd afmt)
def execMmLdb (t : Tile) (sh : Shape) (bfmt : BitVec 4) (gb gn : GReg) (s : State) : Res :=
  issueWait t s (.mmLdb t sh bfmt gb gn) (bodyLdb t sh bfmt gb gn)
def execMmRdout (t : Tile) (gs gc : GReg) (ofmt : BitVec 4) (gk : GReg) (clr int : Bool) (s : State) : Res :=
  issueWait t s (.mmRdout t gs gc ofmt gk clr int) (bodyRdout t gs gc ofmt gk clr int)
def execMmWait (t : Tile) (s : State) : Res := issueWait t s (.mmWait t) (bodyMmWait t)

/-- A parity check of one cell row of the active B (R75): cells whose parity does not match are a tile fault. The group's
failing cell row is noted, for the repeated fault of R323. -/
def execBParityCheck (t : Tile) (row : Fin 256) (s : State) : Res :=
  .next <|
    let bad := (List.range 256).any fun n =>
      let c := SMap.get cellD (s.arr t).b.cells (row.val * 256 + n)
      c.parity != cellParity c
    if bad then parityFault s t [row] else s

/-- The register of ARR_SPARE that holds a group (R61). -/
def arrSpare (t : Tile) (g : Nat) : Nat := tilePage t 2 + (if g < 4 then 0x048 else 0x04C)

/-- The spare-row map of a tile (R61): the failed position of each group. -/
def spareMap (s : State) (t : Tile) (g : Nat) : Nat := (fld (s.reg (arrSpare t g)) (8 * (g % 4)) 6).toNat

/-- Change the spare-row map: the logical rows of both register sets stand where it puts them. -/
def withSpares (s : State) (t : Tile) (f : State → State) : State :=
  let s1 := f s
  let mv := moveCells (spareMap s t) (spareMap s1 t)
  s1.modArr t fun a =>
    { a with
      b := { a.b with cells := mv a.b.cells }
      other := mv a.other
      shadow := a.shadow.map fun x => { x with img := x.img.map fun i => { i with cells := mv i.cells } } }

/-- ARR_SPARE (R61): written by the service processor only, while the array is idle, with 0 … 32 or 63 in every group. -/
def execArrSpareWrite (m : Master) (t : Tile) (hi : Bool) (v : BitVec 32) (s : State) : Res :=
  .next <|
    let addr := tilePage t 2 + (if hi then 0x04C else 0x048)
    if m ≠ .svp then ownReject s m addr v.toNat
    else
      let ok := (List.range 4).all fun g => let x := (fld v (8 * g) 6).toNat; decide (x ≤ 32 ∨ x = 63)
      if ok && (s.arr t).queue.isEmpty then withSpares s t fun s => s.setReg addr (v &&& 0x3F3F3F3F) else setEvt s (tilePage t 2) 4

/-- A recompute completes (R108 … R110): the oldest captured block is placed in its phase's histogram, and an alarm is
raised where its bucket reaches the threshold. -/
def execPlumbRecomputeDone (t : Tile) (s : State) : Res :=
  .next <|
    match (s.vec t).captures with
    | [] => s
    | c :: rest =>
      let (k, s0) := s.fresh
      let open0 := BitVec.ofNat 32 (Config.freeBits k).toNat
      let (b, d) := match deviation c with
        | none => (7, open0)
        | some (x, r) => (bucketOf x r, if r.1 = 0 then (if x.1 = 0 then 0 else open0) else devWord x r)
      let key := c.phase.toNat * 8 + b
      let s1 := (s0.modVec t fun v =>
        { v with captures := rest, hist := SMap.set zeroN v.hist key (min 0xFFFF (SMap.get zeroN v.hist key + 1)) }).count
          (tilePage t 3 + 0x058) 1
      let thr := (fld (s1.reg (plbCtl t)) 5 3).toNat
      if thr ≠ 0 ∧ thr ≤ b then
        let s2 := if s1.rbit (plbSts t) 0 then s1.setRbit (plbSts t) 1 true
          else (s1.modReg (plbSts t) fun w => setFld (setBit w 0 true) 16 c.phase).setReg (tilePage t 3 + 0x050) d
        setEvt s2 (tilePage t 3) 0
      else s1

end Sys2Proof.Machine
end

