-- ==== Sys2Proof/Machine/Engine.lean ====
section
/-!
DEFINITION. The instructions of class 0x24 (R151), entries presented to the well controller (R150), and the start of
each sub-op in its bank (R148, R152).
-/

namespace Sys2Proof.Machine

/-- Read a descriptor or an entry of n bytes from the tile's own cistern for the sequencer: the trap where it cannot,
nothing where a transfer into it is due (R44, R122, R151). -/
def fetchOwn (s : State) (t : Tile) (off n align : Nat) (k : State → Bytes → Ans) : Ans :=
  if off % align ≠ 0 ∨ cistSize < off + n then .done (raiseTrap s t trapAccess off)
  else if owes s t (s.mem t).launch off n then .wait (some 3) s
  else
    match cistRead s t mcSeq off n with
    | (some bs, s1) => k s1 bs
    | (none, s1) => .done (raiseTrap s1 t trapLoadUe off)

/-- Body of ENG.ISSUE: its traps are precise. -/
def bodyEngIssue (t : Tile) (gr : GReg) (s : State) : Ans :=
  let off := (s.g t gr).toNat
  if 16 ≤ (s.mem t).engQ.length ∧ off % 16 = 0 ∧ off + 16 ≤ cistSize then .wait (some 3) s
  else
    fetchOwn s t off 16 16 fun s bs =>
      match engSubmit s t (BitVec.ofNat 128 (leNat bs)) none with
      | (.wait, s1) => .wait (some 3) s1
      | (.fault _ a _, s1) => .done (raiseTrap s1 t trapXlate a)
      | (.guard, s1) =>
        let s2 := guardTrap s1 t
        .done (if (s2.seq t).trap then s2 else advance s2 t)
      | (.reject, s1) => .done (advance s1 t)
      | (.queued, s1) => .done (advance s1 t)

/-- A command of the tile, scrubs apart, that was launched before ord. -/
def cmdBefore (t : Tile) (ord : Nat) (c : EngCmd) : Bool := c.tile == t && !c.scrub && decide (c.ord < ord)

/-- Body of ENG.WAIT: every command issued before it has completed. -/
def bodyEngWait (t : Tile) (gd : GReg) (s : State) : Ans :=
  let q := s.seq t
  let ord := if q.stall.isSome then q.stallOrd else (s.mem t).launch
  if (s.mem t).engQ.any (cmdBefore t ord) || s.banks.any (fun b => b.2.queue.any (cmdBefore t ord)) then
    .wait (some (if fostered s t then 4 else 3)) s
  else .done (advance (s.setG t gd (if (s.mem t).engErr then 1 else 0)) t)

/-- ENG.ISSUE. -/
def execEngIssue (t : Tile) (gr : GReg) (s : State) : Res := issueWait t s (.engIssue t gr) (bodyEngIssue t gr)
/-- ENG.WAIT. -/
def execEngWait (t : Tile) (gd : GReg) (s : State) : Res := issueWait t s (.engWait t gd) (bodyEngWait t gd)

/-- An entry presented to the tile's controller. A translation fault is the requester's to act on; the entry is not
accepted. A guard hit is a breach by the tile (R47, R49). -/
def execEngEntryAccept (t : Tile) (entry : BitVec 128) (s : State) : Res :=
  .next <| if fieldRuns s (tileField t) then
      match engSubmit s t entry none with
      | (.guard, s1) => guardTrap s1 t
      | (_, s1) => s1
    else s

/-- Engines of the field work: FCLK runs and self-refresh has exited (R160). -/
def engAwake (s : State) (t : Tile) : Bool := fieldRuns s (tileField t) && !(s.fld (tileField t)).selfRefresh

/-- The engine of a bank starts the command at the head of its queue where that is of sub-op op, and its layer is not
excluded. -/
def engStart (t : Tile) (bank : Fin 32) (op : Nat) (s : State) : Res :=
  .next <|
    let k := bankKey s t bank.val
    match (s.bank k).queue with
    | c :: _ =>
      if eOp c.entry = op && c.tile == t && !(s.bank k).running && engAwake s t && !bankExcluded s k then
        s.modBank k fun b => { b with running := true }
      else s
    | [] => s

def execWadd (t : Tile) (bank : Fin 32) (s : State) : Res := engStart t bank 1 s
def execWscale (t : Tile) (bank : Fin 32) (s : State) : Res := engStart t bank 2 s
def execWaxpy (t : Tile) (bank : Fin 32) (s : State) : Res := engStart t bank 3 s
def execWreduce (t : Tile) (bank : Fin 32) (s : State) : Res := engStart t bank 4 s
def execWfill (t : Tile) (bank : Fin 32) (s : State) : Res := engStart t bank 5 s
def execWcopy (t : Tile) (bank : Fin 32) (s : State) : Res := engStart t bank 6 s
def execWxpnd (t : Tile) (bank : Fin 32) (s : State) : Res := engStart t bank 7 s
def execWscrub (t : Tile) (bank : Fin 32) (s : State) : Res := engStart t bank 8 s

/-! ## Scrub (R159) -/

def scrubStartReg (t : Tile) : Nat := tilePage t 9 + 0x074
def scrubLenReg (t : Tile) : Nat := tilePage t 9 + 0x078

/-- Start a scrub: one WSCRUB for every bank concerned, passed to each bank as its queue has room. -/
def scrubBegin (s : State) (t : Tile) (a n : Nat) : State :=
  let banks := (List.finRange 32).filter fun b => (scrubShare a n b.val).isSome
  scrubFeed (s.modMem t fun m =>
    { m with scrub := some { start := a, len := n, at0 := tcyc s t, banks := banks, ce := 0, ue := 0, first := none, todo := banks } }) t

/-- A write of SCRUB_START: go starts a scrub, or the start is rejected whole while one runs, for a range that leaves the
well, or for a length of 0. -/
def execScrubStart (m : Master) (t : Tile) (v : BitVec 32) (s : State) : Res :=
  .next <| owned s m (scrubStartReg t) v.toNat fun s =>
    let s1 := s.setReg (scrubStartReg t) (v &&& 0x7FFFFF)
    let n := (fld (s.reg (scrubLenReg t)) 0 24).toNat
    let a := (fld v 0 23).toNat
    if !bit v 31 then s1
    else if (s.mem t).scrub.isSome ∨ n = 0 ∨ 0x800000 < a + n then setEvt s (tilePage t 9) 6
    else scrubBegin s1 t a n

/-- A scrub ends when every bank has done its share. -/
def execScrubDone (t : Tile) (s : State) : Res :=
  .next <|
    match (s.mem t).scrub with
    | some x => if x.banks.isEmpty then scrubSummary s t x else s
    | none => s

end Sys2Proof.Machine
end

