-- ==== Sys2Proof/Machine/Dma.lean ====
section
/-!
DEFINITION. DMA channels (R120 … R136): the instructions of Table 5.4, the start of a descriptor, its granules in walk
order, stops and completion, and the actions of Table 5.8.
-/

namespace Sys2Proof.Machine

/-! ## Stops (R126, R133, R134) -/

/-- The channel holds no source granule any more. -/
def dropBuf (s : State) (t : Tile) (ch : Chan) : State := s.modDma t ch fun c => { c with buf := [] }

/-- HALT_DESC. -/
def haltDesc (s : State) (t : Tile) (ch : Chan) (d : DmaDesc) : State :=
  let s1 := putProg (setDmaState (dropBuf s t ch) t ch 4) t ch d (progWord (s.dma t ch).done d.tag 4 false 0)
  setEvt (endTag s1 t ch d.tag 2) (dmaPage t ch) 3

/-- Fault hold. -/
def faultHold (s : State) (t : Tile) (ch : Chan) (d : DmaDesc) (side : Bool) (cause a : Nat) : State :=
  let s1 := putProg (setDmaState s t ch 2) t ch d (progWord (s.dma t ch).done d.tag 2 side cause)
  setEvt ((putFaddr s1 t ch a).count (dmaPage t ch + 0x058) 1) (dmaPage t ch) 1

/-- Why a read for a channel failed (R134): bytes of its own or of another tile's cistern, an error completion of an
access to a cistern, or well or host data. -/
inductive DmaUe where
  | own (o n : Nat) | well (dpa : Nat) | remote (w : Tile) (o : Nat) | route | hostMem (dpa : Nat)
  deriving DecidableEq, Repr

/-- DMA_STS.ue_src. -/
def DmaUe.code : DmaUe → Nat
  | .own _ _ => 0 | .well _ => 1 | .remote _ _ => 2 | .route => 2 | .hostMem _ => 3

/-- HALT_UE. -/
def haltUe (s : State) (t : Tile) (ch : Chan) (d : DmaDesc) (a : Nat) (u : DmaUe) : State :=
  let s1 := (setDmaState (dropBuf s t ch) t ch 3).modReg (dmaSts t ch) fun w => setFld w 15 (BitVec.ofNat 2 u.code)
  let s2 := putProg s1 t ch d (progWord (s.dma t ch).done d.tag 3 false 0)
  let s3 := setEvt (endTag (countUe (putFaddr s2 t ch a) (dmaPage t ch) 1) t ch d.tag 1) (dmaPage t ch) 2
  match u with
  | .own o n => cistFault s3 t t o n
  | .remote w o => cistFault s3 t w o 64
  | .route => softFault s3 t
  | .well dpa | .hostMem dpa => holdUnabsorbed s3 t (.data dpa)

/-! ## Completion (R124, R129, R132) -/

/-- The head of the queue leaves the channel. -/
def popDma (s : State) (t : Tile) (ch : Chan) : State :=
  (setDmaState s t ch 0).modDma t ch fun c => { c with queue := c.queue.drop 1, started := false, done := 0, buf := [] }

/-- A descriptor completes: prefix table, progress word, event, and its chain. -/
def dmaComplete (s : State) (t : Tile) (ch : Chan) (d : DmaDesc) : State :=
  let s0 := if dMode d = 5 then cistWrite s t (mcDma ch) (dPar d 5 0 22) (rgPrefix (s.mem t).cist d) else s
  let s1 := putProg s0 t ch d (progWord (s.dma t ch).done d.tag 0 false 0)
  let s2 := if dEvt d then setEvt s1 (dmaPage t ch) 0 else s1
  if dChain d then
    let put := fun (s : State) (w : Line) => s.modDma t ch fun c =>
      { c with queue := { d with w := w, off := dNext d, ents := [] } :: c.queue.drop 1, started := false, done := 0, buf := [] }
    match cistRead s2 t (mcDma ch) (dNext d) 64 with
    | (some bs, s3) => put (setDmaState s3 t ch 0) (bytesLine bs)
    | (none, s3) => haltUe (put s3 d.w) t ch { d with off := dNext d } (dNext d) (.own (dNext d) 64)
  else popDma (endTag s2 t ch d.tag 0) t ch

/-- No command that the channel's list issued is still queued or executing (R151). -/
def listIdle (s : State) (t : Tile) (ch : Chan) : Bool :=
  let mine := fun (c : EngCmd) => c.tile == t && c.list == some ch
  !((s.mem t).engQ.any mine || s.banks.any fun b => b.2.queue.any mine)

/-- The head of the queue holds what the walk has read of its table. -/
def putEnts (s : State) (t : Tile) (ch : Chan) (l : List (Nat × Nat)) : State :=
  s.modDma t ch fun c =>
    { c with queue := match c.queue with
        | d :: r => { d with ents := l } :: r
        | [] => [] }

/-- What the read of table entries of the own cistern gives (R44, R134): it waits for a transfer due into them, it halts
the channel at an uncorrectable one, or they are read, and what is correctable is counted. -/
def dmaTabs (s : State) (t : Tile) (ch : Chan) (d : DmaDesc) (tabs : List (Nat × Nat)) (k : State → State) : State :=
  match tabs.find? fun x => owes s t d.ord x.1 x.2 with
  | some _ => s
  | none =>
    match tabs.find? fun x => cistBad s t x.1 x.2 with
    | some x => haltUe (cistNote s t (mcDma ch) x.1 x.2) t ch d x.1 (.own x.1 x.2)
    | none => k (s.each tabs fun s x => cistNote s t (mcDma ch) x.1 x.2)

/-- Complete the head where its walk is over. A ragged walk first reads the empty entries at its end (R165). -/
def dmaCheckEnd (s : State) (t : Tile) (ch : Chan) (d : DmaDesc) : State :=
  if dmaCount (s.mem t).cist d ≤ (s.dma t ch).done ∧ (dMode d ≠ 6 ∨ listIdle s t ch) then
    if dMode d = 5 then
      dmaTabs s t ch d (rgUnread d (rgS d)) fun s1 => dmaComplete s1 t ch { d with ents := rgEnts (s.mem t).cist d (rgS d) }
    else dmaComplete s t ch d
  else s

/-! ## Granules -/

/-- Where a granule of a channel lies. -/
inductive DmaLoc where
  | own (o : Nat)
  | remote (w : Tile) (o : Nat)
  | well (w : Tile) (o : Nat)
  deriving DecidableEq, Repr

/-- Locate an address of a space; an unmapped one is an access fault, cause 1 (R32, R133). -/
def dmaLoc (s : State) (t : Tile) (ch : Chan) (sp : Bool) (a : Nat) (wr : Bool) : Except Nat DmaLoc × State :=
  if !sp then (.ok (.own a), s)
  else
    match xlate s t (.dma ch) a wr with
    | (.error c, s1) => (.error c, s1)
    | (.ok x, s1) =>
      match placeOf x with
      | .well w o => (.ok (.well w o), s1)
      | .cist w o => (.ok (if w = t then .own o else .remote w o), s1)
      | _ => (.error 1, unmapped s1 x (.tile t))

/-- Locate every source granule, or the first fault and its address. -/
def dmaLocs (s : State) (t : Tile) (ch : Chan) (sp : Bool) :
    List Nat → Except (Nat × Nat) (List (Nat × DmaLoc)) × State
  | [] => (.ok [], s)
  | a :: l =>
    match dmaLoc s t ch sp a false with
    | (.error c, s1) => (.error (c, a), s1)
    | (.ok x, s1) =>
      match dmaLocs s1 t ch sp l with
      | (.ok r, s2) => (.ok ((a, x) :: r), s2)
      | (.error f, s2) => (.error f, s2)

/-- What a read for a channel gives: data, nothing yet (a transfer due under R44, or a back-invalidate), or an error. -/
inductive DmaGot where
  | data (d : Line)
  | busy
  | ue (u : DmaUe)
  deriving DecidableEq, Repr

def line0 (_ : Nat) : Line := 0

/-- Read one source granule (R125, R134, R46). -/
def dmaRead (s : State) (t : Tile) (ch : Chan) (ord : Nat) : DmaLoc → DmaGot × State
  | .own o =>
    if owes s t ord o 64 then (.busy, s)
    else match cistRead s t (mcDma ch) o 64 with
      | (some bs, s1) => (.data (bytesLine bs), s1)
      | (none, s1) => (.ue (.own o 64), s1)
  | .remote w o =>
    match routeGate s (.dma t ch) t (.cist w) false with
    | (.wait, s1) => (.busy, s1)
    | (.err, s1) => (.ue .route, s1)
    | (.go, s1) =>
      match cistRead s1 w mcRemote o 64 with
      | (some bs, s2) => (.data (bytesLine bs), s2)
      | (none, s2) => (.ue (.remote w o), s2)
  | .well w o =>
    let g := homeDpa w o / 64
    match snoopGate s t w o false with
    | (false, s1) => (.busy, s1)
    | (true, s1) =>
      let s2 := if w = t ∧ !fostered s1 t then slotUse s1 t (1 + ch.val) else s1
      if sbHolds s2 t g 0 64 then (.data (sbOver s2 t g 0), s2)
      else
        match routeGate s2 (.dma t ch) t (.well w o) false with
        | (.wait, s3) => (.busy, s3)
        | (.err, s3) => (.ue (.well (homeDpa w o)), s3)
        | (.go, s3) =>
          let hostLost := s3.hub.biPoison.contains (wellGran (homeShaft s3 w) o)
          match wellFetch s3 t w o with
          | (some d, s4) => (.data (sbOver s4 t g d), s4)
          | (none, s4) => (.ue (if hostLost then .hostMem (homeDpa w o) else .well (homeDpa w o)), s4)

/-- Read every source granule in order into the channel; stop at the first that gives no data. -/
def dmaReads (s : State) (t : Tile) (ch : Chan) (ord : Nat) : List (Nat × DmaLoc) → Except (Option (Nat × DmaUe)) Unit × State
  | [] => (.ok (), s)
  | (a, x) :: l =>
    match dmaRead s t ch ord x with
    | (.busy, s1) => (.error none, s1)
    | (.ue u, s1) => (.error (some (a, u)), s1)
    | (.data d, s1) => dmaReads (s1.modDma t ch fun c => { c with buf := SMap.ins c.buf a d }) t ch ord l

/-- The byte at an address of the granules read. -/
def readByte (m : SMap Line) (a : Nat) : Byte :=
  BitVec.ofNat 8 (lineLe (SMap.get line0 m (a / 64 * 64)) (a % 64) 1)

/-- A destination run cut at granule bounds: addresses and lengths. A run in the own cistern is one piece. -/
def dstPieces (sp : Bool) (a n : Nat) : List (Nat × Nat) :=
  if !sp then [(a, n)]
  else (List.range ((a + n - 1) / 64 - a / 64 + 1)).map fun i =>
    let lo := max a ((a / 64 + i) * 64)
    (lo, min (a + n) ((a / 64 + i + 1) * 64) - lo)

/-- Locate the destination pieces, or the first fault. -/
def dstLocs (s : State) (t : Tile) (ch : Chan) (sp : Bool) :
    List (Nat × Nat) → Except (Nat × Nat) (List (DmaLoc × Nat × Nat)) × State
  | [] => (.ok [], s)
  | (a, n) :: l =>
    match dmaLoc s t ch sp a true with
    | (.error c, s1) => (.error (c, a), s1)
    | (.ok x, s1) =>
      match dstLocs s1 t ch sp l with
      | (.ok r, s2) => (.ok ((x, a, n) :: r), s2)
      | (.error f, s2) => (.error f, s2)

/-- Write one piece; none where it has to wait, for a full store buffer or a back-invalidate. -/
def dmaPut (s : State) (t : Tile) (ch : Chan) (x : DmaLoc) (bs : Bytes) : Bool × State :=
  match x with
  | .own o => (true, cistWrite s t (mcDma ch) o bs)
  | .remote w o =>
    match routeGate s (.dma t ch) t (.cist w) true with
    | (.wait, s1) => (false, s1)
    | (.err, s1) => (true, s1)
    | (.go, s1) => (true, cistWrite s1 w mcRemote o bs)
  | .well w o =>
    match snoopGate s t w o true with
    | (false, s1) => (false, s1)
    | (true, s1) =>
      let (d, m) := placeLe (o % 64) bs.length (leNat bs)
      match sbPut s1 t (homeDpa w o / 64) d m with
      | some s2 => (true, s2)
      | none => (false, s1)

/-- Every destination in a well has answered its back-invalidates, and the store buffer has room for all of them. -/
def dmaReady (s : State) (t : Tile) (ch : Chan) (l : List (DmaLoc × Nat × Nat)) : Bool × State :=
  let wells := l.filterMap fun x => match x.1 with | .well w o => some (w, o) | _ => none
  let fresh := wells.filter fun x => (sbFind s t (homeDpa x.1 x.2 / 64)).isNone
  if 64 < (s.mem t).sb.length + fresh.length then (false, sbStall s t ch)
  else wells.foldl (fun acc x => let r := snoopGate acc.2 t x.1 x.2 true; (acc.1 && r.1, r.2)) (true, s)

/-- Write every piece of a granule. A piece the step guard hits is dropped (R49). -/
def dmaPuts (s : State) (t : Tile) (ch : Chan) (dsp : Bool) (base : Nat) (bs : Bytes) :
    List (DmaLoc × Nat × Nat) → Bool × State
  | [] => (true, s)
  | (x, a, n) :: l =>
    if dsp && guardHit s t a n then dmaPuts (guardBreach s t) t ch dsp base bs l
    else
      match dmaPut s t ch x ((bs.drop (a - base)).take n) with
      | (false, s1) => (false, s1)
      | (true, s1) => dmaPuts s1 t ch dsp base bs l

/-- Count what a granule moved: granules done, bytes, and the bank slots of fill and copy (R131). -/
def dmaCounted (s : State) (t : Tile) (ch : Chan) (d : DmaDesc) (len : Nat) (dropped : Bool) : State :=
  let k := if dMode d = 7 ∨ dMode d = 8 then len / 64 else 1
  let s1 := s.modDma t ch fun c => { c with done := c.done + k }
  let s2 := if dropped then s1 else s1.count (dmaPage t ch + 0x05C) k
  if dMode d = 7 then s2.count (tilePage t 4 + 0x048) 4
  else if dMode d = 8 then s2.count (tilePage t 4 + 0x048) (2 * k)
  else s2

/-- A granule has been moved: the channel keeps of its source granules those that the skew buffer goes on to use. -/
def keepBuf (s : State) (t : Tile) (ch : Chan) (d : DmaDesc) (g : Nat) : State :=
  s.modDma t ch fun c => { c with buf := if dMode d = 3 then c.buf.filter fun e => (skewKeep d g).contains e.1 else [] }

/-- Move the bytes of a planned granule. Where it has to wait, the state so far stands and done does not advance. -/
def dmaPass (s : State) (t : Tile) (ch : Chan) (d : DmaDesc) (g : Gran) : State :=
  let held := fun (a : Nat) => (s.dma t ch).buf.any (·.1 == a)
  match dmaLocs s t ch (dSsp d) (g.srcs.filter fun a => !held a) with
  | (.error (c, a), s1) => faultHold s1 t ch d false c a
  | (.ok srcs, s1) =>
    match dstLocs s1 t ch (dDsp d) (dstPieces (dDsp d) g.dst g.len) with
    | (.error (c, a), s2) => faultHold s2 t ch d true c a
    | (.ok dsts, s2) =>
      match dmaReads s2 t ch d.ord srcs with
      | (.error none, s3) => s3
      | (.error (some (a, u)), s3) => haltUe s3 t ch d a u
      | (.ok _, s3) =>
        let dropped := dDsp d && guardHit s3 t g.dst g.len
        match dmaReady s3 t ch (dsts.filter fun x => !(dDsp d && guardHit s3 t x.2.1 x.2.2)) with
        | (false, s4) => s4
        | (true, s4) =>
          match dmaPuts s4 t ch (dDsp d) g.dst (g.data (readByte (s3.dma t ch).buf)) dsts with
          | (false, s5) => s5
          | (true, s5) =>
            dmaCheckEnd (dmaCounted (keepBuf s5 t ch d (s.dma t ch).done) t ch d g.len dropped) t ch d

/-- Move one planned granule: its table entries are read first, and a row that leaves the cistern halts the channel. -/
def dmaMove (s : State) (t : Tile) (ch : Chan) (d : DmaDesc) (g : Gran) : State :=
  dmaTabs s t ch d g.tabs fun s1 =>
    let l := entsAt (s.mem t).cist d (s.dma t ch).done
    let d1 := { d with ents := l }
    let s2 := putEnts s1 t ch l
    if g.bad then haltDesc s2 t ch d1 else dmaPass s2 t ch d1 g

/-- An access of a copy stops short of a granule that cannot be read, so that every granule before it is complete (R132). -/
def cutCopy (s : State) (t : Tile) (d : DmaDesc) (g : Gran) : Gran :=
  let i := (g.srcs.findIdx fun a => cistBad s t a 64)
  if dMode d = 8 ∧ 0 < i ∧ i < g.srcs.length then
    moveGran d [] (dSrc d + ((g.srcs.headD 0 : Nat) - (dSrc d : Int))) (g.dst : Int) (64 * i)
  else g

/-- Issue the next entry of a command list (R130, R151, R133). -/
def dmaList (s : State) (t : Tile) (ch : Chan) (d : DmaDesc) (done : Nat) : State :=
  let off := dSrc d + 16 * done
  if owes s t d.ord off 16 then s
  else
    match cistRead s t (mcDma ch) off 16 with
    | (none, s1) => haltUe s1 t ch d off (.own off 16)
    | (some bs, s1) =>
      match engSubmit s1 t (BitVec.ofNat 128 (leNat bs)) (some ch) with
      | (.wait, s2) => s2
      | (.fault c a side, s2) => faultHold s2 t ch d side c a
      | (r, s2) =>
        let s3 := if r = .guard then guardTrap s2 t else s2
        dmaCheckEnd (s3.modDma t ch fun c => { c with done := done + 1 }) t ch d

/-- The channel can work: its field runs, its tile is not fenced and not being saved. -/
def dmaLive (s : State) (t : Tile) : Bool := fieldRuns s (tileField t) && !(s.seq t).fenced && !saving s t

/-- One granule, entry or access of the running descriptor, in walk order. -/
def dmaStep (s : State) (t : Tile) (ch : Chan) : State :=
  let c := s.dma t ch
  match c.queue with
  | [] => s
  | d :: _ =>
    if !c.started || dmaState s t ch != 1 || !dmaLive s t then s
    else if dMode d = 6 then (if c.done < dPar d 3 0 16 then dmaList s t ch d c.done else s)
    else
      let (n, s1) := (sbStallCount s t ch).fresh
      match dmaAt (s.mem t).cist d c.done (Config.freeBits n).toNat with
      | some g => dmaMove s1 t ch d (cutCopy s t d g)
      | none => dmaCheckEnd s t ch d

/-- Start the descriptor at the head of the queue where its mode is among those asked for (R126). -/
def dmaBegin (s : State) (t : Tile) (ch : Chan) (mode : DmaDesc → Bool) : State :=
  let c := s.dma t ch
  match c.queue with
  | [] => s
  | d :: _ =>
    if c.started || dmaState s t ch != 0 || !mode d || !dmaLive s t then s
    else
      let s1 := (setDmaState s t ch 1).modDma t ch fun c => { c with started := true, done := 0, buf := [] }
      let s2 := (s1.modReg (dmaSts t ch) fun w => setFld w 7 d.tag).setReg (dmaPage t ch + 0x060) (BitVec.ofNat 32 d.off)
      if dmaValid d then dmaCheckEnd s2 t ch d else haltDesc s2 t ch d

/-! ## Actions (Table 5.8) -/

/-- Resume: out of fault hold; the stop granule is translated again. -/
def dmaResume (s : State) (t : Tile) (ch : Chan) : State :=
  if dmaState s t ch = 2 then setDmaState s t ch 1 else s

/-- Clear: a halted descriptor ends; its status stands. -/
def dmaClear (s : State) (t : Tile) (ch : Chan) : State :=
  if dmaState s t ch = 3 ∨ dmaState s t ch = 4 then popDma s t ch else s

/-! ## Instructions (R122, R123) -/

/-- Body of DMA.GO. -/
def bodyDmaGo (t : Tile) (ch : Chan) (gr : GReg) (tag : BitVec 8) (s : State) : Ans :=
  let off := (s.g t gr).toNat
  if 8 ≤ (s.dma t ch).queue.length ∧ off % 64 = 0 ∧ off + 64 ≤ cistSize then .wait (some 3) s
  else
    fetchOwn s t off 64 64 fun s bs =>
      let (o, s1) := nextLaunch s t
      .done (advance (s1.modDma t ch fun c =>
        { c with queue := c.queue ++ [{ w := bytesLine bs, off := off, tag := tag, ord := o, ents := [] }] }) t)

/-- A descriptor with the tag has neither completed nor halted. -/
def tagOut (s : State) (t : Tile) (ch : Chan) (tag : BitVec 8) : Bool :=
  let c := s.dma t ch
  (if 3 ≤ dmaState s t ch then c.queue.drop 1 else c.queue).any (·.tag == tag)

/-- Body of DMA.WAIT. -/
def bodyDmaWait (t : Tile) (ch : Chan) (all : Bool) (gd : GReg) (tag : BitVec 8) (s : State) : Ans :=
  let c := s.dma t ch
  if all then
    if c.queue.isEmpty then .done (advance (s.setG t gd (c.lastEnded.setWidth 32)) t) else .wait (some 3) s
  else if tagOut s t ch tag then .wait (some 3) s
  else .done (advance (s.setG t gd ((SMap.get tag0 c.tags tag.toNat).setWidth 32)) t)

/-- DMA.GO. -/
def execDmaGo (t : Tile) (ch : Chan) (gr : GReg) (tag : BitVec 8) (s : State) : Res :=
  issueWait t s (.dmaGo t ch gr tag) (bodyDmaGo t ch gr tag)
/-- DMA.WAIT. -/
def execDmaWait (t : Tile) (ch : Chan) (all : Bool) (gd : GReg) (tag : BitVec 8) (s : State) : Res :=
  issueWait t s (.dmaWait t ch all gd tag) (bodyDmaWait t ch all gd tag)
/-- DMA.PROG: bits [31:0] of the live progress word, or of the last one written. -/
def execDmaProg (t : Tile) (ch : Chan) (gd : GReg) (s : State) : Res :=
  issue t s fun s =>
    let c := s.dma t ch
    advance (s.setG t gd (if c.started then BitVec.ofNat 32 c.done else s.reg (dmaPage t ch + 0x048))) t

end Sys2Proof.Machine
end

