-- ==== Sys2Proof/Machine/LoadStore.lean ====
section
/-!
DEFINITION. Loads and stores of the cistern and of partition virtual addresses (R357, R113, R44, R56, Table 5.3,
Table 6.2). The register space of R357 stands in Access.lean.
-/

namespace Sys2Proof.Machine

/-- Fields of class 0x08 that are undefined (R357): space 3, sx where it must be 0, an odd register of a pair, and an
access of 1 or 2 bytes to the register space. -/
def ldstIllegal (st : Bool) (gr ga : GReg) (size : BitVec 2) (sx : Bool) (space : BitVec 2) : Bool :=
  space == 3 || (sx && (st || decide (2 ≤ size.toNat))) || (size == 3 && oddReg gr)
    || (space != 0 && oddReg ga) || (space == 2 && decide (size.toNat < 2))

/-- Put a loaded value of n bytes into gr, or the pair from gr (R357). -/
def putLoad (s : State) (t : Tile) (gr : GReg) (n : Nat) (sx : Bool) (v : Nat) : State :=
  if n = 8 then (s.setG t gr (BitVec.ofNat 32 v)).setG t (nextReg gr) (BitVec.ofNat 32 (v / 2 ^ 32))
  else s.setG t gr (if sx then BitVec.ofInt 32 (sext (8 * n) v) else BitVec.ofNat 32 v)

/-- The value a store of n bytes writes (R357). -/
def storeVal (s : State) (t : Tile) (gr : GReg) (n : Nat) : Nat :=
  ((s.g t gr).toNat + if n = 8 then (s.g t (nextReg gr)).toNat * 2 ^ 32 else 0) % 256 ^ n

/-- A load completes with a value. -/
def loadDone (s : State) (t : Tile) (gr : GReg) (n : Nat) (sx : Bool) (v : Nat) : Ans :=
  .done (advance (putLoad s t gr n sx v) t)

/-- A load of n bytes of tile w's cistern for tile t: its own transfers are interlocked (R44). -/
def loadCist (s : State) (t w : Tile) (o n : Nat) (gr : GReg) (sx : Bool) (va : Nat) : Ans :=
  if t = w ∧ owes s t (s.mem t).launch o n then .wait (some 3) s
  else
    match routeGate s (.seq t) t (.cist w) false with
    | (.wait, s1) => .wait (some 3) s1
    | (.err, s1) => .done (raiseTrap s1 t trapLoadUe va)
    | (.go, s1) =>
      match cistRead s1 w (if t = w then mcSeq else mcRemote) o n with
      | (some bs, s2) => loadDone s2 t gr n sx (leNat bs)
      | (none, s2) => .done (raiseTrap s2 t trapLoadUe va)

/-- A load of n bytes at offset o of tile w's home well (R56, R254, Table 6.2). -/
def loadWell (s : State) (t w : Tile) (o n : Nat) (gr : GReg) (sx : Bool) (va : Nat) : Ans :=
  let g := homeDpa w o / 64
  match snoopGate s t w o false with
  | (false, s1) => .wait (some 3) s1
  | (true, s1) =>
    if sbHolds s1 t g (o % 64) n then loadDone s1 t gr n sx (lineLe (sbOver s1 t g 0) (o % 64) n)
    else
      match routeGate s1 (.seq t) t (.well w o) false with
      | (.wait, s2) => .wait (some (if w = t ∧ fostered s2 t then 4 else 3)) s2
      | (.err, s2) => .done (raiseTrap s2 t trapLoadUe va)
      | (.go, s2) =>
        match wellFetch s2 t w o with
        | (some d, s3) => loadDone s3 t gr n sx (lineLe (sbOver s3 t g d) (o % 64) n)
        | (none, s3) => .done (raiseTrap (holdUnabsorbed s3 t (.data (homeDpa w o))) t trapLoadUe va)

/-- Body of LOAD in spaces 0 and 1. -/
def bodyLoad (t : Tile) (gr ga : GReg) (size : BitVec 2) (sx : Bool) (space : BitVec 2) (imm : BitVec 9) (s : State) : Ans :=
  let n := sizeBytes size
  if ldstIllegal false gr ga size sx space then .done (trapNow s t trapIllegal)
  else if space = 0 then
    let x := cistOff s t ga imm n
    if x < 0 ∨ (cistSize : Int) < x + n ∨ x % n ≠ 0 then .done (raiseTrap s t trapAccess (BitVec.ofInt 32 x).toNat)
    else loadCist s t t x.toNat n gr sx x.toNat
  else
    let va := addr48 s t ga imm n
    if va % n ≠ 0 then .done (raiseTrap s t trapAccess va)
    else
      match xlate s t .seq va false with
      | (.error _, s1) => .done (raiseTrap s1 t trapXlate va)
      | (.ok a, s1) =>
        match placeOf a with
        | .well w o => loadWell s1 t w o n gr sx va
        | .cist w o => loadCist s1 t w o n gr sx va
        | _ => .done (raiseTrap (unmapped s1 a (.tile t)) t trapAccess va)

/-- A store into a home well enters the store buffer (R56); the write is snooped first (R254). -/
def storeWell (s : State) (t w : Tile) (o n v : Nat) : Ans :=
  match snoopGate s t w o true with
  | (false, s1) => .wait (some 3) s1
  | (true, s1) =>
    let (d, m) := placeLe (o % 64) n v
    match sbPut s1 t (homeDpa w o / 64) d m with
    | some s2 => .done (advance s2 t)
    | none => .wait (some 5) s1

/-- Body of STORE in spaces 0 and 1. A guard hit drops the write (R49); a cistern window waits for the older stores. -/
def bodyStore (t : Tile) (gr ga : GReg) (size : BitVec 2) (sx : Bool) (space : BitVec 2) (imm : BitVec 9) (s : State) : Ans :=
  let n := sizeBytes size
  let v := storeVal s t gr n
  if ldstIllegal true gr ga size sx space then .done (trapNow s t trapIllegal)
  else if space = 0 then
    let x := cistOff s t ga imm n
    if x < 0 ∨ (cistSize : Int) < x + n ∨ x % n ≠ 0 then .done (raiseTrap s t trapAccess (BitVec.ofInt 32 x).toNat)
    else .done (advance (cistWrite s t mcSeq x.toNat (toLe n v)) t)
  else
    let va := addr48 s t ga imm n
    if va % n ≠ 0 then .done (raiseTrap s t trapAccess va)
    else
      match xlate s t .seq va true with
      | (.error _, s1) => .done (raiseTrap s1 t trapXlate va)
      | (.ok a, s1) =>
        if guardHit s1 t va n then
          let s2 := guardBreach s1 t
          .done (if (s2.seq t).trap then s2 else advance s2 t)
        else
          match placeOf a with
          | .well w o => storeWell s1 t w o n v
          | .cist w o =>
            if !sbEmpty s1 t then .wait (some 3) s1
            else
              match routeGate s1 (.seq t) t (.cist w) true with
              | (.wait, s2) => .wait (some 3) s2
              | (.err, s2) => .done (advance s2 t)
              | (.go, s2) => .done (advance (cistWrite s2 w (if t = w then mcSeq else mcRemote) o (toLe n v)) t)
          | _ => .done (raiseTrap (unmapped s1 a (.tile t)) t trapAccess va)

end Sys2Proof.Machine
end

