-- ==== Sys2Proof/Machine/Settle.lean ====
section
/-!
DEFINITION. Stalled instructions go on: after an event that may free a tile, the instruction it stands at is tried
again. LOAD and STORE of the register space stand in Access.lean; WAIT is freed by the release of its weir (R203).
-/

namespace Sys2Proof.Machine

/-- The body of an instruction that may wait. -/
def waitBody : Instr → Option (State → Ans)
  | .ibufSwap t => some (bodySwap t)
  | .mmFull t p a ga gm gd f => some (bodyMm t .full p a ga gm gd f)
  | .mmHalf t p a ga gm gd f => some (bodyMm t .half p a ga gm gd f)
  | .mmQuad t p a ga gm gd f => some (bodyMm t .quad p a ga gm gd f)
  | .mmNarrow t p a ga gm gd f => some (bodyMm t .narrow p a ga gm gd f)
  | .mmLdb t sh f gb gn => some (bodyLdb t sh f gb gn)
  | .mmRdout t gs gc f gk clr int => some (bodyRdout t gs gc f gk clr int)
  | .mmWait t => some (bodyMmWait t)
  | .vld t vd ga => some (bodyVld t vd ga)
  | .dmaGo t ch gr tag => some (bodyDmaGo t ch gr tag)
  | .dmaWait t ch all gd tag => some (bodyDmaWait t ch all gd tag)
  | .engIssue t gr => some (bodyEngIssue t gr)
  | .engWait t gd => some (bodyEngWait t gd)
  | .fence t => some (bodyFence t)
  | .arrive t h gn gd => some (bodyArrive t h gn gd)
  | .arriveStep t h gd => some (bodyArriveStep t h gd)
  | .load t gr ga size sx space imm => if space = 2 then none else some (bodyLoad t gr ga size sx space imm)
  | .store t gr ga size sx space imm => if space = 2 then none else some (bodyStore t gr ga size sx space imm)
  | _ => none

/-- The tile can act on its stalled instruction. -/
def canResume (s : State) (t : Tile) : Bool :=
  fieldRuns s (tileField t) && !halted s t && !(s.seq t).dark && !(s.seq t).fenced && !(s.seq t).trap && !dbgStopped s t && !saving s t

/-- Try the stalled instruction of a tile again. The cycles it has stood are counted first; where it still waits it
stands on, under the counter its wait now has. An arrival that commits the step leaves the tile at the next step's swap. -/
def resume (s : State) (t : Tile) : State :=
  match (s.seq t).stall.bind waitBody with
  | none => s
  | some body =>
    if !canResume s t then s
    else
      let s1 := countStall s t
      match body s1 with
      | .wait n s2 => s2.modSeq t fun q => { q with stallAt := tcyc s2 t, stallCtr := n }
      | .done s2 =>
        if (s2.seq t).stall = (s.seq t).stall then boundary (s2.modSeq t fun q => { q with stall := none }) t else s2

/-- What may follow an event at a tile: its array queue moves on, and its stalled instruction. -/
def settle (s : State) (t : Tile) : State := resume (pumpArr s t) t

/-- Settle every tile that stands at an instruction or has work in its array queue. -/
def settleAll (s : State) : State :=
  s.each s.cores fun s e => if h : e.1 < 4224 then (if e.2.seq.stall.isSome || !e.2.arr.queue.isEmpty then settle s ⟨e.1, h⟩ else s) else s

end Sys2Proof.Machine
end

