-- ==== Sys2Proof/Machine/Fabric.lean ====
section
/-!
DEFINITION. What arbiters do in a tick (R184 … R188), their control registers (R190, R192), transfers held at seams (R28), and the maps of a field (R15, R17, R25).
-/

namespace Sys2Proof.Machine

/-! ## Arbiters -/

/-- The host port of a held host request. -/
def heldPort : Instr → Option HostPort
  | .hostMemoryRead h _ _ _ | .hostMemoryWrite h _ _ | .hostWriteback h _ _ _ => some h
  | _ => none

/-- The access a request is for still waits: its tile stands at it, its channel runs, its buffer holds granules, its host
command is held. -/
def stillWaits (s : State) (r : ArbReq) : Bool :=
  match r.who with
  | .seq t => (s.seq t).stall.isSome && canResume s t
  | .sb t => !sbEmpty s t && fieldRuns s (tileField t)
  | .dma t ch => (s.dma t ch).started && dmaState s t ch == 1 && dmaLive s t
  | .mirror t => fieldRuns s (tileField t) && (s.mem t).sb.any fun e => e.written && mirrorDue s e
  | .host h => s.hub.held.any fun i => heldPort i == some h
  | .port _ => false

/-- An empty grant (R184): the output carries nothing and no other requester uses the cycle. -/
def emptyGrant (s : State) (pg : Nat) (r : ArbReq) : State :=
  let s1 := (s.modArb pg fun a => { a with reqs := a.reqs.erase r, ptr := SMap.set zeroN a.ptr r.cls r.port }).count (pg + 0x04C) 1
  s1.each ((visible (s.arb pg)).erase r) fun s x => loseArb s pg x

/-- The requests that a decision sees, after those withdrawn before any decision saw them have left (R184). -/
def arbSee (s : State) (pg : Nat) : State :=
  s.modArb pg fun a => { a with reqs := (a.reqs.filter fun r => r.seen || stillWaits s r).map fun r => { r with seen := true } }

/-- What an arbiter does in n ≠ 0 cycles of its clock beside the grants that accesses take: frozen, it counts the cycles in
which a request is visible and held; else a request that was withdrawn and is its choice receives its grant empty
(log 87). -/
def arbDecide (s : State) (pg n : Nat) : State :=
  if portFrozen s pg then
    let s1 := s.modArb pg fun a => { a with reqs := a.reqs.filter (stillWaits s) }
    if (visible (s1.arb pg)).isEmpty then s1 else s1.count (pg + 0x058) n
  else
    let s1 := arbSee s pg
    match pick (s1.arb pg) (visible (s1.arb pg)) with
    | some r => if stillWaits s1 r then s1 else emptyGrant s1 pg r
    | none => s1

/-- A back-off timer runs out once its 2^k cycles are over: the request is raised again, frozen or not (R185, R188). -/
def execBackoffExpiry (pp : PortPage) (req : Nat) (s : State) : Res :=
  let pg := portPageAddr pp
  .next <| s.modArb pg fun a =>
    { a with reqs := a.reqs.map fun r => if r.port = req ∧ r.raise ≤ arbCyc s pg then { r with backing := false } else r }

/-! ## Freeze and drain (R188) -/

/-- Freeze a block. -/
def freezeOp (s : State) (pg : Nat) : State := s.setRbit (pg + 0x008) 1 true

/-- Release a port: decisions grant again, BLK_STS.drained clears, and what waited at the port goes on. -/
def releaseOp (s : State) (pg : Nat) : State :=
  settleAll ((s.setRbit (pg + 0x008) 1 false).setRbit (pg + 0x00C) 2 false)

/-- A write of a register of a port page under the OWNER rules; the page of an absent adapter or attach drops and counts it
(R189). -/
def portReg (s : State) (m : Master) (pg off v : Nat) (k : State → State) : State :=
  if pageExists pg then owned s m (pg + off) v k else unmapped s (pg + off) m

def execPortFreeze (m : Master) (pp : PortPage) (s : State) : Res :=
  let pg := portPageAddr pp
  .next <| portReg s m pg 0x008 2 fun s => safetyWrite s m (pg + 0x008) 2 false fun s => freezeOp s pg

/-- A seam adapter whose peer is stopped never drains (R188). -/
def peerStopped (s : State) : PortPage → Bool
  | .seam f a => match neighbour f a with
    | some b => !(s.fld b).absent && !fieldRuns s b
    | none => false
  | _ => false

/-- Nothing of Table 8.5 is in flight at a port: no granted transfer, at a well port no open merge entry, at an adapter no
entry of its queue. -/
def portIdle (s : State) (pp : PortPage) : Bool :=
  (s.arb (portPageAddr pp)).inflight.isEmpty &&
    match pp with
    | .wellPort f n => (s.fld f).merge.all fun e => shaftPlace e.shaft != n.val || decide (e.at0 + 8 < s.cyc f)
    | .seam f a => (s.fld f).held.all (·.adapter != a)
    | _ => true

/-- A port is drained: its in-flight transfers have completed. -/
def drainedOp (s : State) (pg : Nat) : State := setEvt (s.setRbit (pg + 0x00C) 2 true) pg 1

def execPortDrained (pp : PortPage) (s : State) : Res :=
  .next <|
    let pg := portPageAddr pp
    if portFrozen s pg && !s.rbit (pg + 0x00C) 2 && !peerStopped s pp && portIdle s pp then drainedOp s pg else s

/-- ARB_CTL (R190): kcap 9 … 15 is dropped whole. -/
def execArbCtlWrite (m : Master) (pp : PortPage) (v : BitVec 32) (s : State) : Res :=
  let pg := portPageAddr pp
  .next <| portReg s m pg 0x040 v.toNat fun s =>
    if 9 ≤ (fld v 0 4).toNat then setEvt s pg 2 else s.setReg (pg + 0x040) (v &&& 0xF)

/-- SEAM_CTL (R192): the service processor alone; it closes only a drained adapter. -/
def execSeamCtlWrite (m : Master) (f : Field) (ad : Adapter) (v : BitVec 32) (s : State) : Res :=
  let pg := seamPage f ad
  .next <|
    if m ≠ .svp then ownReject s m (pg + 0x080) v.toNat
    else if !adapterExists f ad then unmapped s (pg + 0x080) m
    else if !bit v 0 && s.rbit (pg + 0x080) 0 && !s.rbit (pg + 0x00C) 2 then setEvt s pg 2
    else settleAll (s.setReg (pg + 0x080) (v &&& 1))

/-- Transfers held at an adapter go on when the stopped field runs again, and come back with an error where it has been
marked absent (R28): the tile that waits tries again. -/
def execSeamHeldRelease (f : Field) (ad : Adapter) (s : State) : Res :=
  .next <|
    match neighbour f ad with
    | none => s
    | some b =>
      if fieldRuns s b || (s.fld b).absent then
        let l := (s.fld f).held.filter fun h => h.adapter == ad
        (s.modFld f fun x => { x with held := x.held.filter fun h => h.adapter != ad }).each l fun s h => settle s h.tile
      else s

/-! ## Maps of a field (R15, R17, R18) -/

/-- Every tile port of a segment reports drained. -/
def segDrained (s : State) (f : Field) (seg : Nat) : Bool :=
  (List.range 12).all fun j => s.rbit (tilePortPage f (seg * 12 + j) + 0x00C) 2

/-- R17 accepts a map value: every changed segment goes between 15 and a position, and is drained. -/
def mapOk (s : State) (f : Field) (old v : Word) : Bool :=
  (List.range 8).all fun g =>
    let a := segVal old g
    let b := segVal v g
    a == b || ((a == 15 || b == 15) && decide (b ≤ 11 ∨ b = 15) && segDrained s f g)

/-- A map write is rejected whole and logged. -/
def mapReject (s : State) (f : Field) (a : Nat) (m : Master) (v : Word) : State :=
  logEv (setEvt s (fieldPage f 0) 0) 4 17 (logUnit (partOfField s f) (some f)) a (some m) v.toNat

def execFldRemapWrite (m : Master) (f : Field) (v : BitVec 32) (s : State) : Res :=
  .next <|
    if m ≠ .svp then ownReject s m (fldRemap f) v.toNat
    else if mapOk s f (s.reg (fldRemap f)) v then remapOp s f v
    else mapReject s f (fldRemap f) m v

def execFldWmapWrite (m : Master) (f : Field) (v : BitVec 32) (s : State) : Res :=
  .next <|
    if m ≠ .svp then ownReject s m (fldWmap f) v.toNat
    else if mapOk s f (s.reg (fldWmap f)) v then s.setReg (fldWmap f) v
    else mapReject s f (fldWmap f) m v

def ltrim (f : Field) (sh : Nat) : Nat := fieldPage f 1 + 0x040 + 4 * sh

/-- LTRIM (R25). -/
def execLtrimWrite (m : Master) (f : Field) (shaft : Fin 96) (v : BitVec 32) (s : State) : Res :=
  .next <|
    let a := ltrim f shaft.val
    if m = .svp ∧ (!(s.fld f).fclkRun || (physCore s f (shaft.val / 12) (shaft.val % 12)).seq.fenced) then
      s.setReg a (v &&& 0x3FFFFFFF)
    else logEv s 4 25 (logUnit none (some f)) a (some m) v.toNat

end Sys2Proof.Machine
end

