-- ==== Sys2Proof/Machine/Transfer.lean ====
section
/-!
DEFINITION. Events of the transfers under way: fills of instruction halves (R36), B loads (R64), DMA descriptors and
their granules (R124 … R132), actions on channels (R135), ends of engine commands (R152, R154), write-backs, refresh
and twins (R118, R141, R145, R147), and VSLOT (R46).
-/

namespace Sys2Proof.Machine

/-! ## Fills and loads -/

/-- A fill of the next half from a code range completes (R36, R46). -/
def execIbufFillComplete (t : Tile) (src : BitVec 48) (s : State) : Res :=
  .next <|
    if dmaLive s t then
      let s1 := fillHalf s t (!activeHalf s t) src.toNat
      let n := fillUnsched s1 t src.toNat
      settle (if n = 0 then s1 else countCtr (breach s1 t 1) t 1 (n - 1)) t
    else s

/-- A shadow load completes (R64, R65). -/
def execBLoadComplete (t : Tile) (s : State) : Res :=
  .next <| if dmaLive s t then settle (bLoad s t) t else s

/-! ## DMA -/

/-- A channel starts the descriptor at its head, of the mode named. -/
def dmaStart (t : Tile) (ch : Chan) (s : State) (mode : DmaDesc → Bool) : Res := .next <| settle (dmaBegin s t ch mode) t

def execDmaLinear (t : Tile) (ch : Chan) (s : State) : Res := dmaStart t ch s fun d => dMode d == 0
def execDmaStrided (t : Tile) (ch : Chan) (s : State) : Res := dmaStart t ch s fun d => dMode d == 1
def execDmaGather (t : Tile) (ch : Chan) (s : State) : Res := dmaStart t ch s fun d => dMode d == 2 && !isScatter d
def execDmaScatter (t : Tile) (ch : Chan) (s : State) : Res := dmaStart t ch s fun d => dMode d == 2 && isScatter d
def execDmaSkew (t : Tile) (ch : Chan) (s : State) : Res := dmaStart t ch s fun d => dMode d == 3
def execDmaTranspose (t : Tile) (ch : Chan) (s : State) : Res := dmaStart t ch s fun d => dMode d == 4
def execDmaRaggedWalk (t : Tile) (ch : Chan) (s : State) : Res := dmaStart t ch s fun d => dMode d == 5
def execDmaEngineCommandList (t : Tile) (ch : Chan) (s : State) : Res := dmaStart t ch s fun d => dMode d == 6
def execDmaCisternFill (t : Tile) (ch : Chan) (s : State) : Res := dmaStart t ch s fun d => dMode d == 7
def execDmaCisternCopy (t : Tile) (ch : Chan) (s : State) : Res := dmaStart t ch s fun d => dMode d == 8
/-- Modes 0x9 … 0xF halt the channel at the start check (R126). -/
def execDmaModeUndefined (t : Tile) (ch : Chan) (s : State) : Res := dmaStart t ch s fun d => decide (9 ≤ dMode d)

/-- The next granule of the running descriptor in walk order. -/
def execDmaGranule (t : Tile) (ch : Chan) (s : State) : Res := .next <| settle (dmaStep s t ch) t

def dmaCtl (t : Tile) (ch : Chan) : Nat := dmaPage t ch + 0x040

/-- An action of Table 5.8: ordered by DMA.CTL, or by a write of DMA_CTL under the OWNER rules (R135). code is the bit
written. -/
def dmaAction (who : DmaOrder) (t : Tile) (ch : Chan) (code : Nat) (s : State) (act : State → State) : Res :=
  match who with
  | .instr => issue t s fun s => advance (pumpArr (act s) t) t
  | .reg m => .next <| owned s m (dmaCtl t ch) code fun s => settle (act s) t

def execDmaResume (who : DmaOrder) (t : Tile) (ch : Chan) (s : State) : Res := dmaAction who t ch 1 s (dmaResume · t ch)
def execDmaClear (who : DmaOrder) (t : Tile) (ch : Chan) (s : State) : Res := dmaAction who t ch 2 s (dmaClear · t ch)
def execDmaAbort (who : DmaOrder) (t : Tile) (ch : Chan) (s : State) : Res := dmaAction who t ch 4 s (dmaAbort · t ch)

/-! ## Engine commands (R152, R154) -/

/-- The effect of a finished command on its tile: an operand lost is an unabsorbed fault; evt raises an event; a scrub's
bank has done its share; a list may have ended. -/
def engEnded (s : State) (t : Tile) (bank : Nat) (c : EngCmd) (bad : Option Nat) : State :=
  let s1 := match bad with
    | some o => holdUnabsorbed (s.modMem t fun m => { m with engErr := true }) t (.data (homeDpa t o))
    | none => s
  let s2 := if eEvt c.entry then setEvt s1 (tilePage t 9) 0 else s1
  let s3 := if c.scrub then s2.modMem t fun m =>
      { m with scrub := m.scrub.map fun x => { x with banks := x.banks.filter (·.val != bank) } } else s2
  let s4 := scrubFeed (engPump s3 t) t
  match c.list with
  | none => s4
  | some ch =>
    match (s4.dma t ch).queue with
    | d :: _ => if dMode d = 6 ∧ (s4.dma t ch).started ∧ dmaState s4 t ch = 1 then dmaCheckEnd s4 t ch d else s4
    | [] => s4

/-- The twin bank of a command cannot work now: the command completes when both copies have (R153). -/
def twinAsleep (s : State) (t : Tile) (c : EngCmd) : Bool :=
  match cmdTwin s t c with
  | some x => wellsHeld s (tileField x.2)
  | none => false

/-- The command in execution at a bank of a tile's home well completes. -/
def execEngCommandComplete (t : Tile) (bank : Fin 32) (s : State) : Res :=
  .next <|
    let k := bankKey s t bank.val
    match (s.bank k).queue with
    | c :: _ =>
      if (s.bank k).running && c.tile == t && engAwake s t && !bankExcluded s k && !twinAsleep s t c then
        let r := engRun s t c
        let s1 := r.1.modBank k fun b => { b with queue := b.queue.drop 1, running := false }
        settle (engEnded s1 t bank.val c r.2) t
      else s
    | [] => s

/-! ## Write-back, refresh, twins -/

/-- A corrected quarter is written back; a write that came before has cancelled it (R118). -/
def execEccWriteBack (t : Tile) (quarter : Nat) (s : State) : Res :=
  .next <|
    if (s.mem t).writeBack.contains quarter then
      s.modMem t fun m => { m with writeBack := removeNat m.writeBack quarter, cistCe := removeNat m.cistCe quarter }
    else s

/-- The refresh of a frame in every well of a field, of bank n mod 32 for frame n, while FCLK runs: the bank takes no burst
in the 60 cycles that follow (R142); the frame counter goes on to the next frame (R141, log 28). -/
def execRefresh (f : Field) (s : State) : Res :=
  .next <| if fieldRuns s f && !(s.fld f).selfRefresh then s.modFld f fun x => { x with frame := x.frame + 1, refAt := some (s.cyc f) } else s

/-- Re-read an uncorrectable granule of a home well from its twin (R147). -/
def execTwinRetry (_t : Tile) (granule : BitVec 48) (s : State) : Res :=
  .next <|
    match placeOf (granule.toNat * 64) with
    | .well w o =>
      if s.wellUe.contains (wellGran (homeShaft s w) o) && fieldRuns s (tileField w) && !twinHeld s w o then (twinRetryOp s w o).2
      else s
    | _ => s

/-- A write of one word of TWIN[e] (R145): dropped while the tile is not halted; rejected where the entry would be valid
and one of the cases holds. A rewritten entry is broken no more (R147). -/
def execTwinWrite (m : Master) (t : Tile) (e : Fin 8) (word : Fin 4) (v : BitVec 32) (s : State) : Res :=
  .next <| owned s m (twinWord t e.val word.val) v.toNat fun s =>
    if !halted s t then s
    else
      let mask : Word := match word with | 0 => 0xFF | 1 => 0x1FF | 2 => 0x1FFF | 3 => 1
      twinPut s t e.val (s.setReg (twinWord t e.val word.val) (v &&& mask))

/-- VSLOT (R46): dropped whole while the tile is not halted, else put. -/
def execVslotWrite (m : Master) (t : Tile) (w : Fin 8) (v : BitVec 32) (s : State) : Res :=
  .next <| owned s m (tilePage t 9 + 0x040 + 4 * w.val) v.toNat fun s =>
    if !halted s t then setEvt (countUe s (tilePage t 9) 1) (tilePage t 9) 10 else vslotPut s t w v

end Sys2Proof.Machine
end

