-- ==== Sys2Proof/Machine/Pages.lean ====
section
/-!
DEFINITION. The header of every register page: events (R256), soft reset (R256), owner and lock (R257), the freeze bit
as a safety field (R188, R259).
-/

namespace Sys2Proof.Machine

/-- Event bits of a page. -/
def evtMask (page : Nat) : Word :=
  match rowOf (page + 0x010) with
  | some r => BitVec.ofNat 32 r.w1c
  | none => 0

/-- Pages without a header: the queue memory (R249), and the mailbox buffers (R347). -/
def bufferPage (page : Nat) : Bool :=
  match pageOf page with
  | .part _ n => decide (128 ≤ n ∧ n < 192)
  | .gov n => n == 9 || n == 10
  | _ => false

/-- Do k for a page with a header; an access to a reserved page is unmapped (R33, R189), and a page without a header has
no such register (log 1). -/
def withHeader (s : State) (m : Master) (page off : Nat) (k : State → State) : State :=
  if bufferPage page then s else if pageExists page then k s else unmapped s (page + off) m

/-- The same under the OWNER rules. -/
def onPage (s : State) (m : Master) (page off value : Nat) (k : State → State) : State :=
  withHeader s m page off fun s => owned s m (page + off) value k

/-- EVT_EN: enabling a bit that is already set raises one event. -/
def evtEnOp (s : State) (page : Nat) (v : Word) : State :=
  let a := page + 0x014
  let new := v &&& evtMask page
  let s1 := s.setReg a new
  if new &&& ~~~(s.reg a) &&& s.reg (page + 0x010) = 0 then s1 else raiseEvent s1 page

/-- EVT_INJ: the named bits are set, and each one that is enabled raises an event, set before or not. -/
def evtInjOp (s : State) (page : Nat) (v : Word) : State :=
  let w := v &&& evtMask page
  (s.modReg (page + 0x010) (· ||| w)).each ((List.range 32).filter fun i => bit w i && s.rbit (page + 0x014) i) fun s _ =>
    raiseEvent s page

/-- Acknowledge event bits by writing 1. -/
def evtStsOp (s : State) (page : Nat) (v : Word) : State := s.modReg (page + 0x010) fun w => w &&& ~~~(v &&& evtMask page)

def execEvtEnWrite (m : Master) (page : BitVec 48) (v : BitVec 32) (s : State) : Res :=
  let p := pageBase page.toNat
  .next <| onPage s m p 0x014 v.toNat fun s => evtEnOp s p v

def execEvtInj (m : Master) (page : BitVec 48) (v : BitVec 32) (s : State) : Res :=
  let p := pageBase page.toNat
  .next <| onPage s m p 0x01C v.toNat fun s => evtInjOp s p v

/-- OWNER (R257): the service processor at any time, a physical function while the page is not locked. -/
def ownerOp (s : State) (m : Master) (page : Nat) (v : Word) : State :=
  let ok := match m with
    | .svp => true
    | .pf _ => !s.rbit (page + 0x02C) 0
    | _ => false
  if ok then s.setReg (page + 0x028) (v &&& 0x3F) else ownReject s m (page + 0x028) v.toNat

/-- LOCK (R257): set by the owner, cleared by the service processor alone. A written 0 has no effect on a W1S bit
(Table 0.5), and R257 names no other way by which the service processor clears it: that its write of 0 clears the bit is
the model's choice (DESIGN CHOICE, log 91). -/
def lockOp (s : State) (m : Master) (page : Nat) (v : Word) : State :=
  if bit v 0 then owned s m (page + 0x02C) v.toNat fun s => s.setReg (page + 0x02C) 1
  else if m = .svp then s.setReg (page + 0x02C) 0
  else if s.rbit (page + 0x02C) 0 then ownReject s m (page + 0x02C) v.toNat
  else s

def execOwnerWrite (m : Master) (page : BitVec 48) (v : BitVec 32) (s : State) : Res :=
  let p := pageBase page.toNat
  .next <| withHeader s m p 0x028 fun s => ownerOp s m p v

def execLockWrite (m : Master) (page : BitVec 48) (v : BitVec 32) (s : State) : Res :=
  let p := pageBase page.toNat
  .next <| withHeader s m p 0x02C fun s => lockOp s m p v

/-! ## Soft reset -/

/-- Registers of a row list, as page offsets. -/
def rowOffs (r : RegRow) : List Nat := (List.range r.count).map fun i => r.off + i * r.stride

/-- A word with its RW bits at reset and its counters at 0. -/
def softWord (r : RegRow) (w : Word) : Word :=
  let rw := BitVec.ofNat 32 r.rw
  (w &&& ~~~(rw ||| BitVec.ofNat 32 r.rc)) ||| (BitVec.ofNat 32 r.reset &&& rw)

/-- Soft reset of one register; OWNER and LOCK stay. -/
def softReg (s : State) (a : Nat) (r : RegRow) : State :=
  if a % 0x1000 = 0x028 ∨ a % 0x1000 = 0x02C then s else s.modReg a (softWord r)

/-- What a soft reset changes beside the registers: a released port lets its traffic go, a field page writes its maps, a
weir map page gives its weirs back, a TWIN table is invalid. -/
def softSide (s : State) (page : Nat) : State :=
  match pageOf page with
  | .field f 0 => remapOp s f 0xFFFFFFFF
  | .field _ _ => settleAll (s.setRbit (page + 0x00C) 2 false)
  | .part p n => if 2 ≤ n ∧ n ≤ 5 then
      s.each ((mappedHandles s p).filter fun e => e.1 / 256 + 2 = n) fun s e => weirEntryPut s p e.1 0 0 else s
  | .tile t 9 => s.modMem t fun m => { m with resync := [] }
  | _ => s

/-- Soft reset of a page (R256). -/
def softReset (s : State) (page : Nat) : State :=
  let s1 := softSide s page
  match pageRows (pageOf page) with
  | none => s
  | some rows => s1.each rows fun s r => s.each (rowOffs r) fun s o => softReg s (page + o) r

def execSoftReset (m : Master) (page : BitVec 48) (s : State) : Res :=
  let p := pageBase page.toNat
  .next <| onPage s m p 0x008 4 fun s => softReset s p

/-! ## BLK_CTL -/

/-- A write of BLK_CTL: enable; freeze, whose release is relaxing (R259); soft_reset. -/
def blkCtlOp (s : State) (m : Master) (page : Nat) (v : Word) : State :=
  let a := page + 0x008
  let was := s.rbit a 1
  safetyWrite s m a v.toNat (was && !bit v 1) fun s =>
    let s1 := s.setRbit a 0 (bit v 0)
    let s2 := if bit v 1 then freezeOp s1 page else if was then releaseOp s1 page else s1
    if bit v 2 then softReset s2 page else s2

end Sys2Proof.Machine
end

