-- ==== Sys2Proof/Machine/Link.lean ====
section
/-!
DEFINITION. The link of a port: flits received, retry (R222 … R226), lanes, spares and narrowing (R227 … R229), loss of a
subport (R230), and the control registers of a port (R219, R230).
-/

namespace Sys2Proof.Machine

/-! ## Loss of a subport (R230) -/

/-- The collective messages a subport has not had acknowledged. -/
def unackedColl (u : SubSt) : List YMsg :=
  (u.replay.map (·.2) ++ u.txq).filterMap fun x => if x.vc = 2 then x.last else none

/-- Data of a collective message. -/
def YMsg.data : YMsg → Bytes
  | .coll _ _ _ _ _ d => d
  | _ => []

/-- The collective a message belongs to ends with no route. -/
def msgFail (s : State) (y : Port) : YMsg → State
  | .coll _ cid step _ _ _ =>
    match (s.port y).colRun.find? fun c => c.cid == cid && c.stepNo == step with
    | some c => colFail s y c 5
    | none => s
  | _ => s

/-- Send an operation in flight again, whole, on an alternate (R231). -/
def resendOp (s : State) (y z : Port) (j : Sub) (o : Yop) : State :=
  match opData s y o with
  | (.error e, s1) => opDone s1 y o e []
  | (.ok (bs, cmp), s1) =>
    ySend (s1.modPort z fun u => { u with fly := u.fly ++ [{ o with sub := j }] }) z j 0 (.op o.hdr o.opNo bs cmp) bs

/-- The log entry of a port (Table 15.1). -/
def portLog (s : State) (y : Port) (cls cause data : Nat) : State :=
  logEv s cls cause (logUnit (portPart s y) none) (yurnoPage y 0) none data

/-- A subport is lost: its traffic moves to the alternate, or completes with status 5; the log has either (Table 15.1). -/
def subLost (s : State) (y : Port) (i : Sub) : State :=
  let msgs := unackedColl (s.sub y i)
  let fly := (s.port y).fly.filter (·.sub == i)
  let s1 := portEvt (setSubState s y i 0) y 4
  let s2 := (s1.modSub y i fun u => { u with lost := true, txq := [], replay := [] }).modPort y fun u =>
    { u with fly := u.fly.filter fun o => o.sub != i }
  match altRoute s2 i 3 y with
  | some (z, j) =>
    let s3 := fly.foldl (fun s o => resendOp s y z j o) s2
    portLog (pumpOps (msgs.foldl (fun s m => ySend s z j 2 m m.data) s3) y) y 1 228 i.val
  | none =>
    let s3 := fly.foldl (fun s o => opDone s y o 5 []) s2
    portLog (pumpOps (msgs.foldl (fun s m => msgFail s y m) s3) y) y 3 230 i.val

/-- SUBPORT_LOST: a subport that has been down is not back. -/
def execSubportLost (y : Port) (i : Sub) (s : State) : Res :=
  .next <| if i.val < subCount s y ∧ subState s y i = 1 then subLost s y i else s

/-! ## Lanes (R227 … R229) -/

/-- YLANE.state of a lane: 0 unused, 1 active, 2 spare ready, 3 retraining, 4 failed; and the logical lane it serves. -/
def laneState (s : State) (y : Port) (l : Nat) : Nat := (fld (s.reg (ylane y l)) 0 3).toNat
def laneServes (s : State) (y : Port) (l : Nat) : Nat := (fld (s.reg (ylane y l)) 3 6).toNat

/-- Set a lane's state and the logical lane it serves. -/
def putLane (s : State) (y : Port) (l st serves : Nat) : State :=
  s.modReg (ylane y l) fun w => setFld (setFld w 0 (BitVec.ofNat 3 st)) 3 (BitVec.ofNat 6 serves)

/-- YP_STS.spares follows the lanes. -/
def putSpares (s : State) (y : Port) : State :=
  let n := ((List.range 66).filter fun l => laneState s y l = 2).length
  s.modReg (ypSts y) fun w => setFld w 8 (BitVec.ofNat 2 (min n 2))

/-- The lowest spare that is ready. -/
def spareLane (s : State) (y : Port) : Option Nat := (List.range 66).find? fun l => laneState s y l = 2

/-- The physical lane that carries a logical lane. -/
def carrier (s : State) (y : Port) (n : Nat) : Option Nat :=
  (List.range 66).find? fun l => laneState s y l = 1 ∧ laneServes s y l = n

/-- The subport of a logical lane. -/
def subOfLane (s : State) (y : Port) (n : Nat) : Sub := ⟨min (n / subWidth s y) 3, by omega⟩

/-- Send a lane to retraining: three attempts. -/
def retrainLane (s : State) (y : Port) (l : Nat) : State :=
  (putLane s y l 3 0).modPort y fun u => { u with retrain := SMap.set zeroN u.retrain l 1 }

/-- A spare takes a lane's bytes over, and the lane retrains (Table 10.5). -/
def takeover (s : State) (y : Port) (l sp : Nat) : State :=
  let n := laneServes s y l
  putSpares (retrainLane (putLane s y sp 1 n) y l) y

/-- The logical lanes of half h of a subport. -/
def halfLanes (s : State) (y : Port) (i : Sub) (h : Nat) : List Nat :=
  let w := subWidth s y
  (List.range (w / 2)).map (· + i.val * w + h * (w / 2))

/-- A half of a subport with every logical lane carried. -/
def halfGood (s : State) (y : Port) (i : Sub) (h : Nat) : Bool := (halfLanes s y i h).all fun n => (carrier s y n).isSome

/-- A subport keeps half h and leaves the lanes of the other unused. -/
def narrowTo (s : State) (y : Port) (i : Sub) (h : Nat) : State :=
  let gone := (halfLanes s y i (1 - h)).filterMap (carrier s y)
  portEvt (setSubState (gone.foldl (fun s l => putLane s y l 0 0) s) y i 3) y 2

/-- No spare is ready for a failed lane: the subport narrows, or is lost (R228). -/
def narrow (s : State) (y : Port) (i : Sub) : State :=
  if halfGood s y i 0 then narrowTo s y i 0
  else if halfGood s y i 1 then narrowTo s y i 1
  else subLost s y i

/-- A lane fails. -/
def laneFail (s : State) (y : Port) (l : Nat) : State :=
  if laneState s y l = 2 then putSpares (retrainLane s y l) y
  else if laneState s y l ≠ 1 then s
  else
    let i := subOfLane s y (laneServes s y l)
    match spareLane s y with
    | some sp => portLog ((portEvt (takeover s y l sp) y 0).emit (.yurno y i (.swap l))) y 1 227 l
    | none => narrow (retrainLane s y l) y i

/-- The end of a 10 µs window: the uncorrectable codewords are counted, and too many fail the lane. -/
def execLaneWindow (y : Port) (l : Lane) (uc : Nat) (s : State) : Res :=
  .next <|
    let a := ylane y l.val
    let s1 := s.modReg a fun w => setFld w 16 (BitVec.ofNat 16 (min ((fld w 16 16).toNat + uc) 0xFFFF))
    if (fld (s.reg (ypCtl y)) 2 4).toNat < uc then laneFail s1 y l.val else s1

def execLaneLossOfLock (y : Port) (l : Lane) (s : State) : Res := .next (laneFail s y l.val)

/-- The peer asks this end to steer a lane to the spare. -/
def execSwapRequest (y : Port) (l : Lane) (s : State) : Res :=
  .next <|
    match spareLane s y with
    | some sp => if laneState s y l.val = 1 then portLog (portEvt (takeover s y l.val sp) y 0) y 1 227 l.val else s
    | none => s

/-- A retrain attempt ends: the lane becomes a spare, tries again, or after the third failure is failed. -/
def execLaneRetrainDone (y : Port) (l : Lane) (pass : Bool) (s : State) : Res :=
  .next <|
    let k := SMap.get zeroN (s.port y).retrain l.val
    let note := fun (s : State) (n : Nat) => s.modPort y fun u => { u with retrain := SMap.set zeroN u.retrain l.val n }
    if laneState s y l.val ≠ 3 ∨ k = 0 then s
    else if pass then putSpares (note (putLane s y l.val 2 0) 0) y
    else if k < 3 then note s (k + 1)
    else portEvt (note (putLane s y l.val 4 0) 0) y 1

/-- Every rt_period the next active lane moves onto a ready spare by the switch of Table 10.5, which the peer is asked for,
and retrains. -/
def execBackgroundRetrain (y : Port) (s : State) : Res :=
  .next <|
    let from0 := (s.port y).nextLane
    let next := ((List.range 64).map fun k => (from0 + k) % 64).findSome? fun n =>
      if subUp s y (subOfLane s y n) then (carrier s y n).map fun l => (n, l) else none
    if fld (s.reg (ypCtl y)) 6 8 = 0 then s
    else match spareLane s y, next with
      | some sp, some (n, l) =>
        ((takeover s y l sp).modPort y fun u => { u with nextLane := (n + 1) % 64 }).emit (.yurno y (subOfLane s y n) (.swap l))
      | _, _ => s

/-! ## Link-level retry (R225, R226) -/

/-- Sequence number a is at or before b. -/
def seqLe (a b : BitVec 16) : Bool := decide ((b - a).toNat < 2 ^ 15)

/-- Retrain a whole subport. -/
def subDown (s : State) (y : Port) (i : Sub) : State :=
  let w := subWidth s y
  let ls := (List.range w).filterMap fun k => carrier s y (i.val * w + k)
  let s1 := ls.foldl (fun s l => putLane s y l 3 (laneServes s y l)) (setSubState s y i 1)
  (portEvt s1 y 3).count (yurnoPage y 2 + 0x048) 1

/-- An acknowledgement frees the replay buffer. -/
def takeAck (s : State) (y : Port) (i : Sub) (ack : BitVec 16) : State :=
  s.modSub y i fun u =>
    let r := u.replay.filter fun e => !seqLe e.1 ack
    { u with replay := r, resend := if r.length < u.replay.length then 0 else u.resend }

/-- A nak: resend from ack + 1. The 16th resend of one number without an acknowledgement takes the subport down. -/
def takeNak (s : State) (y : Port) (i : Sub) : State :=
  match (s.sub y i).replay with
  | [] => s
  | (seq, _) :: _ =>
    let u := s.sub y i
    let n := if u.resend ≠ 0 ∧ u.resendSeq = seq then u.resend + 1 else 1
    let s1 := u.replay.foldl (fun s e => (sendTx s y i e.1 e.2).count (yurnoPage y 2 + 0x040) 1) s
    let s2 := s1.modSub y i fun u => { u with resend := n, resendSeq := seq }
    if 16 ≤ n then subDown (s2.modSub y i fun u => { u with resend := 0 }) y i else s2

/-- Return the credits owed on a channel; while the module is stopped they are withheld (R303). -/
def creditOp (s : State) (y : Port) (i : Sub) (vc : Nat) : State :=
  let n := min ((s.sub y i).owed vc) 4095
  if n = 0 ∨ !subUp s y i ∨ !fieldRuns s (portField y) then s
  else idleFlit (s.modSub y i fun u => u.setOwed vc (u.owed vc - n)) y i false n vc

/-- Ask for a resend after the last good flit. -/
def sendNak (s : State) (y : Port) (i : Sub) : State := idleFlit (s.modSub y i fun u => { u with nakSent := true }) y i true 0 0

/-- A data or control flit that is good: the next in sequence is accepted, a later one shows a gap, an earlier one has
been delivered already. -/
def takeData (s : State) (y : Port) (i : Sub) (h : FlitHdr) : State :=
  let want := (s.sub y i).rxSeq + 1
  if h.seq = want then
    let s1 := s.modSub y i fun u => ({ u with rxSeq := want, nakSent := false }).setOwed h.vc (u.owed h.vc + 1)
    let s2 := countRx s1 y
    if 64 ≤ (s2.sub y i).owed h.vc then creditOp s2 y i h.vc else s2
  else if seqLe h.seq want then s
  else if (s.sub y i).nakSent then s
  else sendNak s y i

/-- FLIT_RECEIVE. A data or control flit out of sequence is discarded with all that it carries (R225). -/
def execFlitReceive (y : Port) (i : Sub) (f : Flit) (s : State) : Res :=
  .next <|
    if !subUp s y i then s
    else
      let h := flitHdr f.bytes
      if f.fecBad ∨ !flitOk f.bytes ∨ 2 < h.type then sendNak (s.count (yurnoPage y 2 + 0x044) 1) y i
      else if h.type ≠ 0 ∧ h.seq ≠ (s.sub y i).rxSeq + 1 then txPump (takeData s y i h) y i
      else
        let s1 := takeAck s y i h.ack
        let s2 := s1.modSub y i fun u => u.setCredits h.cvc (u.credits h.cvc + h.credits)
        let s3 := if h.nak then takeNak s2 y i else s2
        txPump (if h.type = 0 then s3 else takeData s3 y i h) y i

def execCreditReturn (y : Port) (i : Sub) (vc : Fin 4) (s : State) : Res := .next (creditOp s y i vc.val)

/-- A subport's retrain passes: its lanes are active again and it is up, its replay state as it was. One that was lost comes
back too; its new operations stay with the alternate until the partition's next commit. -/
def execSubportRetrainDone (y : Port) (i : Sub) (s : State) : Res :=
  .next <|
    let w := subWidth s y
    let mine := (List.range 66).filter fun l =>
      laneState s y l = 3 ∧ SMap.get zeroN (s.port y).retrain l = 0 ∧ laneServes s y l / w = i.val
    if subCount s y ≤ i.val ∨ !(subState s y i = 1 ∨ subState s y i = 0 ∧ (s.sub y i).lost) then s
    else
      let s1 := mine.foldl (fun s l => putLane s y l 1 (laneServes s y l)) s
      let full := (List.range w).all fun k => (carrier s1 y (i.val * w + k)).isSome
      pumpOps (txPump (setSubState s1 y i (if full then 2 else 3)) y i) y

/-! ## Control registers -/

/-- YP_CTL (R219): split changes only while every subport is down, and 3 names no split. -/
def ypCtlOp (s : State) (y : Port) (v : Word) : State :=
  let old := s.reg (ypCtl y)
  let down := fld (s.reg (ypSts y)) 0 8 = 0
  if fld v 0 2 = 3 ∨ (fld v 0 2 ≠ fld old 0 2 ∧ !down) then portEvt s y 7 else s.setReg (ypCtl y) (v &&& 0x3FFFFF)

def execYpCtlWrite (m : Master) (y : Port) (v : BitVec 32) (s : State) : Res :=
  .next <| owned s m (ypCtl y) v.toNat fun s => ypCtlOp s y v

/-- Following alternates from port z leads to y. -/
def altLoops (s : State) (y : Port) : Nat → Port → Bool
  | 0, _ => false
  | n + 1, z => z == y || (match altOf s z with | some a => altLoops s y n a | none => false)

/-- YP_ALT (R230): another port of the same partition, closing no loop, or 31 for none. -/
def ypAltOp (s : State) (y : Port) (v : Word) : State :=
  let n := (fld v 0 5).toNat
  match portNo n with
  | some z => if portPart s z ≠ portPart s y ∨ altLoops s y 24 z then portEvt s y 7 else s.setReg (ypAlt y) (v &&& 0x1F)
  | none => if n = 31 then s.setReg (ypAlt y) (v &&& 0x1F) else portEvt s y 7

def execYpAltWrite (m : Master) (y : Port) (v : BitVec 32) (s : State) : Res :=
  .next <| owned s m (ypAlt y) v.toNat fun s => ypAltOp s y v

/-! ## Coming up -/

/-- Credits at start: the peer's shares of Table 10.4, taken as this port's own (log 42). -/
def freshSub (s : State) (y : Port) : SubSt :=
  let m := subCount s y
  { SubSt.reset with cr0 := rxShare 0 / m, cr1 := rxShare 1 / m, cr2 := rxShare 2 / m, cr3 := rxShare 3 / m }

/-- A port has trained: every subport up, lanes 0 … 63 active in the reset map, the last two ready as spares. -/
def bringUp (s : State) (y : Port) : State :=
  let n := subCount s y
  let s1 := (List.range 64).foldl (fun s l => putLane s y l 1 l) s
  let s2 := putSpares (putLane (putLane s1 y 64 2 0) y 65 2 0) y
  ((List.finRange 4).filter fun i => decide (i.val < n)).foldl
    (fun s i => setSubState (s.modSub y i fun _ => freshSub s y) y i 2) (s2.modPort y fun u => { u with retrain := [] })

/-- A port that has not trained, or is dark: every subport down. -/
def bringDown (s : State) (y : Port) : State :=
  let s1 := (List.range 66).foldl (fun s l => putLane s y l 0 0) s
  ((List.finRange 4).foldl (fun s i => setSubState (s.modSub y i fun _ => SubSt.reset) y i 0) s1).modPort y fun u =>
    { u with retrain := [] }

end Sys2Proof.Machine
end

