-- ==== Sys2Proof/Machine/Governor.lean ====
section
/-!
DEFINITION. The module governor, the field and tile governors (R279 … R299, R305): caps, energy, thermal resistance,
budgets, freeze injection, the maquette, LAG and bridging, ramps and schedules, keep-warm, flow, telemetry. Measured
quantities are operands (log 9): powers in W or 0.01 kW, temperatures in 0.1 °C, as each docstring says.
-/

namespace Sys2Proof.Machine

/-! ## Registers -/

def govReg (o : Nat) : Nat := govPage 0 + o
def govSts : Nat := govReg 0x054
def govEvt (s : State) (i : Nat) : State := setEvt s (govPage 0) i

/-- The module is stopped (R300). -/
def stopped (s : State) : Bool := s.rbit govSts 2

/-- GOV_TLIM in 0.1 °C. -/
def tlim (s : State) : Nat := (fld (s.reg (govReg 0x04C)) 0 7).toNat * 10

/-- Setpoint code in force. -/
def codeNow (s : State) : Nat := (fld (s.reg govSts) 9 6).toNat
def setCode (s : State) (c : Nat) : State := s.modReg govSts fun w => setFld w 9 (BitVec.ofNat 6 c)

/-- READY (R318). -/
def isReady (s : State) : Bool := s.rbit (govPage 4 + 0x044) 6

/-- A field of the last accepted manifest: n bytes from an offset (Table 14.3). -/
def manNat (s : State) (o n : Nat) : Nat := leNat (((s.svc.manifest.getD []).drop o).take n)

/-- Module ID that the manifest assigns. -/
def moduleId (s : State) : BitVec 16 := BitVec.ofNat 16 (manNat s 26 2)

/-! ## Effective cap (R279) -/

/-- The caps of Table 13.1 by code, in 0.1 kW. -/
def caps (s : State) : List Nat :=
  [(fld (s.reg (govReg 0x040)) 0 16).toNat, (fld (s.reg (govReg 0x044)) 0 16).toNat,
   min (s.gov.rthCap.getD 410) 410, min (s.gov.rampCap.getD 410) 410]

/-- Effective cap as GOV_CAP_EFF holds it. -/
def capEff (s : State) : Nat := (fld (s.reg (govReg 0x048)) 0 16).toNat

/-- Show the lowest cap and its source, the lower code of equal ones. -/
def capPut (s : State) : State :=
  let l := caps s
  let m := l.foldl min (l.headD 0)
  let src := (l.findIdx? (· == m)).getD 0
  s.setReg (govReg 0x048) (BitVec.ofNat 32 (m + src * 2 ^ 16))

/-- An input has changed: a fall is in force at once, a rise waits for the next recomputation. -/
def capFall (s : State) : State := if (caps s).any fun c => decide (c < capEff s) then capPut s else s

/-- CAP_RECOMPUTE. During a service processor outage no cap rises (R304). -/
def execCapRecompute (s : State) : Res := .next (if s.svc.outageAt.isSome then capFall s else capPut s)

/-- GOV_HCAP and GOV_SCAP (R280): safety fields in the range 5.0 … 41.0 kW; a rise relaxes. Under a coolant trip override
GOV_SCAP is held (Table 15.8). -/
def capWrite (s : State) (m : Master) (a : Nat) (v : Word) : State :=
  let c := (fld v 0 16).toNat
  let old := (fld (s.reg a) 0 16).toNat
  let heldLow := a == govReg 0x044 && s.rbit (govPage 7 + 0x044) 5
  if c < 50 ∨ 410 < c ∨ heldLow then govEvt s 10
  else safetyWrite s m a v.toNat (decide (old < c)) fun s => capFall (s.setReg a (BitVec.ofNat 32 c))

/-- GOV_HCAP: a physical function, or the service processor. -/
def hcapOp (s : State) (m : Master) (v : Word) : State :=
  owned s m (govReg 0x040) v.toNat fun s => capWrite s m (govReg 0x040) v
def execGovHcapWrite (m : Master) (v : BitVec 32) (s : State) : Res := .next (hcapOp s m v)

/-- GOV_SCAP: the service processor only. -/
def scapOp (s : State) (m : Master) (v : Word) : State :=
  if m = .svp then capWrite s m (govReg 0x044) v else ownReject s m (govReg 0x044) v.toNat
def execGovScapWrite (m : Master) (v : BitVec 32) (s : State) : Res := .next (scapOp s m v)

/-! ## Energy (R281) -/

def execEnergyUpdate (mj : Nat) (s : State) : Res := .next <| s.modGov fun g => { g with energy := g.energy + BitVec.ofNat 64 mj }

/-- ENERGY_LO: its value, with ENERGY_HI latched for the same master. -/
def energyLo (s : State) (m : Master) : Word × State :=
  let e := s.gov.energy
  (e.setWidth 32, s.modGov fun g =>
    { g with latches := (m, (e >>> 32).setWidth 32) :: g.latches.filter fun l => !(l.1 == m) })

/-- ENERGY_HI: the value latched by the same master's last read of ENERGY_LO, once; else the present one. -/
def energyHi (s : State) (m : Master) : Word × State :=
  match s.gov.latches.find? fun l => l.1 == m with
  | some l => (l.2, s.modGov fun g => { g with latches := g.latches.filter fun l => !(l.1 == m) })
  | none => ((s.gov.energy >>> 32).setWidth 32, s)

def execEnergyLoRead (m : Master) (s : State) : Res :=
  .next <| let (v, s1) := energyLo s m; s1.emit (.value m v)

/-! ## Thermal resistance (R282, R283) -/

/-- The Rth cap in 0.1 kW of the measurements, latest first, each in 0.001 K/kW: held below its exact value. -/
def rthCapOf (tlim tin : Nat) (l : List Rat) : Nat :=
  let total : Rat := l.foldl (· + ·) 0
  let mean : Rat := total / (max l.length 1 : Nat)
  let r : Rat := max (l.headD 0) mean
  if r ≤ 0 then 410 else ((((tlim - 50 - tin) * 1000 : Nat) : Rat) / r).floor.toNat

/-- A second's means: T_die and T_in in 0.1 °C, P in 0.01 kW, and whether the module was stopped in it. -/
def execRthMeasure (tdie tin pw : Nat) (wasStopped : Bool) (s : State) : Res :=
  .next <|
    if pw < 500 ∨ wasStopped then s
    else
      let x : Rat := (((tdie - tin) * 10000 : Nat) : Rat) / (pw : Nat)
      let old := s.gov.rth.headD 0
      let l := (x :: s.gov.rth).take 10
      let (n, s1) := s.fresh
      let inexact := x ≠ ((x.floor : Int) : Rat)
      let up : Nat := if inexact ∧ Config.freeBit n then 1 else 0
      let shown : Nat := x.floor.toNat + up
      let s2 := s1.modReg (govReg 0x068) fun w => setFld w 0 (BitVec.ofNat 16 (min shown 0xFFFF))
      let s3 := s2.modGov fun g => { g with rth := l, rthCap := some (min 410 (rthCapOf (tlim s) tin l)) }
      let thr := s.reg (govReg 0x06C)
      let warn : Rat := ((fld thr 0 16).toNat : Nat)
      let alarm : Rat := ((fld thr 16 16).toNat : Nat)
      let s4 := if old ≤ warn ∧ warn < x then govEvt s3 0 else s3
      capFall (if old ≤ alarm ∧ alarm < x then govEvt s4 1 else s4)

/-! ## Field budgets (R286) -/

def fpwrSts (f : Field) : Nat := fieldPage f 240 + 0x040

/-- FPWR_STS.cap, percent of the field budget. -/
def fieldCap (s : State) (f : Field) : Nat := (fld (s.reg (fpwrSts f)) 6 7).toNat

def kwCtl : Nat := govReg 0x074

/-- What a field requests, in W. -/
def fieldRequest (s : State) (f : Field) : Rat :=
  let ph := (fieldPhase s f).toNat
  let e := SMap.get estD (s.fld f).est ph
  if ph = 1023 then 200
  else if 8 ≤ e.n then e.e * 21 / 20
  else ((s.fld f).maxPower : Nat)

/-- The pool B in W: the effective cap, or the supply limit while VIN is low, less P_aux (R286, R280). -/
def pool (s : State) (paux : Nat) : Nat :=
  (match s.gov.vinLimit with
    | some mv => min (capEff s * 100) mv
    | none => capEff s * 100) - paux

/-- One common factor that brings the requests to B, none below the floor: those at the floor are taken out until no more
fall under it. -/
def scaleTo (b fl : Rat) : Nat → List Rat → Rat
  | 0, _ => 0
  | n + 1, l =>
    let total := l.foldl (· + ·) 0
    let k := if total ≤ 0 then 0 else (b - fl * (48 - l.length : Int)) / total
    let rest := l.filter fun r => decide (fl ≤ k * r)
    if rest.length = l.length then k else scaleTo b fl n rest

/-- The budgets of the fields for their requests and a pool. -/
def budgets (b : Nat) (l : List Rat) : List Nat :=
  let fl := min (200 : Rat) ((b : Rat) / 48)
  let raised := l.map (max fl)
  let k := if raised.foldl (· + ·) 0 ≤ (b : Rat) then 1 else scaleTo b fl 49 l
  l.map fun r => (max fl (k * r)).floor.toNat

/-- Keep-warm holds the field of an IDLE partition, or with KW_CTL.free of none, warm (R298), from READY on (R310). -/
def keepWarm (s : State) (f : Field) : Bool :=
  isReady s && match partOfField s f with
  | some p => decide (pstate s p = 1) && s.rbit kwCtl 7
  | none => s.rbit kwCtl 8

/-- The budgets of R286, where those of the fields that keep-warm holds in phase 1,023 are raised as far as the pool
allows, in equal shares (R298, log 71). -/
def allotted (s : State) (b : Nat) : List Nat :=
  let fs := List.finRange 48
  let l := budgets b (fs.map (fieldRequest s))
  let warm := fun f => keepWarm s f && fieldPhase s f == 1023
  (fs.zip l).map fun e => if warm e.1 then e.2 + (b - l.sum) / (fs.filter warm).length else e.2

/-- Show a field's budget, less what the maquette has taken. -/
def putBudget (s : State) (f : Field) : State :=
  let x := s.fld f
  s.modReg (fgov f 0x040) fun w => setFld w 0 (BitVec.ofNat 16 (min (x.budget * (100 - x.cut) / 100) 0xFFFF))

/-- FIELD_BUDGET_ALLOCATE: P_aux in W. During a service processor outage the last budgets stand (R304). -/
def execFieldBudgetAllocate (paux : Nat) (s : State) : Res :=
  .next <|
    if s.svc.outageAt.isSome then s else
    let fs := List.finRange 48
    let req := fs.map (fieldRequest s)
    let b := pool s paux
    let s1 := (fs.zip (allotted s b)).foldl (fun s e => putBudget (s.modFld e.1 fun x => { x with budget := e.2 }) e.1) s
    if (b : Rat) < req.foldl (· + ·) 0 then govEvt s1 4 else s1

/-! ## Freeze injection (R287) -/

def setInj (s : State) (f : Field) (n : Nat) : State := s.modReg (fgovPhase f) fun w => setFld w 10 (BitVec.ofNat 6 n)

/-- One comparison of a power with a limit: the new fraction and the calm microseconds. -/
def injStep (inj calm power limit : Nat) : Nat × Nat :=
  if limit < power then (min (inj + 1) 63, 0)
  else if power * 100 ≤ limit * 98 then (if calm + 1 = 10 then (inj - 1, 0) else (inj, calm + 1))
  else (inj, 0)

/-- What a field may draw: its budget, under the cap of R267. -/
def fieldLimit (s : State) (f : Field) : Nat := (fld (s.reg (fgov f 0x040)) 0 16).toNat * fieldCap s f / 100

/-- The arrays of a field are wholly frozen and its power still exceeds what it may draw (R286). -/
def overFrozen (s : State) (f : Field) : Bool :=
  decide (fieldInj s f = 63 ∧ fieldLimit s f < (fld (s.reg (fgov f 0x040)) 16 16).toNat)

/-- Bridging ends when nothing is injected any more (R293). -/
def bridgeCheck (s : State) : State :=
  if (List.finRange 48).any fun f => decide (0 < fieldInj s f) then
    s.modGov fun g => { g with injAt := some (g.injAt.getD s.tsclk) }
  else (s.setRbit govSts 1 false).modGov fun g => { g with injAt := none, bridgeAt := none, bridgeOver := false }

/-! ### Filler (R295, R296, R298) -/

/-- Filler may run in a field: the floor is in force, or keep-warm holds the field of an IDLE partition or of none warm. -/
def fillDue (s : State) (f : Field) : Bool :=
  !stopped s && (decide (s.gov.floor ≠ 0) || keepWarm s f)

/-- A tile whose array takes filler: its queue is empty, it is not frozen, and its field belongs to an IDLE partition (with
keep-warm.free to none), or the floor is in force and the tile stands at WAIT or MM.WAIT. -/
def fillTile (s : State) (f : Field) (t : Tile) : Bool :=
  let idle := match partOfField s f with
    | some p => decide (pstate s p = 1)
    | none => s.rbit kwCtl 8
  let stands := match (s.seq t).stall with
    | some (.wait _ _ _) => true
    | some (.mmWait _) => true
    | _ => false
  (s.arr t).queue.isEmpty && !arrFrozen s t && !(s.seq t).dark && !(s.seq t).fenced
    && (idle || (stands && decide (s.gov.floor ≠ 0)))

/-- Filler of a microsecond in the arrays of a field: of its 25 (24 + code) cycles as many as the load and the temperature
leave to it, which is free (log 9). It counts in TGOV_FILL alone. -/
def fillField (s : State) (f : Field) : State :=
  if fillDue s f then
    s.each ((fieldTiles f).filter (fillTile s f)) fun s t =>
      let (k, s1) := s.fresh
      s1.count (tilePage t 11 + 0x048) (Config.freeNat k % (25 * (24 + codeNow s) + 1))
  else s

/-- FIELD_GOVERNOR_TICK: the 10 µs mean of VMID power in W, a sample of the phase the field is in now. A field that stays over its budget with its arrays wholly frozen
sets budget_clip (R286). -/
def execFieldGovernorTick (f : Field) (power : Nat) (s : State) : Res :=
  .next <|
    if !fieldRuns s f then s
    else
      let s1 := (phaseCheck s f).modReg (fgov f 0x040) fun w => setFld w 16 (BitVec.ofNat 16 (min power 0xFFFF))
      let s2 := s1.modFld f fun x => { x with occSum := x.occSum + power, occN := x.occN + 1, maxPower := max x.maxPower power }
      let (inj, calm) := injStep (fieldInj s2 f) (s2.fld f).calm power (fieldLimit s2 f)
      let s3 := if overFrozen s2 f then govEvt s2 4 else s2
      fillField (bridgeCheck ((setInj s3 f inj).modFld f fun x => { x with calm := calm })) f

/-- Failed phases of the physical tile at a place (R272). -/
def phaseFails (s : State) (f : Field) (place : Nat) : Nat :=
  (fld (s.reg (fieldPage f 240 + 0x048 + 4 * (place / 16))) (2 * (place % 16)) 2).toNat

/-- TGOV_CAP of a tile in 0.1 A: of the physical tile that carries it. -/
def tgovCap (s : State) (t : Tile) : Nat := if phaseFails s (tileField t) (shaftPlace (tileShaft s t)) = 0 then 400 else 350

/-- TILE_GOVERNOR_TICK: the tile's current in 0.1 A. -/
def execTileGovernorTick (t : Tile) (amps : Nat) (s : State) : Res :=
  .next <|
    let f := tileField t
    let k := shaftPlace (tileShaft s t)
    if !fieldRuns s f then s
    else
      let (inj, calm) := injStep (SMap.get zeroN (s.fld f).tinj k) (SMap.get zeroN (s.fld f).tcalm k) amps (tgovCap s t)
      s.modFld f fun x => { x with tinj := SMap.set zeroN x.tinj k inj, tcalm := SMap.set zeroN x.tcalm k calm }

/-! ## The maquette (R288 … R290) -/

/-- Compute node of a physical place: blocks of 2 × 2 tiles, six in a row. -/
def mqBlock (place : Nat) : Nat := place / 12 / 2 * 6 + place % 12 / 2

/-- Depth that a prediction asks for (Table 13.2). -/
def mqLevel (tl pred : Nat) : Nat :=
  if tl ≤ pred + 40 then 3 else if tl ≤ pred + 80 then 2 else if tl ≤ pred + 120 then 1 else 0

/-- The new exclusion depth of a busy quadrant: a level falls 2 K below the threshold that raised it. -/
def mqDepth (tl pred old : Nat) : Nat :=
  let l := mqLevel tl pred
  if old ≤ l then l
  else if pred + 20 + 40 * (4 - old) ≤ tl then old - 1
  else old

/-- The depths of a field after an update; an idle quadrant has none. -/
def mqDepths (tl : Nat) (m : MqMeasure) (old : SMap Nat) : SMap Nat :=
  m.busy.foldl (fun acc e =>
    let k := e.1.val * 4 + e.2.val
    SMap.set zeroN acc k (mqDepth tl (m.pred.getD (mqBlock e.1.val) 0) (SMap.get zeroN old k))) []

/-- MAQUETTE_UPDATE. -/
def execMaquetteUpdate (f : Field) (m : MqMeasure) (s : State) : Res :=
  .next <|
    let tl := tlim s
    let hot := m.pred.foldl max 0
    let cutting := decide (tl ≤ hot + 10) || ((s.fld f).cutting && decide (tl < hot + 20))
    let s1 := s.modReg (fgov f 0x04C) fun w => setFld w 0 (BitVec.ofNat 16 (min hot 0xFFFF))
    putBudget (s1.modFld f fun x =>
      { x with
        nodes := m.nodes, texcl := mqDepths tl m x.texcl, cutting := cutting
        cut := if cutting then min 100 (x.cut + 5) else if hot + 30 < tl then x.cut - 1 else x.cut }) f

/-- TLIM_HIT: a junction of the tile in 0.1 °C. At the limit the array freezes one cycle in two. -/
def execTlimHit (t : Tile) (temp : Nat) (s : State) : Res :=
  .next <|
    let f := tileField t
    if (s.seq t).dark ∨ fieldDark s f then s
    else
      let s1 := s.modReg (tilePage t 11 + 0x044) fun w => setFld w 0 (BitVec.ofNat 16 (min temp 0xFFFF))
      if temp < tlim s then s1
      else govEvt (s1.modFld f fun x => { x with tinj := SMap.set zeroN x.tinj (shaftPlace (tileShaft s t)) 32 }) 5

/-! ## LAG and bridging (R241, R242, R292, R293) -/

/-- YENS registers. -/
def yensCtl : Nat := yurnoPage 0 8 + 0x040
def yensLeader : Nat := yurnoPage 0 8 + 0x044
def yensSts : Nat := yurnoPage 0 8 + 0x048
def ensGroup (s : State) : BitVec 16 := fld (s.reg yensCtl) 0 16

/-- The port of ensemble messages: the preferred one, or the lowest that is up (R241). -/
def ensPort (s : State) : Option Port :=
  match (portNo (fld (s.reg yensCtl) 16 5).toNat).filter (portUp s) with
  | some y => some y
  | none => (List.finRange 24).find? (portUp s)

/-- Send an ensemble message. -/
def ensSend (s : State) (m : YMsg) : State :=
  match ensPort s with
  | some y => yControl s y m
  | none => s

/-- Send a LAG. -/
def sendLag (s : State) (code : BitVec 6) (cause : BitVec 2) : State :=
  let s1 := s.modGov fun g => { g with lagCode := code, lagCause := cause }
  govEvt (ensSend s1 (.lag (ensGroup s) s.gov.forceSeq code cause)) 6

/-- f × V² of a code, up to a factor: f = 25 (24 + c) MHz and V = (66 + c) ÷ 120 V (R294). -/
def fv2 (c : Nat) : Nat := (24 + c) * (66 + c) ^ 2

/-- The highest code that the effective cap sustains. -/
def lagCodeOf (s : State) (p pfix : Nat) : Nat :=
  let g := fv2 (codeNow s)
  ((List.range 37).reverse.find? fun c => decide (pfix * g + (p - pfix) * fv2 c ≤ capEff s * 100 * g)).getD 0

/-- A converter cap (R267) holds a field below its request, or, as limit reports, the lower current limit of a tile with a
failed phase does (R272). -/
def cappedField (s : State) (limit : Bool) : Bool :=
  (List.finRange 48).any fun f =>
    fieldRuns s f && (decide (fieldCap s f < 100 ∧ ((fieldLimit s f : Nat) : Rat) < fieldRequest s f)
      || (limit && (List.range 96).any fun k => phaseFails s f k != 0))

/-- LAG_CHECK (R292); a field over its budget with its arrays wholly frozen gives cause 0 (R286). -/
def execLagCheck (e : LagEval) (s : State) : Res :=
  .next <|
    let thr := (fld (s.reg (govReg 0x078)) 0 5).toNat * 10
    let conv := cappedField s e.supply
    let frozen := (List.finRange 48).any fun f => fieldRuns s f && overFrozen s f
    if !(e.inj.any fun i => decide (thr < i)) && !conv && !frozen then s
    else if s.rbit govSts 1 then s
    else
      let s1 := (s.setRbit govSts 1 true).modGov fun g => { g with bridgeAt := some (g.injAt.getD s.tsclk), bridgeOver := false }
      let cause : BitVec 2 :=
        if frozen then 0 else if e.thermal ∨ (fld (s.reg (govReg 0x048)) 16 2).toNat = 2 then 1
        else if e.supply ∨ conv ∨ s.gov.vinLimit.isSome then 2 else 0
      sendLag s1 (BitVec.ofNat 6 (lagCodeOf s e.p e.pfix)) cause

/-- BRIDGE_OVER: 50 ms of bridging. -/
def execBridgeOver (s : State) : Res :=
  .next <|
    match s.gov.bridgeAt with
    | some b =>
      if s.rbit govSts 1 && decide (b + 50000000 ≤ s.tsclk) && !s.gov.bridgeOver then
        (govEvt (s.count (govReg 0x07C) 1) 7).modGov fun g => { g with bridgeOver := true }
      else s
    | none => s

def execLagResend (s : State) : Res :=
  .next <| if s.gov.bridgeOver then sendLag s s.gov.lagCode s.gov.lagCause else s

/-- GOV_FCEIL (R291): a safety field; only the service processor raises it. -/
def fceilOp (s : State) (m : Master) (v : Word) : State :=
  let c := (fld v 0 6).toNat
  let up := decide ((fld (s.reg (govReg 0x050)) 0 6).toNat < c)
  owned s m (govReg 0x050) v.toNat fun s =>
    if 36 < c then govEvt s 10
    else if up ∧ m ≠ .svp then ownReject s m (govReg 0x050) v.toNat
    else safetyWrite s m (govReg 0x050) v.toNat up fun s => s.setReg (govReg 0x050) (BitVec.ofNat 32 c)
def execGovFceilWrite (m : Master) (v : BitVec 32) (s : State) : Res := .next (fceilOp s m v)

/-- GOV_TLIM, 60 … 105 °C; it is no safety field (R259). -/
def tlimOp (s : State) (v : Word) : State :=
  let c := (fld v 0 7).toNat
  if c < 60 ∨ 105 < c then govEvt s 10
  else s.setReg (govReg 0x04C) (BitVec.ofNat 32 c)

/-! ## Ramps (R295, R297) -/

def sched (e w : Nat) : Nat := govPage 2 + 0x080 + 16 * e + 4 * w
def schedTime (s : State) (e : Nat) : Nat := (s.reg (sched e 0)).toNat + (s.reg (sched e 1)).toNat * 2 ^ 32

/-- The schedule entry in force at a window's start: the valid one with the latest time not after it. -/
def schedNow (s : State) : Option Nat :=
  ((List.range 32).filter fun e => s.rbit (sched e 3) 0 && decide (schedTime s e ≤ s.tsclk)).foldl
    (fun best e => match best with
      | some b => if schedTime s b ≤ schedTime s e then some e else some b
      | none => some e) none

/-- RAMP_WINDOW: a 100 ms window starts, with the mean input power of the last one in W. Nothing before READY (R310); the
first window after a restart takes the effective cap (R304), with a schedule's ceiling as the lower of the two. -/
def execRampWindow (mean : Nat) (s : State) : Res :=
  .next <|
    let ctl := s.reg (govPage 2 + 0x040)
    let ent := schedNow s
    let w2 := match ent with | some e => s.reg (sched e 2) | none => 0
    let rate := fun (own sch : Nat) => if ent.isSome then min own sch else own
    let up := rate (fld ctl 0 8).toNat (fld w2 0 8).toNat
    let dn := rate (fld ctl 8 8).toNat (fld w2 8 8).toNat
    let ceil := (fld w2 16 16).toNat
    let free := (mean + up * 100) / 100
    let cap := if ceil = 0 then free else min free ceil
    let s1 := s.setReg (govPage 2 + 0x044) (BitVec.ofNat 32 (ent.getD 63))
    if !isReady s then s1.modGov fun g => { g with rampCap := none, floor := 0, ceil := none }
    else
      let first := s.gov.firstWindow
      capPut (s1.modGov fun g =>
        { g with
          rampCap := if first then (if ceil = 0 then none else some (min 410 ceil)) else some (min 410 cap)
          ceil := if ceil = 0 then none else some ceil
          floor := if stopped s ∨ !bit ctl 16 then 0 else min (mean - dn * 100) (capEff s * 100)
          firstWindow := false })

/-- SCHED_WRITE: an entry not later than its predecessor, or with a ceiling outside 5.0 … 41.0 kW, is rejected. -/
def execSchedWrite (m : Master) (e : Fin 32) (c : SchedEntry) (s : State) : Res :=
  .next <| owned s m (sched e.val 0) c.time.toNat fun s =>
    let prev := e.val - 1
    let late := e.val ≠ 0 ∧ s.rbit (sched prev 3) 0 ∧ c.time.toNat ≤ schedTime s prev
    let cl := c.ceil.toNat
    if c.valid ∧ (late ∨ (cl ≠ 0 ∧ (cl < 50 ∨ 410 < cl))) then govEvt s 10
    else
      let s1 := (s.setReg (sched e.val 0) (c.time.setWidth 32)).setReg (sched e.val 1) ((c.time >>> 32).setWidth 32)
      let s2 := s1.setReg (sched e.val 2) (BitVec.ofNat 32 (c.up.toNat + c.dn.toNat * 2 ^ 8 + cl * 2 ^ 16))
      s2.setReg (sched e.val 3) (if c.valid then 1 else 0)

/-! ## Keep-warm, flow, telemetry (R298, R299, R305) -/

def kwOp (s : State) (v : Word) : State :=
  let c := (fld v 0 7).toNat
  if c < 35 ∨ 70 < c then govEvt s 10 else s.setReg (govReg 0x074) (v &&& 0x1FF)
def execKwCtlWrite (m : Master) (v : BitVec 32) (s : State) : Res :=
  .next <| owned s m (govReg 0x074) v.toNat fun s => kwOp s v

/-- FLOW_ESTIMATE: P in 0.01 kW and the coolant temperatures in 0.1 °C; Q = 60 P ÷ (3.98 ΔT), and no flow is low where the
outlet is no warmer than the inlet. -/
def execFlowEstimate (pw tout tin : Nat) (s : State) : Res :=
  .next <|
    let low := fun (thr : Nat) => decide (tin < tout ∧ 600 * pw < thr * 398 * (tout - tin))
    let w := s.reg (govReg 0x070)
    if pw < 500 then s
    else
      let s1 := if low (fld w 0 8).toNat then govEvt s 2 else s
      if low (fld w 8 8).toNat then govEvt s1 3 else s1

def telReg (o : Nat) : Nat := govPage 1 + o

/-- TELEMETRY_UPDATE: the set, and TEL_SEQ last. -/
def execTelemetryUpdate (d : TelemetrySet) (s : State) : Res :=
  .next <|
    let two := fun (lo hi : BitVec 16) => lo.setWidth 32 ||| (hi.setWidth 32 <<< 16)
    let s1 := (s.setReg (telReg 0x044) (BitVec.ofNat 32 s.tsclk)).setReg (telReg 0x048) (BitVec.ofNat 32 (s.tsclk / 2 ^ 32))
    let s2 := (s1.setReg (telReg 0x04C) (d.p.setWidth 32)).setReg (telReg 0x050) (two d.tin d.tout)
    let s3 := s2.setReg (telReg 0x054) (two d.q d.tdie)
    let s4 := (d.ft.take 48).zipIdx.foldl (fun s e => s.setReg (telReg (0x080 + 4 * e.2)) (two e.1.1 e.1.2)) s3
    s4.modReg (telReg 0x040) (· + 1)

end Sys2Proof.Machine
end

