-- ==== Sys2Proof/Machine/Partition.lean ====
section
/-!
DEFINITION. Partition commands (R193 … R199, R210 … R216, Table 9.3): enable and disable, pre-emption, save and
restore, resets.
-/

namespace Sys2Proof.Machine

def partCmd (p : Part) : Nat := partPage p 0 + 0x044
def partSaved (s : State) (p : Part) : Bool := s.rbit (partSts p) 3

/-! ## Acceptance and rejection -/

/-- A command is rejected with a reason (R196). -/
def cmdReject (s : State) (p : Part) (reason : Nat) (sq : Option (Nat × BitVec 16)) : State :=
  let s1 := setEvt (s.modReg (partSts p) fun w => setFld w 8 (BitVec.ofNat 4 reason)) (partPage p 0) 1
  match sq with
  | some (q, cid) => sqDone s1 p q cid 4 reason
  | none => s1

/-- Note an accepted command; the entries of a command it replaces wait with it. -/
def cmdBegin (s : State) (p : Part) (code : Nat) (sq : Option (Nat × BitVec 16)) : State :=
  s.modPart p fun x =>
    let old := match x.job with | some j => j.sq | none => []
    { x with job := some { code := BitVec.ofNat 4 code, at0 := s.tsclk, sq := old ++ sq.toList } }

/-- A command that waits for a commit or a repair. -/
def setPend (s : State) (p : Part) (n : Nat) : State :=
  (s.modPart p fun x => { x with pend := some (BitVec.ofNat 4 n) }).setRbit (partSts p) 6 true

/-- A save record is given up. -/
def dropRecord (s : State) (p : Part) : State :=
  (s.modPart p fun x => { x with record := none }).setRbit (partSts p) 3 false

/-! ## Enable and disable (R194) -/

/-- The rectangle is a rectangle of fields. -/
def rectOk (w : Word) : Bool :=
  decide ((fld w 0 3).toNat ≤ (fld w 3 3).toNat ∧ (fld w 6 3).toNat ≤ (fld w 9 3).toNat ∧ (fld w 9 3).toNat ≤ 5)

/-- The reason to refuse an enable, if there is one. -/
def enableReason (s : State) (p : Part) : Option Nat :=
  let fs := partFields s p
  if !rectOk (s.reg (partCfg p)) then some 2
  else if fs.any fun f => match partOfField s f with | some q => q != p | none => false then some 3
  else if fs.any (fieldDark s) then some 4
  else if (mappedHandles s p).any fun e => match (s.weir e.2).owner with
      | some q => q != p && decide (pstate s q ≠ 0)
      | none => false then some 11
  else none

def adapters : List Adapter := [.xp, .xm, .yp, .ym]

/-- Open the seams inside a partition's rectangle and close the others of its fields. -/
def partSeams (s : State) (p : Part) (inside : Bool) : State :=
  let fs := partFields s p
  s.each fs fun s f => s.each (adapters.filter (adapterExists f)) fun s a =>
    let within := match neighbour f a with | some g => fs.contains g | none => false
    s.setReg (seamPage f a + 0x080) (if inside && within then 1 else 0)

/-- Set OWNER of the partition's tile pages and of pages 7 … 255 of its block (R257). -/
def partOwner (s : State) (p : Part) (v : Word) : State :=
  let s1 := s.each (partTiles s p) fun s t => s.each (List.range 14) fun s n => s.setReg (tilePage t n + 0x028) v
  s1.each (List.range 249) fun s n => s.setReg (partPage p (7 + n) + 0x028) v

/-- Give the weirs named by the map to the partition, with their thresholds. -/
def claimWeirs (s : State) (p : Part) : State :=
  s.each (mappedHandles s p) fun s e => s.modWeir e.2 fun w => { w with owner := some p, thr := s.reg (weirEnt p e.1 1) }

def releaseWeirs (s : State) (p : Part) : State :=
  s.each (mappedHandles s p) fun s e => s.modWeir e.2 fun w => if w.owner = some p then { w with owner := none } else w

/-- Enable. -/
def enableOp (s : State) (m : Master) (p : Part) : State :=
  let s1 := claimWeirs (partOwner (partSeams s p true) p (BitVec.ofNat 32 (3 + 4 * p.val))) p
  cmdDone (setPstate (s1.modPart p fun x => { x with enabledBy := some m }) p 1) p

/-- OWNER after disable: the physical function of the enabling port, or the service processor. -/
def disabledOwner (s : State) (p : Part) : Word :=
  match (s.prt p).enabledBy with
  | some (.pf h) => BitVec.ofNat 32 (2 + 4 * h.val)
  | _ => 1

/-- Disable. -/
def disableOp (s : State) (p : Part) : State :=
  let s1 := releaseWeirs (dropXl (partOwner (partSeams s p false) p (disabledOwner s p)) p fun _ => true) p
  cmdDone (setPstate (s1.modPart p fun x => { x with enabledBy := none }) p 0) p

/-! ## Resets (R199, Table 9.5) -/

/-- An abrupt reset also discards the store buffer and the store of the array (Table 2.7, R82). -/
def abruptTile (s : State) (t : Tile) : State :=
  (sbDiscard s t).modArr t fun a => { a with accum := [], accCe := [], accUe := [], erredRows := [] }

/-- The registers that stage 4 returns to reset: FMODE, FSTAT, PLB_STS, PLB_DEV, PLB_SKIP, PLB_CNT, CTR[0 … 5]. -/
def stage4Regs (t : Tile) : List Nat :=
  [0x040, 0x044, 0x04C, 0x050, 0x054, 0x058].map (tilePage t 3 + ·) ++ (List.range 6).map (ctrAddr t)

/-- Stage 4 in one tile; no descriptor has ended on a channel since the reset (R123), and B is as R65 leaves it. -/
def stage4Tile (s : State) (t : Tile) : State :=
  let s1 := s.each (stage4Regs t) fun s a => s.setReg a (regReset a)
  let s2 := s1.modVec t fun u => { u with sample := 0, captures := [], hist := [] }
  (s2.each (List.finRange 4) fun s ch => s.modDma t ch fun c => { c with lastEnded := 0 }).modArr t ArrSt.noB

/-- Stage 4. -/
def stage4 (s : State) (p : Part) : State :=
  let s1 := s.each (mappedHandles s p) fun s e => s.modWeir e.2 fun w => { Weir.reset with thr := w.thr, owner := w.owner }
  s1.each (partTiles s p) stage4Tile

/-- What the ports and the hub hold for the partition is discarded, and its post latches clear (R199, R252). -/
def resetHeld (s : State) (p : Part) : State := (discardAll s p).modPart p fun x => { x with latches := [] }

/-- Entries of the partition's tiles leave the queues of its fields' adapters, for their transfers have ended. -/
def dropHeldXfers (s : State) (p : Part) : State :=
  let ts := partTiles s p
  s.each (partFields s p) fun s f => s.modFld f fun x => { x with held := x.held.filter fun h => !ts.contains h.tile }

/-- The adapters inside a partition's rectangle. -/
def innerSeams (s : State) (p : Part) : List (Field × Adapter) :=
  let fs := partFields s p
  fs.flatMap fun f => (adapters.filter fun a => match neighbour f a with | some g => fs.contains g | none => false).map fun a => (f, a)

/-- The adapters inside the rectangle have drained: no entry is left in their queues (Table 8.5). -/
def seamsIdle (s : State) (p : Part) : Bool := (innerSeams s p).all fun e => (s.fld e.1).held.all (·.adapter != e.2)

/-- Stage 3: the adapters inside the rectangle, frozen, report drained and close; nothing is in flight there. -/
def drainSeams (s : State) (p : Part) : State :=
  let s1 := s.each (innerSeams s p) fun s e =>
    setEvt (s.modArb (seamPage e.1 e.2) fun a => { a with inflight := [] }) (seamPage e.1 e.2) 1
  partSeams s1 p false

/-- Begin a reset: every tile stops; an abrupt one discards at once and closes the interior seams. -/
def resetBegin (s : State) (p : Part) (abrupt : Bool) : State :=
  let s1 := s.each (partTiles s p) stopTile
  let s2 := if abrupt then partSeams (s1.each (partTiles s p) abruptTile) p false else s1
  setPstate ((clearPend (resetHeld (dropHeldXfers s2 p) p) p).modPart p fun x => { x with gracefulPending := false, resetJob := none }) p 6

/-- Every store buffer of the partition is empty. -/
def drained (s : State) (p : Part) : Bool := (partTiles s p).all (sbEmpty s)

/-- Stages 3 to 5, once the stores have drained: the START in progress ends with status 9. -/
def resetEnd (s : State) (p : Part) : State :=
  let s1 := closeImage (partSeams (stage4 (drainSeams s p) p) p true) p 9 0
  startNext (cmdDone s1 p) p

def execResetComplete (p : Part) (s : State) : Res :=
  .next <| if pstate s p = 6 ∧ drained s p ∧ seamsIdle s p then resetEnd s p else s

/-! ## Immediate save (R211 … R214) -/

/-- The registers a save keeps, beside VSLOT and the guard: SEQ_STS, TRAP_*, TVEC, STEP_NO, STEP_LIMIT; ARR_PROG; FMODE,
FSTAT, PLB_STS, PLB_DEV; the state of the channels; CTR_CTL (Table 9.10). -/
def savedKeep (t : Tile) : List Nat :=
  [0x044, 0x048, 0x04C, 0x050, 0x054, 0x058, 0x060, 0x064, 0x068].map (tilePage t 0 + ·)
    ++ [tilePage t 2 + 0x068] ++ [0x040, 0x044, 0x04C, 0x050].map (tilePage t 3 + ·)
    ++ [5, 6, 7, 8].flatMap (fun n => [0x044, 0x048, 0x04C, 0x050, 0x054, 0x060].map (tilePage t n + ·))
    ++ (List.range 8).map (fun i => tilePage t 9 + 0x040 + 4 * i)
    ++ [ctrCtl t] ++ (List.range 64).map (fun i => tilePage t 13 + 0x080 + 4 * i)

/-- The read-to-clear counters and captures of R214. -/
def savedClear (t : Tile) : List Nat :=
  (List.range 6).map (ctrAddr t) ++ (List.range 6).map (fun i => tilePage t 2 + 0x050 + 4 * i)
    ++ (List.range 4).map (fun i => tilePage t 2 + 0x0C0 + 4 * i) ++ (List.range 9).map (fun i => tilePage t 2 + 0x0D0 + 4 * i)
    ++ [0x054, 0x058].map (tilePage t 3 + ·) ++ [0x040, 0x044].map (tilePage t 4 + ·)
    ++ [5, 6, 7, 8].flatMap (fun n => [0x058, 0x05C].map (tilePage t n + ·)) ++ [tilePage t 9 + 0x06C]

/-- Samples still in the capture buffers are discarded, and count in PLB_SKIP (R111). -/
def dropCaptures (s : State) (t : Tile) : State :=
  (s.count (tilePage t 3 + 0x054) (s.vec t).captures.length).modVec t fun v => { v with captures := [] }

/-- Stage 1 of a save in one tile: TRAP_PREEMPT at the boundary before the instruction it stands at; the handler is not
entered. -/
def preemptTile (s0 : State) (t : Tile) : State :=
  let s := dropCaptures s0 t
  if halted s t then s
  else setEvt ((dropWaiter s t).modSeq t fun q => { q with trap := true, stall := none }) (tilePage t 0) 0

/-- The core of a tile as its slot holds it: an unfinished shadow load is pending again, at its place in the queue (R82), and
openAt counts the cycles since the step opened. The histogram is no part of it (R109). -/
def slotCore (s : State) (t : Tile) : TileCore :=
  let c := s.core t
  let back := match c.arr.shadow with
    | some x => if x.img.isNone then [ArrEntry.ldb x.shape x.fmt x.n x.src x.fmode x.ord] else []
    | none => []
  let early := fun e => back.any fun l => decide (entryOrd e < entryOrd l)
  { c with
    seq := { c.seq with trap := false, stall := none, xl := none, openAt := tcyc s t - c.seq.openAt }
    vec := { c.vec with hist := [] }
    arr := { c.arr with
      queue := c.arr.queue.filter early ++ back ++ c.arr.queue.filter fun e => !early e
      shadow := if back.isEmpty then c.arr.shadow else none } }

/-- The save slot of a tile. -/
def saveTile (s : State) (t : Tile) : SavedTile :=
  { tile := t, core := slotCore s t, regs := (savedKeep t ++ savedClear t).map fun a => (a, s.reg a) }

/-- What follows the copy in one tile: the counters clear, what it held is gone, and the trap shows its cause. -/
def afterSave (s : State) (t : Tile) : State :=
  let s1 := s.each (savedClear t) fun s a => s.setReg a 0
  let s2 := if halted s t then s1 else
    (s1.setReg (trapCause t) (BitVec.ofNat 32 trapPreempt)).setReg (trapPc t) (BitVec.ofNat 32 (s.pc t))
  haltTile (discardDma s2 t) t

/-- The atomics the ports of a partition hold for its step. -/
def heldAtomics (s : State) (p : Part) : List (Port × List Yop) :=
  (partPorts s p).filterMap fun y => if (s.port y).heldAtomics.isEmpty then none else some (y, (s.port y).heldAtomics)

/-- Weir records of a kind 1 save. -/
def fullRecords (s : State) (p : Part) : List WeirRec :=
  (mappedHandles s p).map fun e =>
    let w := s.weir e.2
    { handle := e.1, id := e.2, thr := w.thr, count := w.count, epoch := w.epoch, pend := w.pend }

/-- Every tile's drains have ended: stores and engine commands (stage 3). -/
def saveDrained (s : State) (p : Part) : Bool :=
  drained s p && (partTiles s p).all fun t =>
    (s.mem t).engQ.isEmpty && ((s.mem t).scrub.all (·.todo.isEmpty)) && !s.banks.any fun b => b.2.queue.any fun c => c.tile == t

/-- A pre-emption has ended and its command completes (R197); a graceful reset that waited for it is then judged. -/
def afterPreempt (s : State) (p : Part) : State :=
  let x := s.prt p
  let s1 := cmdDone s p
  if x.gracefulPending then resetBegin (s1.modPart p fun y => { y with job := x.resetJob }) p false else startNext s1 p

/-- The image of a partition that was held or being saved ends with a status, and no record is made (R53, R216). -/
def endPreempted (s : State) (p : Part) (status result : Nat) : State :=
  let x := s.prt p
  let s1 := endImage (clearPend s p) p status result
  let s2 := if x.job.isSome then cmdDone s1 p else s1
  if x.gracefulPending then resetBegin (s2.modPart p fun y => { y with job := x.resetJob }) p false else s2

/-- End of an immediate save: the record of kind 1 (stage 5). -/
def saveEnd (s : State) (p : Part) (r : RunImage) : State :=
  let ts := partTiles s p
  let rec0 := mkRecord s p 1 r (stepNo s (r.body.tiles.headD 0)) (fullRecords s p) (ts.map (saveTile s))
  let rec1 := { rec0 with posts := (s.prt p).posts, atomics := heldAtomics s p }
  let late := match (s.prt p).job with | some j => decide (j.at0 + 100000 < s.tsclk) | none => false
  let s1 := discardHeld (s.each ts afterSave) p
  let s2 := (setPstate (putRecord s1 p rec1) p 1).setRbit (partSts p) 7 late
  let s3 := if late then setEvt s2 (partPage p 0) 3 else s2
  afterPreempt (s3.modPart p fun x => { x with image := none, noRelease := false, replayed := false }) p

/-- SAVE_COMPLETE: while a tile fault stands, or a repair has left another geometry, the save waits for the repair and the
fallback (R216). -/
def execSaveComplete (p : Part) (s : State) : Res :=
  .next <|
    match (s.prt p).image with
    | some r =>
      if pstate s p = 4 ∧ (s.prt p).faulty = [] ∧ partGeom s p = r.body.geometryId ∧ saveDrained s p then saveEnd s p r else s
    | none => s

/-- After a repair: a pre-emption that waited makes a record of kind 2, a partition that may not be replayed ends its
image, and else the step is replayed (R53, R216, Table 9.3). -/
def afterRepair (s : State) (p : Part) : State :=
  match (s.prt p).image with
  | none => s
  | some r =>
    let n := stepNo s (r.body.tiles.headD 0)
    if !replayOk s p then endPreempted s p 5 n
    else if (s.prt p).pend = some 4 ∨ pstate s p = 4 then
      let e := (s.prt p).openEpochs
      let rec0 := mkRecord s p 2 r n (epochRecords s p fun h _ => SMap.get zero16 e h) []
      let s1 := s.each (partTiles s p) fun s t => haltTile (discardWork s t) t
      let s2 := clearPend (setPstate (putRecord (discardAll s1 p) p rec0) p 1) p
      afterPreempt (s2.modPart p fun x => { x with image := none, noRelease := false }) p
    else replay s p

/-! ## Restore (R213 … R216) -/

/-- The reason to refuse a restore. -/
def restoreReason (s : State) (p : Part) (r : SaveRec) : Option Nat :=
  if r.weirs.any fun w => match (s.weir w.id).owner with | some q => q != p && decide (pstate s q ≠ 0) | none => false then some 8
  else if r.geometry ≠ partGeom s p then some 9
  else none

/-- Reinstate the weir records: a handle that has no record was invalid, and is again. -/
def putWeirs (s : State) (p : Part) (l : List WeirRec) : State :=
  let gone := (mappedHandles s p).filter fun e => l.all (·.handle != e.1)
  (s.each gone fun s e => weirEntryPut s p e.1 (s.reg (weirEnt p e.1 0) &&& 0x3FFF) (s.reg (weirEnt p e.1 1))).each l fun s w =>
    (weirEntryPut s p w.handle (BitVec.ofNat 32 (0x80000000 + w.id)) w.thr).modWeir w.id fun x =>
      { x with count := w.count, epoch := w.epoch, pend := w.pend, waiters := [] }

/-- Put a saved tile back; a channel in fault hold reports it again (R215), and the histogram stays as it is (R109). -/
def putTile (s : State) (x : SavedTile) : State :=
  let t := x.tile
  let s1 := s.setCore t
    { x.core with
      seq := { x.core.seq with openAt := tcyc s t - x.core.seq.openAt }
      vec := { x.core.vec with hist := (s.vec t).hist } }
  let s2 := s1.each x.regs fun s e => s.setReg e.1 e.2
  s2.each (List.finRange 4) fun s ch => if dmaState s t ch = 2 then setEvt s (dmaPage t ch) 1 else s

/-- Perform the pending releases in ascending handle order. -/
def pendReleases (s : State) (p : Part) (l : List WeirRec) : State :=
  s.each (l.filter (·.pend)) fun s w => releaseWeir s p w.handle w.id

/-- The table region of the record is in force again; cached translations go where it differs (R208). -/
def putRegion (s : State) (p : Part) (r : SaveRec) : State :=
  if s.reg (partPage p 1 + 0x040) = r.tblBase ∧ s.reg (partPage p 1 + 0x044) = r.tblLen then s
  else dropXl ((s.setReg (partPage p 1 + 0x040) r.tblBase).setReg (partPage p 1 + 0x044) r.tblLen) p fun _ => true

/-- Reinstate a record and run on from it; it is consumed (log 34). -/
def restoreOp (s : State) (p : Part) (r : SaveRec) : State :=
  let s1 := putWeirs (putRegion (dropRecord s p) p r) p r.weirs
  if r.kind = 1 then
    let s2 := setPstate (s1.each r.tiles putTile) p 2
    let s3 := s2.modPart p fun x =>
      { x with image := some r.img, openEpochs := r.opens, replayed := r.replayed, posts := r.posts
               noRelease := r.tiles.any fun t => t.core.seq.unabsorbed.isSome }
    let s4 := s3.each r.atomics fun s e => s.modPort e.1 fun u => { u with heldAtomics := u.heldAtomics ++ e.2 }
    let s5 := s4.each r.tiles fun s t => pumpArr s t.tile
    cmdDone (pendReleases s5 p r.weirs) p
  else cmdDone (beginImage s1 p r.img r.img.committed r.stepNo) p

/-- The bound of a restore in ns (Table 9.4). -/
def restoreBound (r : SaveRec) : Nat := if r.kind = 1 then 100000 else 20000

/-- A restore in progress ends at the bound at the latest; a free bit tells whether it ends now (log 46). It waits while
a field of the partition does not run or a tile awaits its repair. -/
def restoreStep (s : State) (p : Part) : State :=
  match (s.prt p).record with
  | some r =>
    if pstate s p ≠ 5 ∨ !(partFields s p).all (fieldRuns s) ∨ (s.prt p).faulty ≠ [] then s
    else
      let (n, s1) := s.fresh
      let due := match (s.prt p).job with | some j => decide (j.at0 + restoreBound r ≤ s.tsclk) | none => true
      if Config.freeBit n || due then restoreOp s1 p r else s1
  | none => s

/-! ## Commands (Table 9.3) -/

/-- Judge a reset command. A graceful reset met in PREEMPTING waits beside the pre-emption; one met in RESETTING is ignored, and
an SQ entry that brought it ends with the reset in progress. -/
def resetCmd (s : State) (p : Part) (abrupt : Bool) (sq : Option (Nat × BitVec 16)) : State :=
  let code := if abrupt then 8 else 7
  match pstate s p with
  | 0 => cmdReject s p 1 sq
  | 4 =>
    if abrupt then setEvt (dropRecord (resetBegin (cmdBegin s p code sq) p true) p) (partPage p 0) 4
    else s.modPart p fun x =>
      let old := match x.resetJob with | some j => j.sq | none => []
      { x with gracefulPending := true, resetJob := some { code := 7, at0 := s.tsclk, sq := old ++ sq.toList } }
  | 6 =>
    if abrupt then resetBegin (cmdBegin s p code sq) p true
    else s.modPart p fun x => { x with job := x.job.map fun j => { j with sq := j.sq ++ sq.toList } }
  | _ => resetBegin (cmdBegin s p code sq) p abrupt

/-- Judge and act on a command of a partition against its present state. Service mode accepts no enable (R340); the
reason it shows is not given (log 8). -/
def doPartCmd (s : State) (m : Master) (p : Part) (code : Nat) (sq : Option (Nat × BitVec 16)) : State :=
  let st := pstate s p
  let rej := fun n => cmdReject s p n sq
  match code with
  | 1 =>
    if st ≠ 0 then rej 1
    else if s.rbit (govPage 7 + 0x044) 4 then
      let (n, s1) := s.fresh
      cmdReject s1 p (Config.freeNat n % 16) sq
    else match enableReason s p with
      | some n => rej n
      | none => enableOp (cmdBegin s p 1 sq) m p
  | 2 => if st ≠ 1 then rej 1 else if partSaved s p then rej 6 else disableOp (cmdBegin s p 2 sq) p
  | 3 =>
    if st ≠ 2 ∧ st ≠ 3 then rej 1
    else if partSaved s p then rej 6
    else setPend (cmdBegin s p 3 sq) p (if st = 3 then 4 else 3)
  | 4 =>
    if st ≠ 2 ∧ st ≠ 3 then rej 1
    else if partSaved s p then rej 6
    else if st = 3 then setPend (cmdBegin s p 4 sq) p 4
    else if !s.rbit (partCfg p) 12 then rej 5
    else setPstate ((clearPend (cmdBegin s p 4 sq) p).each (partTiles s p) preemptTile) p 4
  | 5 =>
    if st ≠ 1 then rej 1
    else match (s.prt p).record with
      | none => rej 7
      | some r => match restoreReason s p r with
        | some n => rej n
        | none => setPstate (cmdBegin s p 5 sq) p 5
  | 6 => if st = 0 ∨ st = 4 ∨ st = 5 then rej 1 else cmdDoneNow (dropRecord s p) p sq
  | 7 => resetCmd s p false sq
  | 8 => resetCmd s p true sq
  | _ => rej 10
where
  /-- A command that completes beside the one in progress. -/
  cmdDoneNow (s : State) (p : Part) (sq : Option (Nat × BitVec 16)) : State :=
    let s1 := (setEvt s (partPage p 0) 0).setReg (partPage p 0 + 0x054) 0
    match sq with
    | some (q, cid) => sqDone s1 p q cid 0 0
    | none => s1

/-- A write of PART_CMD: enable and disable come only from a physical function or the service processor, the others under
the OWNER rules (R196). -/
def partCmdWrite (s : State) (m : Master) (p : Part) (code : Nat) : State :=
  let far := match m with | .svp | .pf _ => true | _ => false
  if (code = 1 ∨ code = 2) ∧ !far then ownReject s m (partCmd p) code
  else owned s m (partCmd p) code fun s => doPartCmd s m p code none

def execEnable (m : Master) (p : Part) (s : State) : Res := .next (partCmdWrite s m p 1)
def execDisable (m : Master) (p : Part) (s : State) : Res := .next (partCmdWrite s m p 2)
def execStepPreemption (m : Master) (p : Part) (s : State) : Res := .next (partCmdWrite s m p 3)
def execImmediatePreemption (m : Master) (p : Part) (s : State) : Res := .next (partCmdWrite s m p 4)
def execRestore (m : Master) (p : Part) (s : State) : Res := .next (partCmdWrite s m p 5)
def execDiscardRecord (m : Master) (p : Part) (s : State) : Res := .next (partCmdWrite s m p 6)
def execGracefulReset (m : Master) (p : Part) (s : State) : Res := .next (partCmdWrite s m p 7)
def execAbruptReset (m : Master) (p : Part) (s : State) : Res := .next (partCmdWrite s m p 8)
/-- A code 0x0 or 0x9 … 0xF is rejected with reason 10; the named codes act as their commands do. -/
def execPartCmdUndefined (m : Master) (p : Part) (code : BitVec 4) (s : State) : Res := .next (partCmdWrite s m p code.toNat)

/-- PART_CFG (R193): by a physical function or the service processor, while the partition is FREE. -/
def execPartCfgWrite (m : Master) (p : Part) (v : BitVec 32) (s : State) : Res :=
  .next <|
    let far := match m with | .svp | .pf _ => true | _ => false
    if !far then ownReject s m (partCfg p) v.toNat
    else if pstate s p = 0 then s.setReg (partCfg p) (v &&& 0x1FFF)
    else setEvt s (partPage p 0) 2

end Sys2Proof.Machine
end

