-- ==== Sys2Proof/Machine/Debug.lean ====
section
/-!
DEFINITION. The debug registers of a sequencer (R342): stop, resume, single step, breakpoints.
-/

namespace Sys2Proof.Machine

/-- May a master write page 1 of a tile: the service processor, and after a debug unlock the physical functions. -/
def dbgAllowed (s : State) : Master → Bool
  | .svp => true
  | .pf _ => s.svc.debugUnlocked
  | _ => false

/-- Any other write is rejected under R257 and logged with class 5. -/
def dbgReject (s : State) (m : Master) (addr value : Nat) : State :=
  logEv (s.count (hubPage 0 + 0x044) 1) 5 342 (logUnit (masterPart s m) none) addr (some m) value

/-- Do k for a master that may write. -/
def dbgOwned (s : State) (m : Master) (t : Tile) (v : Nat) (k : State → State) : State :=
  if dbgAllowed s m then k s else dbgReject s m (dbgCtl t) v

def dbgStopCyc (t : Tile) : Nat := tilePage t 1 + 0x060

/-- Count the cycles of a debug stop up to now. -/
def dbgCount (s : State) (t : Tile) : State :=
  if dbgStopped s t then
    (s.count (dbgStopCyc t) (tcyc s t - (s.seq t).dbgAt)).modSeq t fun q => { q with dbgAt := tcyc s t }
  else s

/-- DBG_CTL.stop: at the next boundary with every older store drained. -/
def dbgStopOp (s : State) (t : Tile) : State :=
  if !s.rbit (dbgCtl t) 0 || dbgStopped s t || halted s t then s
  else boundary (s.modSeq t fun q => { q with stopArmed := true }) t

/-- Leave a debug stop; a breakpoint on the next instruction lets it pass once. -/
def dbgGo (s : State) (t : Tile) (step : Bool) : State :=
  ((dbgCount s t).modReg (dbgSts t) fun w => setBit w 0 false).modSeq t fun q =>
    { q with bpPass := true, stepArmed := step, lastIssue := tcyc s t }

/-- DBG_CTL.resume. -/
def dbgResumeOp (s : State) (t : Tile) : State := if dbgStopped s t then settle (dbgGo s t false) t else s

/-- DBG_CTL.step. -/
def dbgStepOp (s : State) (t : Tile) : State :=
  if !s.rbit (dbgCtl t) 0 || halted s t then s
  else if dbgStopped s t then settle (dbgGo s t true) t
  else s.modSeq t fun q => { q with stepArmed := true, bpPass := true }

/-- A write of DBG_CTL; clearing en ends a stop, since then the registers change nothing in the tile's timing. -/
def dbgCtlOp (s : State) (t : Tile) (v : Word) : State :=
  let s1 := s.setReg (dbgCtl t) (v &&& 1)
  if !bit v 0 then dbgResumeOp (s1.modSeq t fun q => { q with stopArmed := false, stepArmed := false }) t
  else
    let s2 := if bit v 1 then dbgStopOp s1 t else s1
    let s3 := if bit v 2 then dbgResumeOp s2 t else s2
    if bit v 3 then dbgStepOp s3 t else s3

def execDbgStop (m : Master) (t : Tile) (s : State) : Res := .next (dbgOwned s m t 2 fun s => dbgStopOp s t)
def execDbgResume (m : Master) (t : Tile) (s : State) : Res := .next (dbgOwned s m t 4 fun s => dbgResumeOp s t)
def execDbgStep (m : Master) (t : Tile) (s : State) : Res := .next (dbgOwned s m t 8 fun s => dbgStepOp s t)

/-- BREAKPOINT_HIT: the next instruction stands at a valid breakpoint. -/
def execBreakpointHit (t : Tile) (s : State) : Res :=
  .next <|
    let q := s.seq t
    if fieldRuns s (tileField t) && !halted s t && !q.dark && !q.fenced && !q.trap && q.stall.isNone && !dbgStopped s t
        && atBreakpoint s t && !q.bpPass && sbEmpty s t then
      setEvt (dbgStopNow s t 1) (tilePage t 1) 0
    else s

/-- DBG_GDATA: accepted only while stopped; g0 stays 0. -/
def dbgDataOp (s : State) (t : Tile) (v : Word) : State :=
  let r := (fld (s.reg (tilePage t 1 + 0x058)) 0 5).toNat
  if dbgStopped s t && r != 0 then s.modSeq t fun q => { q with g := SMap.set zeroW q.g r v } else s

/-- DBG_GDATA reads the selected register. -/
def dbgData (s : State) (t : Tile) : Word :=
  SMap.get zeroW (s.seq t).g (fld (s.reg (tilePage t 1 + 0x058)) 0 5).toNat

end Sys2Proof.Machine
end

