-- ==== Sys2Proof/Machine/MapCmd.lean ====
section
/-!
DEFINITION. The table region and the map commands of a partition (R206, R207, R209), and translation walks (R208).
-/

namespace Sys2Proof.Machine

def mapSts (p : Part) : Nat := partPage p 1 + 0x05C
def mapBusy (s : State) (p : Part) : Bool := s.rbit (mapSts p) 0

/-! ## What a range of the device map is -/

/-- The 2 MiB unit at a lies in a home well of a tile of the partition. -/
def unitInside (s : State) (p : Part) (a : Nat) : Bool :=
  match placeOf a with
  | .well t _ => partOf s t == some p
  | _ => false

/-- The 2 MiB unit at a lies in the save area (R212). -/
def unitSaved (s : State) (p : Part) (a : Nat) : Bool :=
  s.rbit (partCfg p) 12 &&
    match placeOf a with
    | .well _ o => inSaveArea o
    | _ => false

/-- The 2 MiB units of a page. -/
def units (a : Nat) (size : Bool) : List Nat := if size then (List.range 512).map fun i => a + i * 0x200000 else [a]

/-- A target that result 2 covers. -/
def targetTaken (s : State) (p : Part) (a : Nat) (size : Bool) : Bool :=
  (units a size).any fun u => inTableRegion s p u || unitSaved s p u ||
    match placeOf u with | .reserve _ _ _ => true | _ => false

/-- A target that R206 permits: home wells, or for a 2 MiB page a cistern window, of the partition's tiles. -/
def targetOk (s : State) (p : Part) (a : Nat) (size : Bool) : Bool :=
  (units a size).all (unitInside s p) ||
    (!size && (if h : 0x080000000000 ≤ a ∧ a < 0x080420000000 then
      partOf s ⟨(a - 0x080000000000) / 0x400000, by omega⟩ == some p else false))

/-! ## Tables -/

/-- Address of the L1 entry of va, and what it holds. -/
def l1Addr (s : State) (p : Part) (va : Nat) : Nat := tblBase s p + va / 0x40000000 * 8
def l1Of (s : State) (p : Part) (va : Nat) : Nat := if tblLen s p = 0 then 0 else tblPeek s (l1Addr s p va)

/-- Address of the L2 entry of va under its L1 entry. -/
def l2Addr (l1 va : Nat) : Nat := l1 % 2 ^ 48 / 4096 * 4096 + va / 0x200000 % 512 * 8

/-- The entry that maps va as a page of a size: its address and value, where it is valid. -/
def mapped (s : State) (p : Part) (va : Nat) (size : Bool) : Option (Nat × Nat) :=
  let l1 := l1Of s p va
  if !l1.testBit 0 then none
  else if l1.testBit 1 then (if size then some (l1Addr s p va, l1) else none)
  else if size then none
  else
    let a := l2Addr l1 va
    let l2 := tblPeek s a
    if l2.testBit 0 then some (a, l2) else none

/-- The 4 KiB tables that the L1 table names. -/
def usedTables (s : State) (p : Part) : List Nat :=
  match placeOf (tblBase s p) with
  | .well t o =>
    let b := wellAt (homeShaft s t) o
    s.wells.filterMap fun c =>
      if b ≤ c.1 ∧ c.1 < b + 0x200000 ∧ c.1 % 8 = 0 ∧ c.2.getLsbD 0 ∧ !c.2.getLsbD 1 then
        some (Mem.readLe s.wells c.1 8 % 2 ^ 48 / 4096 * 4096)
      else none
  | _ => []

/-- The lowest free place for an L2 table above the L1 table (log 35). -/
def freeTable (s : State) (p : Part) : Option Nat :=
  let used := usedTables s p
  let n := (tblLen s p - 0x200000) / 4096
  -- among the first used.length + 1 places one is free, if there are so many
  ((List.range (min n (used.length + 1))).map fun i => tblBase s p + 0x200000 + i * 4096).find? fun a => !used.contains a

/-- Zero n bytes of a home well, at most one 2 MiB unit, with the twin copy. -/
def wellZero (s : State) (a n : Nat) : State :=
  let one := fun (s : State) (t : Tile) (o : Nat) =>
    let b := wellAt (homeShaft s t) o
    let inR := fun (g : Nat) => decide (b / 64 ≤ g ∧ g < (b + n) / 64)
    { s with
      wells := Mem.clear s.wells b n
      wellUe := s.wellUe.filter fun g => !inR g
      wellCe := s.wellCe.filter fun e => !inR e.1 }
  match placeOf a with
  | .well t o =>
    let s1 := one s t o
    match twinOf s1 t o with
    | some (_, t') => one s1 t' o
    | none => s1
  | _ => s

/-- Permission bits of an entry. -/
def permBits (r w : Bool) : Nat := (if r then 4 else 0) + (if w then 8 else 0)

/-! ## Judging a command (R207) -/

/-- The result a command gives, 0 where it is accepted: the first that applies in the order 6, 3, 2, 1, 7, 4, 5. -/
def mapJudge (s : State) (p : Part) (op : BitVec 2) (c : MapArgs) : Nat :=
  let st := pstate s p
  let va := c.va.toNat
  let tgt := c.tgt.toNat
  let l1 := l1Of s p va
  let isMap := op == 0
  if st = 0 ∨ st = 4 ∨ st = 5 ∨ st = 6 then 6
  else if op = 3 ∨ va % pageSize c.size ≠ 0 ∨ (isMap ∧ tgt % pageSize c.size ≠ 0) then 3
  else if isMap && targetTaken s p tgt c.size then 2
  else if isMap && !targetOk s p tgt c.size then 1
  else if l1.testBit 0 && (l1.testBit 1 != c.size) then 7
  else if (mapped s p va c.size).isSome = isMap then 4
  else if isMap ∧ (tblLen s p = 0 ∨ (!c.size ∧ !l1.testBit 0 ∧ (freeTable s p).isNone)) then 5
  else 0

/-- Act on an accepted command. -/
def mapApply (s : State) (p : Part) (op : BitVec 2) (c : MapArgs) : State :=
  let va := c.va.toNat
  let leaf := 3 + permBits c.r c.w
  match op, mapped s p va c.size with
  | 0, _ =>
    if c.size then tblWrite s (l1Addr s p va) (leaf + c.tgt.toNat / 2 ^ 30 * 2 ^ 30)
    else
      let l1 := l1Of s p va
      let s1 := if l1.testBit 0 then s else
        match freeTable s p with
        | some a => tblWrite (wellZero s a 4096) (l1Addr s p va) (1 + permBits true true + a)
        | none => s
      tblWrite s1 (l2Addr (l1Of s1 p va) va) (leaf + c.tgt.toNat / 2 ^ 21 * 2 ^ 21)
  | 1, some (a, _) =>
    let s1 := tblWrite s a 0
    let l1 := l1Of s p va
    let s2 := if c.size ∨ (List.range 512).any (fun i => (tblPeek s1 (l1 % 2 ^ 48 / 4096 * 4096 + 8 * i)).testBit 0) then s1
      else tblWrite s1 (l1Addr s p va) 0
    dropXl s2 p fun e => e.covers p va
  | 2, some (a, v) =>
    dropXl (tblWrite s a (v / 16 * 16 + leaf)) p fun e => e.covers p va
  | _, _ => s

/-- Show the result of a command. -/
def mapResult (s : State) (p : Part) (n : Nat) : State :=
  s.modReg (mapSts p) fun w => setFld (setBit w 0 false) 1 (BitVec.ofNat 3 n)

/-- The device range of the page whose entry an unmap or a protect ends (R209). -/
def oldPage (s : State) (p : Part) (op : BitVec 2) (c : MapArgs) : Option (Nat × Nat) :=
  if op = 0 then none
  else (mapped s p c.va.toNat c.size).map fun x => (x.2 % 2 ^ 48 / pageSize c.size * pageSize c.size, pageSize c.size)

/-- Some access that was issued under the old entry of a device range has not completed: a granule in a store buffer, an
engine command (R209). -/
def oldAccess (s : State) (p : Part) (b n : Nat) : Bool :=
  let cmd := fun (t : Tile) (c : EngCmd) =>
    c.tile == t && (c.z ++ c.x ++ c.y).any fun o => decide (b < homeDpa t o + 0x200000 ∧ homeDpa t o < b + n)
  (partTiles s p).any fun t =>
    ((s.mem t).sb.any fun e => decide (b ≤ e.granule * 64 ∧ e.granule * 64 < b + n))
      || (s.mem t).engQ.any (cmd t) || s.banks.any fun e => e.2.queue.any (cmd t)

/-- A map command may complete. -/
def mapCan (s : State) (p : Part) (j : MapJob) : Bool :=
  match j.old with
  | some (b, n) => !oldAccess s p b n
  | none => true

/-- Start a map command: one met while busy is dropped with its event; a rejected one shows its result at once. -/
def mapStart (s : State) (p : Part) (op : BitVec 2) (c : MapArgs) (sq : Option (Nat × BitVec 16)) : State :=
  if mapBusy s p then setEvt s (partPage p 1) 0
  else
    let n := mapJudge s p op c
    if n ≠ 0 then
      let s1 := mapResult s p n
      match sq with
      | some (q, cid) => sqDone s1 p q cid 0 n
      | none => s1
    else
      ((mapApply s p op c).setRbit (mapSts p) 0 true).modPart p fun x =>
        { x with map := some { op := op, args := c, result := 0, sq := sq, old := oldPage s p op c } }

/-- The MAP registers of a command's operands. -/
def putMapRegs (s : State) (p : Part) (op : BitVec 2) (c : MapArgs) : State :=
  let a := partPage p 1
  let put := fun (s : State) (o : Nat) (v : Nat) => s.setReg (a + o) (BitVec.ofNat 32 v)
  let s1 := put (put s 0x048 (c.va.toNat % 2 ^ 32 / 2 ^ 21 * 2 ^ 21)) 0x04C (c.va.toNat / 2 ^ 32)
  let s2 := put (put s1 0x050 (c.tgt.toNat % 2 ^ 32 / 2 ^ 21 * 2 ^ 21)) 0x054 (c.tgt.toNat / 2 ^ 32)
  put s2 0x058 (op.toNat + (if c.size then 4 else 0) + (if c.r then 8 else 0) + (if c.w then 16 else 0))

/-- The operands in the MAP registers. -/
def mapRegs (s : State) (p : Part) : BitVec 2 × MapArgs :=
  let a := partPage p 1
  let ctl := s.reg (a + 0x058)
  (fld ctl 0 2,
    { va := BitVec.ofNat 48 ((s.reg (a + 0x048)).toNat + (s.reg (a + 0x04C)).toNat * 2 ^ 32)
      tgt := BitVec.ofNat 48 ((s.reg (a + 0x050)).toNat + (s.reg (a + 0x054)).toNat * 2 ^ 32)
      size := bit ctl 2, r := bit ctl 3, w := bit ctl 4 })

/-- A map command given through the MAP registers of page 1: its operands, and go. -/
def mapCmd (s : State) (m : Master) (p : Part) (op : BitVec 2) (c : MapArgs) : State :=
  owned s m (partPage p 1 + 0x058) op.toNat fun s => mapStart (putMapRegs s p op c) p op c none

def execMap (m : Master) (p : Part) (c : MapArgs) (s : State) : Res := .next (mapCmd s m p 0 c)
def execUnmap (m : Master) (p : Part) (c : MapArgs) (s : State) : Res := .next (mapCmd s m p 1 c)
def execProtect (m : Master) (p : Part) (c : MapArgs) (s : State) : Res := .next (mapCmd s m p 2 c)
def execMapOpInvalid (m : Master) (p : Part) (c : MapArgs) (s : State) : Res := .next (mapCmd s m p 3 c)

/-- A map command completes, once every access under an entry it ended has: busy clears, the result stands, and an SQ entry
completes. -/
def execMapCommandComplete (p : Part) (s : State) : Res :=
  .next <|
    match (s.prt p).map with
    | none => s
    | some j =>
      if !mapCan s p j then s
      else
        let s1 := (mapResult s p j.result.toNat).modPart p fun x => { x with map := none }
        match j.sq with
        | some (q, cid) => sqDone s1 p q cid 0 j.result.toNat
        | none => s1

/-! ## Table region (R206) -/

/-- The region of a base and a length may be named. -/
def regionOk (s : State) (p : Part) (base len : Nat) : Bool :=
  (List.range len).all fun i => let u := (base + i) * 0x200000; unitInside s p u && !unitSaved s p u

/-- The module writes the new L1 table: MAP_STS.busy until it has done so, and the last result stands. -/
def tableClear (s : State) (p : Part) : State :=
  if mapBusy s p then s
  else (s.setRbit (mapSts p) 0 true).modPart p fun x =>
    { x with map := some { op := 3, args := { va := 0, tgt := 0, size := false, r := false, w := false }
                           result := fld (s.reg (mapSts p)) 1 3, sq := none, old := none } }

/-- A write of PART_TBL_BASE or PART_TBL_LEN: accepted in IDLE with a legal region; a change discards every mapping. -/
def execTableRegionWrite (m : Master) (p : Part) (len : Bool) (v : BitVec 32) (s : State) : Res :=
  let a := partPage p 1 + (if len then 0x044 else 0x040)
  .next <| owned s m a v.toNat fun s =>
    let w := v &&& (if len then 0xFFF else 0x7FFFFFF)
    let s1 := s.setReg a w
    if pstate s p ≠ 1 ∨ !regionOk s p (tblBase s1 p / 0x200000) (tblLen s1 p / 0x200000) then setEvt s (partPage p 0) 2
    else if s.reg a = w then s
    else
      let s2 := dropXl s1 p fun _ => true
      if tblLen s2 p = 0 then s2 else tableClear (wellZero s2 (tblBase s2 p) 0x200000) p

/-- A walk for the sequencer's next access to va: the unit and the sequencer hold the translation, or TRAP_XLATE. -/
def execTranslationWalk (t : Tile) (va : BitVec 48) (wr : Bool) (s : State) : Res :=
  .next <|
    if !fieldRuns s (tileField t) then s
    else
      match xlate s t .seq va.toNat wr with
      | (.ok _, s1) => s1
      | (.error _, s1) => if canIssue s t then raiseTrap s1 t trapXlate va.toNat else s1

end Sys2Proof.Machine
end

