-- ==== Sys2Proof/Machine/Queue.lean ====
section
/-!
DEFINITION. Submission queues, completion queues and tile posts of a partition (R249 … R252).
-/

namespace Sys2Proof.Machine

/-! ## Doorbell (R249, R250) -/

def sqHead (s : State) (p : Part) (q : Fin 64) : BitVec 6 := fld (s.reg (qpReg p q 0x054)) 0 6

/-- A new tail hands over the entries up to it; a tail behind the entries already handed over lies beyond the full mark. -/
def doorbellOp (s : State) (p : Part) (q : Fin 64) (tail : BitVec 6) : State :=
  let h := sqHead s p q
  if (tail - h).toNat < (((s.prt p).qp q).tail - h).toNat then s.setRbit (qpReg p q 0x054) 6 true
  else s.modPart p (·.modQp q fun r => { r with tail := tail })

def execSqDoorbell (m : Master) (p : Part) (q : Fin 64) (tail : BitVec 6) (s : State) : Res :=
  .next <| owned s m (qpReg p q 0x04C) tail.toNat fun s => doorbellOp s p q tail

/-! ## Entries (R250, Table 11.3) -/

/-- Place of byte o of the entry at the head, in the queue memory: page 128 + q lies at q × 4,096. -/
def sqByte (s : State) (p : Part) (q : Fin 64) (o : Nat) : Nat := q.val * 4096 + (sqHead s p q).toNat * 64 + o

/-- Little-endian value of n bytes of the entry at the head. -/
def sqLe (s : State) (p : Part) (q : Fin 64) (o n : Nat) : Nat := Mem.readLe (s.prt p).sqMem (sqByte s p q o) n

/-- Opcode of the entry at the head: 1 … 4, or 0 for any other and for an entry whose bits 63:24 are not 0. -/
def sqOp (s : State) (p : Part) (q : Fin 64) : Nat :=
  let w := sqLe s p q 0 8
  if w / 2 ^ 24 = 0 ∧ 1 ≤ w % 256 ∧ w % 256 ≤ 4 then w % 256 else 0

/-- Command ID of the entry at the head. -/
def sqCid (s : State) (p : Part) (q : Fin 64) : BitVec 16 := BitVec.ofNat 16 (sqLe s p q 1 2)

/-- The hub can take the entry at the head of a pair: the pair is enabled, its link is up (R245), an entry waits, and the
partition's previous command of its kind lets it start. -/
def sqEligible (s : State) (p : Part) (q : Fin 64) : Bool :=
  let x := s.prt p
  s.rbit (qpReg p q 0x040) 0 && s.hub.linkUp.getLsbD (qpPort s p q).val && sqHead s p q != (x.qp q).tail &&
    match sqOp s p q with
    | 1 => decide (x.starts.length + (if x.image.isSome then 1 else 0) < 4)
    | 2 => (match x.job with | some j => j.sq.isEmpty | none => true)
    | 3 => !mapBusy s p
    | 4 => (x.qp q).busy.isEmpty
    | _ => true

/-- The pair whose turn it is: round robin of q, one entry per turn. -/
def sqTurn (s : State) (p : Part) : Option (Fin 64) :=
  ((List.range 64).filterMap fun i =>
    let q : Fin 64 := ⟨((s.prt p).turn + i) % 64, Nat.mod_lt _ (by decide)⟩
    if sqEligible s p q then some q else none).head?

/-- Take the entry at the head: it is executing, and the next pair has its turn. -/
def sqTake (s : State) (p : Part) (q : Fin 64) : State :=
  let cid := sqCid s p q
  let s1 := s.modReg (qpReg p q 0x054) fun w => setFld w 0 (fld w 0 6 + 1)
  s1.modPart p fun x => { (x.modQp q fun r => { r with busy := r.busy ++ [cid] }) with turn := (q.val + 1) % 64 }

/-- Execute the entry at the head of q where it is an entry of this opcode and its turn has come. -/
def sqEntry (s : State) (p : Part) (q : Fin 64) (op : Nat) (k : State → BitVec 16 → State) : State :=
  if sqTurn s p = some q ∧ sqOp s p q = op then k (sqTake s p q) (sqCid s p q) else s

/-- A START waits for the one before it; on a FREE partition it is rejected by the partition's state. -/
def startOp (s : State) (p : Part) (r : StartReq) : State :=
  if pstate s p = 0 then sqDone s p r.q r.cid 4 (fld (s.reg (partSts p)) 8 4).toNat
  else startNext (s.modPart p fun x => { x with starts := x.starts ++ [r] }) p

def execStart (p : Part) (q : Fin 64) (img : Image) (s : State) : Res :=
  .next <|
    let va := BitVec.ofNat 48 (sqLe s p q 8 8)
    let id := BitVec.ofNat 64 (sqLe s p q 16 8)
    sqEntry s p q 1 fun s cid => startOp s p { q := q.val, cid := cid, va := va, imageId := id, img := img }

/-- A queued partition command comes from the partition itself: enable and disable are not its to give (R196). -/
def pcmdOp (s : State) (p : Part) (q : Fin 64) (cid : BitVec 16) (code : Nat) : State :=
  let m := Master.vf (qpPort s p q) p
  if code = 1 ∨ code = 2 then
    sqDone (ownReject s m (partCmd p) code) p q.val cid 4 (fld (s.reg (partSts p)) 8 4).toNat
  else doPartCmd s m p code (some (q.val, cid))

def execPcmd (p : Part) (q : Fin 64) (s : State) : Res :=
  .next <|
    let code := sqLe s p q 8 1
    sqEntry s p q 2 fun s cid => pcmdOp s p q cid code

/-- Operands of a queued map command: VA in bytes 8 … 15, target in 16 … 23, MAP_CTL in 24 … 27. -/
def sqMapArgs (s : State) (p : Part) (q : Fin 64) : BitVec 2 × MapArgs :=
  let ctl := BitVec.ofNat 32 (sqLe s p q 24 4)
  (fld ctl 0 2, { va := BitVec.ofNat 48 (sqLe s p q 8 8), tgt := BitVec.ofNat 48 (sqLe s p q 16 8)
                  size := bit ctl 2, r := bit ctl 3, w := bit ctl 4 })

def execSqMap (p : Part) (q : Fin 64) (s : State) : Res :=
  .next <|
    let a := sqMapArgs s p q
    sqEntry s p q 3 fun s cid => mapStart s p a.1 a.2 (some (q.val, cid))

def execSqFence (p : Part) (q : Fin 64) (s : State) : Res :=
  .next <| sqEntry s p q 4 fun s cid => sqDone s p q.val cid 0 0

def execSqUndefined (p : Part) (q : Fin 64) (s : State) : Res :=
  .next <| sqEntry s p q 0 fun s cid => sqDone s p q.val cid 8 0

/-! ## Completion queue (R251) -/

def cqHeadOp (s : State) (p : Part) (q : Fin 64) (v : Word) : State :=
  cqFlush (s.setReg (qpReg p q 0x050) (v &&& 0xFFF)) p q

def execCqHeadWrite (m : Master) (p : Part) (q : Fin 64) (v : BitVec 32) (s : State) : Res :=
  .next <| owned s m (qpReg p q 0x050) v.toNat fun s => cqHeadOp s p q v

/-- QP_CFG: other values of cq_log than 4 … 12 are rejected. -/
def qpCfgOp (s : State) (p : Part) (q : Fin 64) (v : Word) : State :=
  let n := (fld v 3 4).toNat
  if 4 ≤ n ∧ n ≤ 12 then cqFlush (s.setReg (qpReg p q 0x040) (v &&& 0x7F)) p q else s

/-! ## Tile posts (R252) -/

/-- The hub keeps the command ID of a tile of the partition; another tile's write is dropped (R32). -/
def postIdOp (s : State) (p : Part) (q : Fin 64) (t : Tile) (v : Word) : State :=
  if partOf s t = some p then
    s.modPart p fun x => { x with latches := SMap.set zero16 x.latches t.val (fld v 0 16) }
  else unmapped s (qpReg p q 0x060) (.tile t)

/-- A write that reaches HQ_POST_HI posts, held until the step commits (R52). -/
def postOp (s : State) (p : Part) (q : Fin 64) (t : Tile) (hi : Word) : State :=
  if partOf s t = some p then
    let v := (s.reg (qpReg p q 0x058)).toNat + hi.toNat * 2 ^ 32
    s.modPart p fun x =>
      { x with posts := x.posts ++
          [{ q := q.val, tile := t, cid := SMap.get zero16 x.latches t.val, value := BitVec.ofNat 64 v }] }
  else unmapped s (qpReg p q 0x05C) (.tile t)

def execHqPostIdWrite (t : Tile) (q : Fin 64) (v : BitVec 32) (s : State) : Res :=
  .next <|
    match partOf s t with
    | some p => owned s (.tile t) (qpReg p q 0x060) v.toNat fun s => postIdOp s p q t v
    | none => s

/-- An 8-byte store of HQ_POST_LO, which covers HQ_POST_HI. -/
def execHqPost (t : Tile) (q : Fin 64) (v : BitVec 64) (s : State) : Res :=
  .next <|
    match partOf s t with
    | some p => owned s (.tile t) (qpReg p q 0x058) v.toNat fun s =>
        postOp (s.setReg (qpReg p q 0x058) (v.setWidth 32)) p q t ((v >>> 32).setWidth 32)
    | none => s

end Sys2Proof.Machine
end

