-- ==== Sys2Proof/Machine/Ensemble.lean ====
section
/-!
DEFINITION. Messages of the ensemble and of peers on channel 3 (R241, R242, R27, R303).
-/

namespace Sys2Proof.Machine

/-- An ensemble message is refused. -/
def ensReject (s : State) (y : Port) : State := portEvt s y 8

/-- GOV_FCEIL. -/
def fceil (s : State) : Nat := (fld (s.reg (govReg 0x050)) 0 6).toNat

/-- Show the pending setpoint (YENS_STS). -/
def putYens (s : State) (code : Nat) (pending : Bool) : State :=
  s.setReg yensSts (BitVec.ofNat 32 (code + if pending then 64 else 0))

/-- A member takes a newer setpoint: late, capped at the local ceiling, or accepted (R242). The manual gives the LAG that
follows a capped one no cause: it is a free one of the three (log 70). -/
def setpointTake (s : State) (seq : Nat) (code : BitVec 6) (time : Nat) : State :=
  let s1 := s.modGov fun g => { g with lastSeq := some seq }
  if time < s.tsclk + 2000000 then ensSend s1 (.ack (ensGroup s) seq 1)
  else
    let c := min code.toNat (fceil s)
    let s2 := putYens (s1.modGov fun g =>
      { g with setpoint := some { seq := seq, code := BitVec.ofNat 6 c, time := time } }) c true
    if fceil s < code.toNat then
      let (n, s3) := s2.fresh
      sendLag (ensSend s3 (.ack (ensGroup s) seq 2)) (BitVec.ofNat 6 (fceil s)) (BitVec.ofNat 2 (Config.freeNat n % 3))
    else ensSend s2 (.ack (ensGroup s) seq 0)

/-- SETPOINT: from the leader, for this group, with a code of R241; a copy counts once, and an older one is refused. -/
def execSetpoint (y : Port) (src group : BitVec 16) (seq : Nat) (code : BitVec 6) (time : BitVec 64) (s : State) : Res :=
  .next <|
    if !portUp s y then s
    else if group ≠ ensGroup s ∨ src ≠ fld (s.reg yensLeader) 0 16 ∨ 36 < code.toNat then ensReject s y
    else
      match s.gov.lastSeq with
      | some n =>
        if seq = n then s
        else if seq < n then ensReject s y
        else setpointTake (if time.toNat < s.tsclk + 2000000 then ensReject s y else s) seq code time.toNat
      | none => setpointTake (if time.toNat < s.tsclk + 2000000 then ensReject s y else s) seq code time.toNat

/-- This module leads its ensemble. -/
def leads (s : State) : Bool := moduleId s == fld (s.reg yensLeader) 0 16

/-- ACK: the leader records the member's status. -/
def execAck (y : Port) (src group : BitVec 16) (seq : Nat) (status : BitVec 2) (s : State) : Res :=
  .next <|
    if !portUp s y then s
    else if group ≠ ensGroup s then ensReject s y
    else if !leads s then s
    else s.modGov fun g => { g with acks := g.acks.filter (fun a => !(a.1 == src && a.2.1 == seq)) ++ [(src, seq, status)] }

/-- The setpoint code that is in force or pending. -/
def codeAhead (s : State) : Nat := match s.gov.setpoint with | some p => p.code.toNat | none => codeNow s

/-- LAG: the leader lowers the setpoint for the group, and applies it as a member does. T lies 2 … 48 ms ahead (R293),
and where is not given (log 8). -/
def execLag (y : Port) (src group : BitVec 16) (seq : Nat) (code : BitVec 6) (cause : BitVec 2) (s : State) : Res :=
  .next <|
    if !portUp s y then s
    else if group ≠ ensGroup s then ensReject s y
    else if !leads s then s
    else
      let s1 := s.modGov fun g => { g with lags := g.lags.filter (fun l => l.1 != src) ++ [(src, seq, code, cause)] }
      if codeAhead s ≤ code.toNat then s1
      else
        let (n, s2) := s1.fresh
        let t := s.tsclk + 2000000 + Config.freeNat n % 46000001
        let next := s.gov.lastSeq.getD 0 + 1
        setpointTake (ensSend s2 (.setpoint (ensGroup s) next code t)) next code t

/-- Every field switches to the pending setpoint. -/
def applySetpoint (s : State) : State :=
  match s.gov.setpoint with
  | none => s
  | some p =>
    putYens ((setCode s p.code.toNat).modGov fun g => { g with setpoint := none, forceSeq := p.seq }) p.code.toNat false

/-- SETPOINT_APPLY: at T; during a stop it waits for the restart (R303). -/
def execSetpointApply (s : State) : Res :=
  .next <|
    match s.gov.setpoint with
    | some p => if p.time ≤ s.tsclk ∧ !stopped s then applySetpoint s else s
    | none => s

/-- HALT: the peer is stopped, and timeouts for it are suspended until RESUME or DOWN (R303). -/
def execHaltMessage (y : Port) (s : State) : Res :=
  .next <| if portUp s y then s.modPort y fun u => { u with peerHalted := true } else s
def execResumeMessage (y : Port) (s : State) : Res :=
  .next <| if portUp s y then s.modPort y fun u => { u with peerHalted := false } else s
def execDownMessage (y : Port) (s : State) : Res :=
  .next <| if portUp s y then s.modPort y fun u => { u with peerHalted := false } else s

end Sys2Proof.Machine
end

