-- ==== Sys2Proof/Machine/Stop.lean ====
section
/-!
DEFINITION. Stops, restarts and the sequenced power-down (R300 … R304, R349, R351), and the loss of TSCLK discipline (R22).
-/

namespace Sys2Proof.Machine

def castSts : Nat := govPage 4 + 0x044
def castState (s : State) : Nat := (fld (s.reg castSts) 0 2).toNat
def presSts : Nat := govPage 7 + 0x044
def svcMode (s : State) : Bool := s.rbit presSts 4
def override (s : State) : Bool := s.rbit presSts 5
def State.modPins (s : State) (f : Pins → Pins) : State := s.modSvc fun v => { v with pins := f v.pins }

/-- TRAY_ALERT_N, true for high (R349). -/
def trayAlertN (s : State) : Bool :=
  !(stopped s || s.rbit govSts 8 || decide (castState s = 3) || svcMode s || s.rbit (govPage 0 + 0x010) 3
    || s.rbit (govPage 0 + 0x010) 1)

/-! ## Stop and restart -/

/-- Fields that run or are stopped at retention. -/
def powered (s : State) (f : Field) : Bool := (s.fld f).supply == .on || (s.fld f).supply == .stopped

/-- Actions A … D in every field (Table 13.5): HALT to the peers, self-refresh, FCLK gated, rails at retention. -/
def stopOp (s : State) : State :=
  let s1 := (List.finRange 24).foldl (fun s y => if portUp s y then yControl s y .halt else s) (govEvt s 8)
  let s2 := (List.finRange 48).foldl (fun s f =>
    if (s.fld f).supply == .on then
      s.modFld f fun x => { x with supply := .stopped, selfRefresh := x.fclkRun || x.selfRefresh, fclkRun := false }
    else s) s1
  s2.setRbit govSts 2 true

/-- A field leaves retention: its PLL is locked, and its wells stay in self-refresh for 1 µs (R23). -/
def restartField (s : State) (f : Field) : State :=
  if (s.fld f).supply == .stopped then
    s.modFld f fun x => { x with supply := .on, fclkRun := x.selfRefresh, fclkSince := s.tsclk }
  else s

/-- Casting was under way when the module stopped: it restarts at stage 4 with a fresh bound (R320). -/
def castAgain (s : State) : State :=
  if castState s = 0 ∧ 4 ≤ (fld (s.reg castSts) 2 4).toNat then
    (s.modReg castSts fun w => setFld w 2 (4 : BitVec 4)).modSvc fun v => { v with castAt := s.tsclk }
  else s

/-- Restart: a setpoint whose T has passed applies before FCLK runs; then the fields run, and the ports send RESUME. -/
def resumeOp (s : State) : State :=
  let s1 := match s.gov.setpoint with
    | some p => if p.time ≤ s.tsclk then applySetpoint s else s
    | none => s
  let s2 := (List.finRange 48).foldl restartField (s1.setRbit govSts 2 false)
  let s3 := (List.finRange 24).foldl (fun s y => if portUp s y then yControl s y .resume else s) s2
  let s4 := match s.svc.stoppedAt with
    | some a => (charge s3 (s.tsclk - a)).modSvc fun v => { v with stoppedAt := none }
    | none => s3
  settleAll (castAgain (s4.modGov fun g => { g with firstWindow := true }))

/-- Bits of GOV_STS.cause. -/
def cTrip : Nat := 3
def cFlow : Nat := 4
def cTray : Nat := 5
def cVin : Nat := 6
def cHost : Nat := 7

/-- A stop condition arises (a stop that no master ordered is charged, R338); the trip and the flow loss start the 5 s wait, from the first that has one (R304). -/
def raiseStop (s : State) (c : Nat) : State :=
  if s.svc.power ≠ .on then s
  else
    let s0 := if c = cHost then s else s.modSvc fun v => { v with stoppedAt := some (v.stoppedAt.getD s.tsclk) }
    let s1 := s0.setRbit govSts c true
    let s2 := if (c = cTrip ∨ c = cFlow) ∧ !s1.rbit govSts 8 then
        (s1.setRbit govSts 8 true).modGov fun g => { g with waitAt := some s.tsclk }
      else s1
    if stopped s2 then s2 else stopOp s2

/-- A stop condition ends; the module restarts when none remains. -/
def clearStop (s : State) (c : Nat) : State :=
  let s1 := s.setRbit govSts c false
  let s2 := if s1.rbit govSts cTrip || s1.rbit govSts cFlow then s1
    else (s1.setRbit govSts 8 false).modGov fun g => { g with waitAt := none }
  if stopped s2 ∧ fld (s2.reg govSts) 3 5 = 0 then resumeOp s2 else s2

/-! ## Power-down (R302, R303) -/

/-- What a held request ends as: reads with poisoned data, writes dropped and logged; what came in on a port is gone. -/
def dropHeld (s : State) : Instr → State
  | .hostMemoryRead h _ _ _ => s.emit (.host h .poison)
  | .hostMemoryWrite h _ _ => logEv s (Config.openClass 303) 303 0 (hubPage 0) (some (.pf h)) 0
  | .hostWriteback h _ _ _ => logEv s (Config.openClass 303) 303 0 (hubPage 0) (some (.pf h)) 0
  | _ => s

/-- Every well is lost. -/
def loseWells (s : State) : State := { s with wells := [], wellUe := [], wellCe := [], banks := [] }

/-- A partition is lost with its wells: its image ends with status 7 (Table 11.4), and every store-buffer entry is written
first (Table 2.7). -/
def losePart (s : State) (p : Part) : State :=
  let s1 := if (s.prt p).image.isSome then closeImage (discardAll s p) p 7 0 else s
  (s1.each (partTiles s1 p) fun s t => discardWork (haltTile s t) t).each (partTiles s1 p) sbDrainAll

/-- A field is switched off in sequence. -/
def fieldOff (s : State) (f : Field) : State :=
  s.modFld f fun x => { x with supply := .off, fclkRun := false, selfRefresh := false, xcache := [], merge := [], held := [] }

/-- The sequenced power-down: DOWN to the peers, held requests completed, fields off, PGOOD_OUT and FAULT_N low. Only cold
casting restarts the module. -/
def powerDown (s : State) : State :=
  if s.svc.power ≠ .on then s
  else
    let s1 := logEv (govEvt s 9) (Config.openClass 302) 302 0 (govPage 0) none 0
    let s2 := (List.finRange 24).foldl (fun s y => if portUp s y then yControl s y .down else s) s1
    let s3 := s2.hub.held.foldl dropHeld (s2.modHub fun u => { u with held := [] })
    let s4 := (List.finRange 16).foldl (fun s p => if pstate s p = 0 then s else losePart s p) s3
    let s5 := (List.finRange 24).foldl bringDown ((List.finRange 48).foldl fieldOff (loseWells s4))
    let s6 := (s5.setRbit govSts 8 false).modGov fun g => { g with waitAt := none }
    let s7 := s6.setRbit castSts 6 false
    s7.modSvc fun v =>
      { v with power := .down, downAt := s.tsclk, pins := { v.pins with pgood := false, faultN := false } }

/-- STOP_WAIT_TIMEOUT: 5 s without the resumption condition, or a sensor (0.1 °C) at 112 °C in the wait. -/
def execStopWaitTimeout (hottest : Nat) (s : State) : Res :=
  .next <|
    match s.gov.waitAt with
    | some w => if s.rbit govSts 8 && decide (w + 5000000000 ≤ s.tsclk ∨ 1120 ≤ hottest) then powerDown s else s
    | none => s

/-- PWR_EN held low for 1 ms (R351): it ends a casting in progress. -/
def execPwrEnLow (s : State) : Res := .next (powerDown (s.modPins fun p => { p with pwrEn := false }))

/-! ## Conditions (Table 13.6) -/

/-- A junction sensor of a field, in 0.1 °C. -/
def execInternalThermalTrip (f : Field) (temp : Nat) (s : State) : Res :=
  .next <|
    if temp < 1150 ∨ fieldDark s f then s
    else raiseStop (s.modPins fun p => { p with thermTripN := false }) cTrip

def execTrayStop (s : State) : Res :=
  .next <| if s.svc.pins.trayStopN then raiseStop (s.modPins fun p => { p with trayStopN := false }) cTray else s

def execTrayStopRelease (s : State) : Res :=
  .next <| if s.svc.pins.trayStopN then s else clearStop (s.modPins fun p => { p with trayStopN := true }) cTray

/-- TRAY_FLOW_LOSS_N falls; a coolant trip override ignores it (Table 15.8). -/
def execTrayFlowLoss (s : State) : Res :=
  .next <|
    if s.svc.pins.flowLossN then
      let s1 := s.modPins fun p => { p with flowLossN := false }
      if override s then s1 else raiseStop s1 cFlow
    else s

/-- TRAY_FLOW_LOSS_N has been high for 100 ms. -/
def execFlowRestored (s : State) : Res := .next (clearStop (s.modPins fun p => { p with flowLossN := true }) cFlow)

def govStop : Nat := govReg 0x058

/-- GOV_STOP.stop. -/
def stopWrite (s : State) (m : Master) : State :=
  owned s m govStop 1 fun s => safetyWrite s m govStop 1 false fun s => raiseStop s cHost
def execGovStop (m : Master) (s : State) : Res := .next (stopWrite s m)

/-- GOV_STOP.run (R259, R301): the host or service stop ends, and a trip where every sensor reads at most 80 °C. -/
def govRunWrite (s : State) (m : Master) (hottest : Nat) : State :=
  owned s m govStop 2 fun s => safetyWrite s m govStop 2 true fun s =>
    let cool := s.rbit govSts cTrip && decide (hottest ≤ 800)
    let s1 := if cool then (s.modPins fun p => { p with thermTripN := true }).setRbit govSts cTrip false else s
    clearStop s1 cHost
def execGovRun (m : Master) (hottest : Nat) (s : State) : Res := .next (govRunWrite s m hottest)

/-! ## PPS_IN (R22) -/

def execPpsLoss (s : State) : Res := .next ((s.modPins fun p => { p with pps := false }).setRbit govSts 0 true)
def execPpsRestored (s : State) : Res := .next ((s.modPins fun p => { p with pps := true }).setRbit govSts 0 false)

end Sys2Proof.Machine
end

