-- ==== Sys2Proof/Machine/TileRepair.lean ====
section
/-!
DEFINITION. A failed tile is repaired in hardware (R61, R314, R323 … R328): by the spare cell row of its group, by the
remap of its segment, or, where the segment's spare is spent, not at all.
-/

namespace Sys2Proof.Machine

def setSpare (s : State) (t : Tile) (g row : Nat) : State :=
  s.modReg (arrSpare t g) fun w => setFld w (8 * (g % 4)) (BitVec.ofNat 6 row)

/-- A physical tile is failed: it joins the failed set and its soft-repair entry counts one more failure (R314). -/
def failShaft (s : State) (n : Nat) : State :=
  s.modSvc fun v => { v with failed := insertNat v.failed n, soft := SMap.set zeroN v.soft n (SMap.get zeroN v.soft n + 1) }

/-- The segment of a tile in its field: its row among eight. -/
def segOf (t : Tile) : Nat := tileSeg t

/-- FLD_REMAP value of a tile's segment. -/
def segRemap (s : State) (t : Tile) : Nat := segVal (s.reg (fldRemap (tileField t))) (segOf t)

/-- Write the remap of a newly failed tile: its segment's spare is spent, and decant begins or queues (R325, R328). -/
def remapTile (s : State) (t : Tile) : State :=
  let f := tileField t
  let n := tileShaft s t
  nextDecant (remapSeg (failShaft s n) f (segOf t) (n % 12)) f

/-- The spare row of a cell row's group is still free (R61): group and row within the group. -/
def spareFree (s : State) (t : Tile) (row : Nat) : Bool :=
  (fld (s.reg (arrSpare t (row / 32))) (8 * (row / 32 % 4)) 6).toNat == 63

/-- A tile fault is repaired: a repeated cell row by ARR_SPARE, any other by a remap; where the segment's remap is spent the
tile is lost for good, and decant of the segment ends (R325, R327, R330). -/
def repairTile (s : State) (t : Tile) (row : Option Nat) : State :=
  match row with
  | some r =>
    if spareFree s t r then
      let s1 := withSpares s t fun s => setSpare s t (r / 32) (r % 32)
      let s2 := s1.modArr t fun a => { a with erredRows := [] }
      s2.modSeq t fun q => { q with fenced := false }
    else moved
  | none => moved
where
  /-- The remap, or the loss of the tile. -/
  moved : State :=
    if segRemap s t = 15 then remapTile s t
    else logEv (failShaft s (tileShaft s t)) 2 331 (tileUnit s t) (fieldPage (tileField t) 0) none t.val

/-- Where no enabled partition holds a faulty tile nothing is held, and the repair follows at once. -/
def repairLone (s : State) (t : Tile) : State := if (partOf s t).isNone then repairTile s t none else s

/-- A tile fault. -/
def faultAt (s : State) (t : Tile) : State := repairLone (tileFaultOp s t) t

/-- Number of the physical tile at a place of a field. -/
def placeShaft (f : Field) (place : Nat) : Nat := shaftNo f (place / 12) (place % 12)

/-- A spare tile, which carries no logical tile, fails: it spends its segment's spare, and moves nothing (R16). A tile that
has failed before and stands unused is as it was. -/
def retireShaft (s : State) (f : Field) (place : Nat) : State :=
  let n := placeShaft f place
  if s.svc.failed.contains n then s else nextDecant (remapSeg (failShaft s n) f (place / 12) (place % 12)) f

end Sys2Proof.Machine
end

