-- ==== Sys2Proof/Machine/Power.lean ====
section
/-!
DEFINITION. Power delivery (R261 … R278): the input supplies, field converters and the tie ring, tile regulators,
monitored points. Voltages are operands in mV and currents in 0.1 A (log 9).
-/

namespace Sys2Proof.Machine

/-! ## Loss of a field's supply (R57, R268, R331) -/

/-- The field that a place in the wells' memory lies in. -/
def inFieldShaft (f : Field) (shaft : Nat) : Bool := shaftField shaft == some f

/-- The wells of a field are lost, and its bank engines with them. -/
def loseFieldWells (s : State) (f : Field) : State :=
  { s with
    wells := s.wells.filter fun c => !inFieldShaft f (c.1 / wellSize)
    wellUe := s.wellUe.filter fun g => !inFieldShaft f (g * 64 / wellSize)
    wellCe := s.wellCe.filter fun e => !inFieldShaft f (e.1 * 64 / wellSize)
    banks := s.banks.filter fun e => !inFieldShaft f (e.1 / 32) }

/-- REP_STS (R341): state, partition and field. -/
def putRep (s : State) (st : Nat) (p : Nat) (f : Nat) : State :=
  s.setReg (govPage 5 + 0x044) (BitVec.ofNat 32 (st + p * 8 + f * 128))

/-- A partition meets the loss of one of its fields: it is held (R331). A save or a restore that runs loses its record
(R216); the restore's command ends, and the partition is IDLE. -/
def partLoses (s : State) (p : Part) (f : Field) : State :=
  let s1 := putRep (s.modPart p fun x => { x with lostFields := if x.lostFields.contains f then x.lostFields else x.lostFields ++ [f] })
    1 p.val f.val
  match pstate s p with
  | 2 => holdPart s1 p
  | 4 => setPstate (setEvt (dropRecord s1 p) (partPage p 0) 4) p 3
  | 5 => startNext (cmdDone (setPstate (setEvt (dropRecord s1 p) (partPage p 0) 4) p 1) p) p
  | _ => s1

/-- A field that had its supply loses it: wells, stored entries and work are gone, and its port is down. -/
def loseField (s : State) (f : Field) : State :=
  if fieldDark s f then s
  else
    let s1 := logEv s 2 331 (logUnit (partOfField s f) (some f)) (fieldPage f 240) none f.val
    let s2 := s1.modFld f fun x =>
      { x with supply := .lost, fclkRun := false, selfRefresh := false, xcache := [], merge := [], held := [] }
    let s3 := loseFieldWells s2 f
    let s4 := (s3.each (fieldTiles f) discardWork).each (fieldTiles f) sbDiscard
    let s5 := match fieldPort f with
      | some y => (List.finRange 4).foldl (fun s i => if subUp s y i then subLost s y i else s) s4
      | none => s4
    match partOfField s5 f with
    | some p => settleAll (partLoses s5 p f)
    | none => settleAll s5

/-- Every field loses its supply. A casting in progress ends (R320). -/
def loseAll (s : State) : State :=
  let s1 := (List.finRange 48).foldl loseField s
  if castState s = 0 ∧ s.svc.power = .on then s1.modSvc fun v => { v with power := .off } else s1

/-! ## VIN and VHK (R261, R262, R280, R301) -/

def railPage : Nat := govPage 3
def setVin (s : State) (mv : Nat) : State := s.modSvc fun v => { v with vin := mv }

/-- VIN enters 46 … 48 V or 58 … 60 V. -/
def execVinOutOfRange (mv : Nat) (s : State) : Res :=
  .next <|
    if (46000 ≤ mv ∧ mv < 48000) ∨ (58000 < mv ∧ mv ≤ 60000) then
      setEvt ((setVin s mv).modGov fun g => { g with vinLimit := none }) railPage 0
    else s

/-- VIN falls into 42 … 46 V: at most 1,000 A, so as many watts as millivolts. -/
def execVinLow (mv : Nat) (s : State) : Res :=
  .next <|
    if 42000 ≤ mv ∧ mv < 46000 then setEvt ((setVin s mv).modGov fun g => { g with vinLimit := some mv }) railPage 1 else s

/-- VIN below 42 V for 50 µs: the module stops. -/
def execVinUndervoltage (mv : Nat) (s : State) : Res :=
  .next <| if mv < 42000 then raiseStop (setVin s mv) cVin else s

/-- VIN below 36 V for 1 ms, or below 30 V: the field converters stop. -/
def execVinCollapse (mv : Nat) (s : State) : Res := .next <| if mv < 36000 then loseAll (setVin s mv) else s

/-- VIN above 60 V: the input protection opens. -/
def execVinOvervoltage (mv : Nat) (s : State) : Res := .next <| if 60000 < mv then loseAll (setVin s mv) else s

/-- VIN at or above 46 V for 10 ms; outside 48 … 58 V it sets vin_range. -/
def execVinRecovered (mv : Nat) (s : State) : Res :=
  .next <|
    if 46000 ≤ mv ∧ mv ≤ 60000 then
      let s1 := clearStop ((setVin s mv).modGov fun g => { g with vinLimit := none }) cVin
      if mv < 48000 ∨ 58000 < mv then setEvt s1 railPage 0 else s1
    else s

/-- VHK is lost: with VIN present vhk_loss is set; without it VAON falls, and the log with it (R337). -/
def execVhkLoss (s : State) : Res :=
  .next <|
    if 30000 ≤ s.svc.vin then setEvt (s.modSvc fun v => { v with vhk := false }) railPage 2
    else s.modSvc fun v => { v with vhk := false, up := false, log := [], logHead := 0 }

/-! ## The tie ring (R265 … R269) -/

/-- Table 12.3. -/
def ring : List Nat :=
  [0, 1, 2, 3, 4, 5, 6, 7, 15, 14, 13, 12, 11, 10, 9, 17, 18, 19, 20, 21, 22, 23, 31, 30, 29, 28, 27, 26, 25, 33, 34, 35,
   36, 37, 38, 39, 47, 46, 45, 44, 43, 42, 41, 40, 32, 24, 16, 8]

/-- The ring neighbour of a field, next or previous. -/
def ringOf (f : Field) (next : Bool) : Field :=
  let i := (ring.findIdx? (· == f.val)).getD 0
  let n := ring.getD (if next then (i + 1) % 48 else (i + 47) % 48) 0
  if h : n < 48 then ⟨n, h⟩ else f

/-- FPWR_STS: converter state; tie code; cap. -/
def convOf (s : State) (f : Field) : Nat := (fld (s.reg (fpwrSts f)) 0 2).toNat
def setConv (s : State) (f : Field) (n : Nat) : State := s.modReg (fpwrSts f) fun w => setFld w 0 (BitVec.ofNat 2 n)
def tieBit (next : Bool) : Nat := if next then 4 else 2
def tieOf (s : State) (f : Field) (next : Bool) : Nat := (fld (s.reg (fpwrSts f)) (tieBit next) 2).toNat
def setCap (s : State) (f : Field) (n : Nat) : State := s.modReg (fpwrSts f) fun w => setFld w 6 (BitVec.ofNat 7 n)

/-- The code of a tie as the other side shows it. -/
def tieMirror (n : Nat) : Nat := if n = 1 then 2 else if n = 2 then 1 else n

/-- Put a tie, on both its sides. -/
def setTie (s : State) (f : Field) (next : Bool) (n : Nat) : State :=
  let s1 := s.modReg (fpwrSts f) fun w => setFld w (tieBit next) (BitVec.ofNat 2 n)
  s1.modReg (fpwrSts (ringOf f next)) fun w => setFld w (tieBit (!next)) (BitVec.ofNat 2 (tieMirror n))

/-- A tie closes or opens: EVT_STS.tie on both sides. -/
def moveTie (s : State) (f : Field) (next : Bool) (n : Nat) : State :=
  setEvt (setEvt (setTie s f next n) (fieldPage f 240) 2) (fieldPage (ringOf f next) 240) 2

/-- A field's converter is healthy and supplies it. -/
def healthy (s : State) (f : Field) : Bool := convOf s f == 0 && powered s f

/-- Ties that feed a field. -/
def feeds (s : State) (f : Field) : Nat := ([true, false].filter fun n => tieOf s f n == 1).length

/-- The cap of a field whose converter has failed, or the loss of its supply. -/
def recap (s : State) (f : Field) : State :=
  if convOf s f = 0 then s
  else
    match feeds s f with
    | 0 => loseField s f
    | 1 => setCap s f 50
    | _ => setCap s f 80

/-- A tie closes when the feeding converter is healthy and the fed side's VMID (mv) is in the tie window. feeding tells that
this field feeds its neighbour. -/
def execTieClose (f : Field) (next : Bool) (feeding : Bool) (mv : Nat) (s : State) : Res :=
  .next <|
    let g := ringOf f next
    if tieOf s f next = 0 ∧ healthy s (if feeding then f else g) ∧ 1400 ≤ mv ∧ mv ≤ 1700 then
      recap (moveTie s f next (if feeding then 2 else 1)) (if feeding then g else f)
    else s

/-- Open a closed tie; the field it fed falls back. -/
def openTie (s : State) (f : Field) (next : Bool) : State :=
  match tieOf s f next with
  | 1 => recap (moveTie s f next 0) f
  | 2 => recap (moveTie s f next 0) (ringOf f next)
  | _ => s

def execTieOpen (f : Field) (next : Bool) (s : State) : Res := .next (openTie s f next)

/-- A usable tie to a healthy neighbour closes. -/
def takeTie (f : Field) (s : State) (next : Bool) : State :=
  if tieOf s f next = 0 ∧ healthy s (ringOf f next) then moveTie s f next 1 else s

/-- A converter fails open, or does not start: its own ties to neighbours open, and the field goes on its ties. -/
def failOpen (s : State) (f : Field) : State :=
  let s1 := setEvt (logEv (setConv s f 1) 2 267 (logUnit (partOfField s f) (some f)) (fieldPage f 240) none f.val) (fieldPage f 240) 0
  let s2 := [true, false].foldl (fun s n => if tieOf s f n = 2 then openTie s f n else s) s1
  recap ([true, false].foldl (takeTie f) s2) f

def execConverterFailOpen (f : Field) (s : State) : Res := .next <| if healthy s f then failOpen s f else s

/-- A converter fails short: its ties open, and the field loses its supply. -/
def execConverterFailShort (f : Field) (s : State) : Res :=
  .next <|
    if convOf s f = 2 ∨ fieldDark s f then s
    else
      let s1 := setEvt (logEv (setConv s f 2) 2 268 (logUnit (partOfField s f) (some f)) (fieldPage f 240) none f.val) (fieldPage f 240) 1
      let s2 := loseField s1 f
      [true, false].foldl (fun s n => openTie s f n) s2

/-! ## Tile regulators (R272) -/

/-- PHASE_STS of the physical tile at a place. -/
def phaseReg (f : Field) (place : Nat) : Nat := fieldPage f 240 + 0x048 + 4 * (place / 16)
def setPhases (s : State) (f : Field) (place n : Nat) : State :=
  s.modReg (phaseReg f place) fun w => setFld w (2 * (place % 16)) (BitVec.ofNat 2 n)

/-- Mark the physical tile at a place dark or lit. -/
def markDark (s : State) (f : Field) (place : Nat) (b : Bool) : State :=
  match tileAbove s (placeShaft f place) with
  | some t => s.modSeq t fun q => { q with dark := b }
  | none =>
    let k := spareKey f (place / 12)
    let c := SMap.get coreD s.spares k
    { s with spares := SMap.set coreD s.spares k { c with seq := { c.seq with dark := b } } }

/-- Places of the physical tiles of a field with two failed phases. -/
def darkPlaces (s : State) (f : Field) : List Nat :=
  (List.range 6).flatMap fun i =>
    let w := s.reg (phaseReg f (16 * i))
    if w = 0 then [] else ((List.range 16).filter fun k => (fld w (2 * k) 2).toNat == 2).map (· + 16 * i)

/-- The tiles that are dark, where a power-up has reset them or the maps have moved: a tile with two failed phases remains
dark until the next cold casting (R272). -/
def relight (s : State) : State :=
  s.each (List.finRange 48) fun s f => s.each (darkPlaces s f) fun s k => markDark s f k true

/-- A physical tile goes dark (R272): its logical tile, where it carries one, has a tile fault, and is repaired at once where
no enabled partition holds it; a dark spare spends its segment's spare (R16). -/
def darken (s : State) (f : Field) (place : Nat) : State :=
  let s1 := markDark s f place true
  match tileAbove s (placeShaft f place) with
  | some t => faultAt s1 t
  | none => retireShaft s1 f place

/-- An IVR phase fails: the first lowers the tile's current limit, the second darkens the tile. -/
def execIvrPhaseFail (f : Field) (shaft : Fin 96) (s : State) : Res :=
  .next <|
    let pg := fieldPage f 240
    match phaseFails s f shaft.val with
    | 0 =>
      setEvt (logEv (setPhases s f shaft.val 1) 2 272 (logUnit (partOfField s f) (some f)) pg none shaft.val) pg 3
    | 1 => darken (setEvt (setEvt (setPhases s f shaft.val 2) pg 3) pg 4) f shaft.val
    | _ => s

/-! ## Monitoring (R274 … R278) -/

/-- Word 0 of a RAIL_MIN entry, and of the RAIL_SNAP of its page. -/
def railEntry : RailPoint → Nat
  | .field f i => if i.val < 102 then fieldPage f 240 + 0x100 + 16 * i.val else fieldPage f 241 + 0x040 + 16 * (i.val - 102)
  | .module i => railPage + 0x100 + 16 * i.val

def railSnap : RailPoint → Nat
  | .field f _ => fieldPage f 240 + 0x070
  | .module _ => railPage + 0x070

/-- A sample: the lowest voltage since the last read stays, with its current and its time. The current at the converter's
output is FPWR_I. -/
def railSampleOp (s : State) (p : RailPoint) (mv amps : Nat) : State :=
  let a := railEntry p
  let s0 := match p with
    | .field f i => if i.val = 1 then s.setReg (fieldPage f 240 + 0x044) (BitVec.ofNat 32 (min amps 0xFFFF)) else s
    | .module _ => s
  let w := s.reg a
  if bit w 31 && decide ((fld w 0 16).toNat ≤ mv) then s0
  else
    (((s0.setReg a (BitVec.ofNat 32 (0x80000000 + min mv 0xFFFF))).setReg (a + 4) (BitVec.ofNat 32 s.tsclk)).setReg (a + 8)
      (BitVec.ofNat 32 (s.tsclk / 2 ^ 32))).setReg (a + 12) (BitVec.ofNat 32 (min amps 0xFFFF))

def execRailSample (p : RailPoint) (mv amps : Nat) (s : State) : Res := .next (railSampleOp s p mv amps)

/-- A read of word 0 copies the entry to RAIL_SNAP and clears it. -/
def railReadOp (s : State) (p : RailPoint) : Word × State :=
  let a := railEntry p
  let s1 := [0, 4, 8, 12].foldl (fun s k => s.setReg (railSnap p + k) (s.reg (a + k))) s
  (s.reg a, [0, 4, 8, 12].foldl (fun s k => s.setReg (a + k) 0) s1)

def execRailMinRead (m : Master) (p : RailPoint) (s : State) : Res :=
  .next <| let (v, s1) := railReadOp s p; s1.emit (.value m v)

/-- Points that have a path (Table 12.6). -/
def hasPath (i : Nat) : Bool := i == 0 || i == 2 || decide (6 ≤ i ∧ i < 102)

/-- A path's drop against I × Rpath, in mV, and for how many ms it has been above the ratio (R275, R276). -/
def execDegradeDetect (f : Field) (i drop expected ms : Nat) (s : State) : Res :=
  .next <|
    if !hasPath i then s
    else
      let pg := fieldPage f 240
      let c := s.reg (pg + 0x060)
      let u := logUnit (partOfField s f) (some f)
      let s1 := if (fld c 0 8).toNat * expected < drop * 10 ∧ (fld c 8 8).toNat ≤ ms then
          setEvt (logEv s (Config.openClass 275) 275 u pg none i) pg 5 else s
      let s2 := match (s.fld f).lastDrop.find? (·.1 == i) with
        | some (_, d, e) =>
          if d + (fld c 16 8).toNat < drop ∧ 2 * (expected - e) < drop - d then setEvt (logEv s1 (Config.openClass 276) 276 u pg none i) pg 6 else s1
        | none => s1
      s2.modFld f fun x => { x with lastDrop := SMap.ins x.lastDrop i (drop, expected) }

end Sys2Proof.Machine
end

