-- ==== Sys2Proof/Machine/Casting.lean ====
section
/-!
DEFINITION. Casting (R307 … R321): the stages of Table 14.1, retries and absent fields, the topology manifest, discovery,
readiness. A stage ends by CAST_STAGE_END, which carries what the stage measured (log 9).
-/

namespace Sys2Proof.Machine

/-! ## Status -/

def castPage : Nat := govPage 4
def castStage (s : State) : Nat := (fld (s.reg castSts) 2 4).toNat
def setStage (s : State) (n : Nat) : State :=
  (s.modReg castSts fun w => setFld w 2 (BitVec.ofNat 4 n)).modSvc fun v => { v with stageAt := s.tsclk }
def setCastState (s : State) (n : Nat) : State := s.modReg castSts fun w => setFld w 0 (BitVec.ofNat 2 n)
def manSts : Nat := castPage + 0x05C
def setManResult (s : State) (n : Nat) : State := s.modReg manSts fun w => setFld w 0 (BitVec.ofNat 4 n)

/-- A casting is in progress: powered, not stopped at stage 2 or 3, not yet ready or in hold. -/
def isCasting (s : State) : Bool := s.svc.power == .on && castState s == 0

/-! ## Start (R307, R351) -/

/-- What of the service island and its pins outlives the power-up: flash, fuses, the log ring, what the buses assigned, the
seal. The log's sequence starts again (Table 15.7). -/
def coldSvc (s : State) : SvcSt :=
  { SvcSt.reset with
    pins := { s.svc.pins with pwrEn := true, pgood := false, faultN := false, thermTripN := true }
    power := .on, downAt := s.svc.downAt, vin := s.svc.vin, vhk := s.svc.vhk, castAt := s.tsclk, stageAt := s.tsclk
    manifestFlash := s.svc.manifestFlash, ledgerFlash := s.svc.ledgerFlash, fuse := s.svc.fuse, soft := s.svc.soft, ledgerA := s.svc.ledgerA
    ledgerB := s.svc.ledgerB, root := s.svc.root, fwA := s.svc.fwA, fwB := s.svc.fwB, fwFloor := s.svc.fwFloor
    fwHashA := s.svc.fwHashA, fwHashB := s.svc.fwHashB, runA := decide (s.svc.fwB ≤ s.svc.fwA), log := s.svc.log, logHead := s.svc.logHead
    logFlash := s.svc.logFlash, dynAddr := s.svc.dynAddr, eids := s.svc.eids, serial := s.svc.serial }

/-- Nothing runs: every block is as it powers up (log 43). Service mode stays until it is ended (R340), and the SerDes
firmware of the ports is in flash. -/
def coldStart (s : State) : State :=
  let fw := s.ports.map fun e => (e.1, { PortSt.reset with serdes := e.2.serdes, serdesVersion := e.2.serdesVersion })
  let s1 : State :=
    { State.reset with
      pending := s.pending, out := s.out, tsclk := s.tsclk, freeCtr := s.freeCtr, svc := coldSvc s
      ports := fw.filter fun e => e.2 != PortSt.reset }
  let s2 := s1.setRbit presSts 4 (svcMode s)
  let s3 := s2.setRbit govSts 0 (!s.svc.pins.pps)
  setStage s3 1

/-- Conditions of Table 13.6 that stand on the pins and on VIN as casting starts. -/
def standingStops (s : State) : State :=
  let s1 := if s.svc.pins.trayStopN then s else raiseStop s cTray
  let s2 := if s.svc.pins.flowLossN then s1 else raiseStop s1 cFlow
  if s.svc.vin < 42000 then raiseStop s2 cVin else s2

/-- PWR_EN rises: ignored within 1 s after PGOOD_OUT has fallen, and where no supply feeds the service island. -/
def execPwrEnRise (s : State) : Res :=
  .next <|
    if s.svc.pins.pwrEn then s
    else
      let s1 := s.modPins fun p => { p with pwrEn := true }
      if (s.svc.power = .down ∧ s.tsclk < s.svc.downAt + 1000000000) ∨ s.svc.power = .on then s1
      else if !s.svc.vhk && decide (s.svc.vin < 30000) then s1
      else standingStops (coldStart s)

/-! ## Warm casting (R307, R320) -/

def castReject (s : State) : State := setEvt s castPage 5

/-- A partition takes an abrupt reset and is disabled; its record is discarded and its queued STARTs end as the running one. -/
def wipePart (s : State) (p : Part) : State :=
  if pstate s p = 0 then s
  else
    let l := (s.prt p).starts
    let s1 := (s.modPart p fun x => { x with starts := [] }).each l fun s e => sqDone s p e.q e.cid 9 0
    let s2 := resetEnd (resetBegin (cmdBegin s1 p 8 none) p true) p
    disableOp (cmdBegin (dropRecord s2 p) p 2 none) p

/-- Register pages of a tile, and of a field beside its power and governor pages, lose their state with the field's supply
(log 43). -/
def lostPage (a : Nat) : Bool :=
  match pageOf a with
  | .tile _ _ => true
  | .field _ n => decide (n < 240)
  | _ => false

/-- A tie of a field that loses its power is open again, and a casting tests every tie anew (R266). -/
def clearTies (s : State) (f : Field) : State := s.modReg (fpwrSts f) fun w => setFld w 2 (0 : BitVec 4)

/-- Every field is powered down (R264), and every port is down with its field. -/
def fieldsDown (s : State) : State :=
  let s1 := (List.finRange 48).foldl (fun s f => clearTies ((fieldOff s f).modFld f fun x =>
    { x with absent := false, pll2 := false, fclk := x.fclk, frame := 0, refAt := none, calm := 0, tinj := [], tcalm := [], texcl := [] }) f) (loseWells s)
  let s2 := relight { s1 with regs := s1.regs.filter fun e => !lostPage e.1, cores := [], spares := [], arbs := [] }
  (List.finRange 24).foldl (fun s y => (bringDown s y).modPort y fun u =>
    { u with peer := none, heldDown := false, peerHalted := false }) s2

/-- An accepted request begins at stage 4 with the manifest and the ledger in memory; with none kept it stops. -/
def warmStart (s : State) : State :=
  let s1 := fieldsDown s
  let s2 := (s1.setReg (castPage + 0x048) 0).setReg (castPage + 0x04C) 0
  let s3 := s2.modSvc fun v =>
    { v with castAt := s.tsclk, retries := [], manifest := v.manifestFlash, failed := [], cellRows := []
             pins := { v.pins with faultN := false } }
  let s4 := (s3.modReg castSts fun w => setBit (setBit w 6 false) 7 true).modReg (castPage + 0x054) fun w => setFld w 16 (0 : BitVec 16)
  if s3.svc.manifest.isNone then setCastState (setManResult (setStage s4 3) 6) 2
  else setStage (setCastState s4 0) 4

/-- CAST_CTL.warm: by the service processor and the physical functions only. -/
def warmOp (s : State) (m : Master) : State :=
  let all := List.finRange 16
  match m with
  | .svp => if s.svc.power ≠ .on ∨ castState s = 0 then castReject s else warmStart (all.foldl wipePart s)
  | .pf _ =>
    if s.svc.power ≠ .on ∨ castState s = 0 ∨ all.any fun p => decide (pstate s p ≠ 0) then castReject s else warmStart s
  | _ => ownReject s m (castPage + 0x040) 1

def execWarmCastingRequest (m : Master) (s : State) : Res := .next (warmOp s m)

/-! ## Absent fields (R319) -/

/-- Key of a stage's timeouts in a field; 48 names the module. -/
def retryKey (stage f : Nat) : Nat := stage * 64 + f

/-- A field is marked absent: CAST_ABS, rails down, its port down. -/
def showAbsent (s : State) (f : Field) : State :=
  let a := castPage + (if f.val < 32 then 0x048 else 0x04C)
  (s.setRbit a (f.val % 32) true).modFld f fun x =>
    { x with absent := true, supply := .off, fclkRun := false, selfRefresh := false, xcache := [], merge := [], held := [] }

def markAbsent (s : State) (f : Field) : State :=
  let s1 := setEvt (showAbsent (loseFieldWells s f) f) castPage 2
  settleAll <| match fieldPort f with
    | some y => bringDown s1 y
    | none => s1

/-- A timeout is counted and logged with the field and the stage. -/
def noteTimeout (s : State) (stage f : Nat) : State :=
  let a := castPage + 0x054
  let n := (fld (s.reg a) 0 16).toNat
  let s1 := s.modReg a fun w => setFld w 0 (BitVec.ofNat 16 (min (n + 1) 0xFFFF))
  let s2 := s1.modSvc fun v => { v with retries := SMap.set zeroN v.retries (retryKey stage f) (SMap.get zeroN v.retries (retryKey stage f) + 1) }
  setEvt (logEv s2 6 319 (BitVec.ofNat 16 (16 * f)) castPage none (stage * 64 + f)) castPage 3

/-- The alternate path of stage 5: the retry locks the field's PLL to its second reference path (R22, Table 14.1). The
alternate paths of the other stages change an order alone. -/
def otherPath (s : State) (f : Field) : State := s.modFld f fun x => { x with pll2 := true }

/-- A stage times out in a field: up to two retries, each only where the stage's bound still fits; then absent. -/
def execCastStageTimeout (f : Field) (fits : Bool) (s : State) : Res :=
  .next <|
    let n := castStage s
    if !isCasting s ∨ stopped s ∨ n < 4 ∨ 13 < n ∨ (s.fld f).absent then s
    else
      let old := SMap.get zeroN s.svc.retries (retryKey n f.val)
      let s1 := noteTimeout s n f.val
      if old < 2 ∧ fits then (if n = 5 then otherPath s1 f else s1) else markAbsent s1 f

/-- Casting stops at stage 2 or 3: FAULT_N is asserted. -/
def castStop (s : State) : State := (setCastState s 2).modPins fun p => { p with faultN := false }

/-- No report from the booting image within 3 s: the other one, once, where there is one (R308). -/
def execImageBootTimeout (s : State) : Res :=
  .next <|
    if !isCasting s ∨ castStage s ≠ 2 ∨ s.svc.up then s
    else
      let old := SMap.get zeroN s.svc.retries (retryKey 2 48)
      let s1 := noteTimeout s 2 48
      let other := if s.svc.runA then s.svc.fwB else s.svc.fwA
      if old = 0 ∧ other ≠ 0 then s1.modSvc fun v => { v with runA := !v.runA, stageAt := s.tsclk } else castStop s1

/-! ## Defect map (R314) -/

/-- Positions of the failed tiles of a segment, ascending. -/
def segFailed (s : State) (f : Field) (seg : Nat) : List Nat :=
  (List.range 12).filter fun j => s.svc.failed.contains (shaftNo f seg j)

/-- A segment with two or more failed tiles is exhausted. -/
def exhausted (s : State) (f : Field) (seg : Nat) : Bool := decide (2 ≤ (segFailed s f seg).length)

/-- FLD_REMAP and FLD_WMAP of a field: 15, or the lowest failed position, in each segment. -/
def mapWord (s : State) (f : Field) : Word :=
  (List.range 8).foldl (fun w seg => setFld w (4 * seg) (BitVec.ofNat 4 ((segFailed s f seg).headD 15))) 0

/-- Number of a physical tile P(p, r). -/
def physNo (e : Fin 96 × Fin 48) : Nat := e.2.val * 96 + e.1.val

/-- What a report finds failed: tiles named, and tiles with two failing cell rows in one group (R61, R312). -/
def foundFailed (r : StageReport) : List Nat :=
  let twice := r.cellRows.filter fun e => (r.cellRows.filter fun g => g.1 == e.1 && g.2.1 == e.2.1 && g.2.2.1 == e.2.2.1).length != 1
  r.failed.map physNo ++ twice.map fun e => physNo (e.1, e.2.1)

/-- The failed tiles of this casting: the fuse map, soft repairs of two failures or more, what the stages found. New ones
join the soft-repair list. -/
def mergeDefects (s : State) (found : List Nat) : State :=
  let soft := found.foldl (fun m n => if SMap.get zeroN m n = 0 then SMap.set zeroN m n 1 else m) s.svc.soft
  let l := s.svc.fuse ++ found ++ (s.svc.soft.filter fun e => decide (2 ≤ e.2)).map (·.1)
  s.modSvc fun v => { v with soft := soft, failed := l.foldl insertNat [] }

/-- Stage 11. cellRows holds (tile, group, row). -/
def writeMaps (s : State) : State :=
  let s1 := (List.finRange 48).foldl (fun s f =>
    let w := mapWord s f
    (s.setReg (fldRemap f) w).setReg (fldWmap f) w) s
  let s2 := (List.finRange 48).foldl (fun s f => s.setReg (fldDecant f) 0) s1
  s2.svc.cellRows.foldl (fun s e => match tileAbove s e.1 with
    | some t => setSpare s t e.2.1 e.2.2
    | none => s) s2

/-! ## Manifest (R317, Table 14.3) -/

/-- MAN_STS result of a manifest: 0 well formed, 1 format, 2 length, 3 CRC. -/
def manJudge (b : Bytes) : Nat :=
  if leNat (b.take 4) ≠ 0x00014D46 then 1
  else if leNat ((b.drop 4).take 4) ≠ b.length ∨ b.length ≠ 308 then 2
  else if BitVec.ofNat 32 (leNat ((b.drop 304).take 4)) ≠ crc32 (b.take 304) then 3
  else 0

/-- Entry of a port: peer module, peer port, split; required; unused. -/
def manPort (s : State) (y : Port) : Nat := manNat s (48 + 8 * y.val) 8
def manRequired (s : State) (y : Port) : Bool := (manPort s y).testBit 26
def manUnused (s : State) (y : Port) : Bool := (manPort s y).testBit 27

/-- The peer is the one the manifest names. -/
def peerMatches (s : State) (y : Port) (d : DiscoverInfo) : Bool :=
  let w := manPort s y
  decide (d.moduleId.toNat = nbits w 0 16 ∧ d.port.toNat = nbits w 16 8 ∧ d.split.toNat = nbits w 24 2)

/-! ## The training ledger (R24, R25, R316) -/

/-- Thirty days in ns. -/
def thirtyDays : Nat := 30 * 86400 * 1000000000

/-- Distance of two temperatures. -/
def tempGap (a b : Nat) : Nat := (a - b) + (b - a)

/-- The record of an element. -/
def ledgerRec (v : SvcSt) (e : LedgerElem) : List LedgerEnt := ((v.ledger.find? (·.1 == e)).map (·.2)).getD []

/-- The entry of a record nearest to a temperature; of two as near, the first. -/
def nearestEnt (t : Nat) : List LedgerEnt → Option LedgerEnt
  | [] => none
  | e :: l => match nearestEnt t l with
    | none => some e
    | some b => some (if tempGap e.temp t ≤ tempGap b.temp t then e else b)

/-- A record with a new entry: it takes a free place of four, else that of the entry farthest from its temperature. -/
def recordPut (n : LedgerEnt) (l : List LedgerEnt) : List LedgerEnt :=
  if l.length < 4 then l ++ [n]
  else
    let far := l.foldl (fun m e => max m (tempGap e.temp n.temp)) 0
    match l.findIdx? fun e => tempGap e.temp n.temp == far with
    | some i => l.set i n
    | none => l

/-- Issue time of this casting's manifest (Table 14.3), from which the age of an entry is counted. -/
def issueTime (s : State) : Nat := manNat s 28 8

/-- An entry is valid: within 10 °C of the reading and, in a cold casting, at most 30 days old (R316). -/
def entValid (s : State) (temp : Nat) (e : LedgerEnt) : Bool :=
  decide (tempGap e.temp temp ≤ 10) && (s.rbit castSts 7 || decide (issueTime s ≤ e.time + thirtyDays))

/-- A setting is applied: a crossing's delay goes to its LTRIM field (R24); the settings of the other elements stand in the
ledger alone. -/
def applyElem (s : State) (e : LedgerElem) (value : Nat) : State :=
  match e with
  | .crossing f sh c => s.modReg (ltrim f sh.val) fun w => setFld w (6 * c.val) (BitVec.ofNat 6 value)
  | _ => s

/-- Casting meets one element (R316): a valid entry that passes its verification is applied; else the element is retrained
on its own, counted in CAST_STALE, and its new entry joins its record (R25). -/
def trainElem (s : State) (r : ElemReport) : State :=
  match (nearestEnt r.temp (ledgerRec s.svc r.elem)).filter fun e => entValid s r.temp e && r.verifies with
  | some e => applyElem s r.elem e.value
  | none =>
    let n : LedgerEnt := { temp := r.temp, time := issueTime s, value := r.found }
    let s1 := s.modSvc fun v =>
      { v with
        ledger := (v.ledger.filter (·.1 != r.elem)) ++ [(r.elem, recordPut n (ledgerRec v r.elem))], ledgerDirty := true }
    (applyElem s1 r.elem r.found).modReg (castPage + 0x054) fun w =>
      setFld w 16 (BitVec.ofNat 16 (min 0xFFFF ((fld w 16 16).toNat + 1)))

/-- Stage 3 reads copy A, or copy B where A is corrupt; with both corrupt every element is stale (R320). -/
def readLedger (s : State) : State :=
  s.modSvc fun v => { v with ledger := if v.ledgerA || v.ledgerB then v.ledgerFlash else [] }

/-! ## Readiness (R318) -/

/-- Ports up with their expected peer. -/
def goodPorts (s : State) : List Port :=
  (List.finRange 24).filter fun y =>
    portUp s y && (match (s.port y).peer with | some d => !manUnused s y && peerMatches s y d | none => false)

/-- MAN_STS result of stage 14: 4 serial, 5 slot. -/
def manMatch (s : State) : Nat :=
  if manNat s 8 16 ≠ s.svc.serial.toNat then 4
  else if manNat s 24 1 ≠ s.svc.slotSampled.toNat then 5
  else 0

/-- The counts of R318 are within the allowances. -/
def withinAllowance (s : State) : Bool :=
  let fs := List.finRange 48
  let good := goodPorts s
  decide ((fs.filter (fieldDark s)).length ≤ manNat s 36 1
    ∧ (fs.flatMap fun f => (List.range 8).filter (exhausted s f)).length ≤ manNat s 37 1
    ∧ ((List.finRange 4224).filter fun t => s.svc.failed.contains (tileShaft s t)).length ≤ manNat s 38 2
    ∧ manNat s 40 1 ≤ good.length ∧ manNat s 41 1 ≤ s.svc.trained.length)
  && (List.finRange 24).all fun y => !manRequired s y || good.contains y

/-- Enable the manifest's partitions in order; those refused show in MAN_STS. -/
def enableManifest (s : State) : State :=
  let n := min 16 (manNat s 46 2)
  let s1 := ((List.finRange 16).filter fun p => decide (p.val < n)).foldl (fun s p =>
    if pstate s p ≠ 0 then s
    else doPartCmd (s.setReg (partCfg p) (BitVec.ofNat 32 (manNat s (240 + 4 * p.val) 4) &&& 0x1FFF)) .svp p 1 none) s
  let rej := (List.finRange 16).foldl (fun v p => if decide (p.val < n) && pstate s1 p == 0 then v + 2 ^ p.val else v) 0
  s1.modReg manSts fun w => setFld w 4 (BitVec.ofNat 16 rej)

/-- The casting is over: CAST_TIME and its end state. -/
def castOver (s : State) (state : Nat) : State :=
  let ms := (s.tsclk - s.svc.castAt) / 1000000
  (setCastState s state).setReg (castPage + 0x050) (BitVec.ofNat 32 ms)

/-- READY. -/
def declareReady (s : State) : State :=
  let s1 := (s.modReg yensCtl fun w => setFld w 0 (BitVec.ofNat 16 (manNat s 42 2))).modReg yensLeader fun w =>
    setFld w 0 (BitVec.ofNat 16 (manNat s 44 2))
  let s2 := castOver (enableManifest s1) 1
  let s3 := (s2.setRbit castSts 6 true).modPins fun p => { p with faultN := true }
  setEvt (s3.modGov fun g => { g with firstWindow := true }) castPage 0

/-- Hold: every partition stays FREE. Service mode ends every casting here (R340). -/
def enterHold (s : State) : State :=
  let s1 := (castOver s 3).modPins fun p => { p with faultN := false }
  setEvt s1 castPage 1

/-- Stages 14 and 15. -/
def decide15 (s : State) : State :=
  let res := manMatch s
  let s1 := setManResult s res
  if res = 0 ∧ withinAllowance s ∧ !svcMode s then declareReady s1 else enterHold s1

/-! ## Stages -/

/-- A powered field whose converter failed in an earlier casting is on its ties again. -/
def retie (s : State) (f : Field) : State :=
  if convOf s f = 1 ∧ (s.fld f).supply = .on then recap ([true, false].foldl (takeTie f) s) f else s

/-- Stage 4: the fields are powered, ties are tested, a converter that does not start has failed open; a field no tie feeds
stays absent. -/
def stagePower (s : State) (r : StageReport) : State :=
  let fs := List.finRange 48
  let s1 := r.tieFailed.foldl (fun s e => setTie s e.1 e.2 3) s
  let s2 := fs.foldl (fun s f => if (s.fld f).absent then s else s.modFld f fun x => { x with supply := .on, fclkRun := false }) s1
  let s3 := r.converterFailed.foldl (fun s f => if healthy s f then failOpen s f else s) s2
  let s4 := fs.foldl (fun s f => if convOf s f ≠ 0 ∧ feeds s f = 0 ∧ !(s.fld f).absent then markAbsent s f else s) (fs.foldl retie s3)
  s4.modPins fun p => { p with pgood := true }

/-- Stage 5: PLLs locked at the manifest's code, or 26 (R310). -/
def stageClock (s : State) : State :=
  let c := manNat s 25 1
  let s1 := setCode s (if c ≤ 36 then c else 26)
  (List.finRange 48).foldl (fun s f =>
    if (s.fld f).supply = .on then s.modFld f fun x => { x with fclkRun := true, fclkSince := s.tsclk } else s) s1

/-- Stage 9: every bank, cistern, accumulator store and B register holds zero. -/
def stageZero (s : State) : State :=
  relight { s with wells := [], wellUe := [], wellCe := [], cores := [], spares := [] }

/-- Stage 12: the ports that trained are up, split as the manifest has them (log 44). -/
def stagePorts (s : State) (r : StageReport) : State :=
  (List.finRange 24).foldl (fun s y =>
    if r.portsUp.contains y && !fieldDark s (portField y) then
      let n := nbits (manPort s y) 24 2
      bringUp (if n = 3 then s else s.modReg (ypCtl y) fun w => setFld w 0 (BitVec.ofNat 2 n)) y
    else bringDown s y) s

/-- What this module tells of a port in DISCOVER. -/
def myInfo (s : State) (y : Port) : DiscoverInfo :=
  { serial := s.svc.serial, moduleId := moduleId s, port := BitVec.ofNat 8 y.val, split := fld (s.reg (ypCtl y)) 0 2 }

/-- Stage 13 begins: every port that is up asks its peer. -/
def sendDiscover (s : State) : State :=
  (List.finRange 24).foldl (fun s y => if portUp s y then yControl s y (.discover (myInfo s y)) else s) s

/-- Every port that is up has its answer. -/
def discovered (s : State) : Bool := (List.finRange 24).all fun y => !portUp s y || (s.port y).peer.isSome

/-- May the stage end? -/
def stageDone (s : State) (n : Nat) : Bool :=
  match n with
  | 0 => false
  | 3 => s.svc.manifest.isSome
  | 13 => discovered s
  | _ => decide (n ≤ 15)

/-- The other end of link n of physical tile k: link XP of one tile is XM of the next, and YP is YM. -/
def linkEnd (k n : Nat) : Nat × Nat :=
  match n with
  | 0 => (k + 1, 1)
  | 1 => (k - 1, 0)
  | 2 => (k + 96, 3)
  | _ => (k - 96, 2)

/-- Stage 10: a dark tile, which streams no signature, has failed; links that failed in both directions are recorded at
both their ends (R312). -/
def stageLinks (s0 : State) (r : StageReport) : State :=
  let dark := (List.finRange 48).flatMap fun f => (darkPlaces s0 f).map (placeShaft f)
  let s := s0.modSvc fun v => { v with failed := dark.foldl insertNat v.failed }
  let l := (r.linkFailed.map fun e => (physNo (e.1, e.2.1), e.2.2.val)).flatMap fun e => [e, linkEnd e.1 e.2]
  (s.modSvc fun v => { v with linkFail := l.foldl (fun a e => insertNat a (e.1 * 4 + e.2)) [] }).each l fun s e =>
    match tileAbove s e.1 with
    | some t => setEvt s (tilePage t 12) 1
    | none => s

/-- The dark tiles without their mark, which a change of the maps would leave with the wrong logical tile. -/
def lit (s : State) : State :=
  s.each (List.finRange 48) fun s f => s.each (darkPlaces s f) fun s k => markDark s f k false

/-- The effect of a stage, and the one that follows it. -/
def stageEnd (s : State) (n : Nat) (r : StageReport) : State :=
  match n with
  | 1 => setStage (s.modSvc fun v => { v with slotSampled := v.pins.slotId }) 2
  | 2 => setStage (s.modSvc fun v => { v with up := true, outageAt := none }) 3
  | 3 => setStage (readLedger s) 4
  | 4 => setStage (stagePower s r) 5
  | 5 => setStage (stageClock s) 6
  | 9 => setStage (stageZero s) 10
  | 10 => setStage (stageLinks s r) 11
  | 11 => setStage (relight (writeMaps (mergeDefects (lit s) s.svc.failed))) 12
  | 12 => setStage (sendDiscover (stagePorts s r)) 13
  | 15 => decide15 s
  | n => setStage s (n + 1)

/-- What any stage may report: failed tiles and cell rows, trained elements, trained host ports. -/
def takeReport (s : State) (r : StageReport) : State :=
  let rows := r.cellRows.map fun e => (physNo (e.1, e.2.1), e.2.2.1.val, e.2.2.2.val)
  let s1 := s.modSvc fun v =>
    { v with
      failed := (foundFailed r).foldl insertNat v.failed
      cellRows := v.cellRows ++ rows
      trained := v.trained ++ r.hostTrained.filter fun h => !v.trained.contains h }
  r.elems.foldl trainElem s1

def execCastStageEnd (r : StageReport) (s : State) : Res :=
  .next <|
    if isCasting s && !stopped s && stageDone s (castStage s) then stageEnd (takeReport s r) (castStage s) r else s

/-! ## Manifest and discovery -/

/-- A manifest arrives (R317): an accepted one is kept in flash; in stages up to 3 it is this casting's, and in hold it
decides readiness again. -/
def manifestOp (s : State) (b : Bytes) : State :=
  let res := manJudge b
  let s1 := setManResult s res
  if res ≠ 0 then setEvt s1 castPage 4
  else
    let s2 := s1.modSvc fun v => { v with manifestFlash := some b }
    let take := s2.modSvc fun v => { v with manifest := some b }
    if isCasting s ∧ castStage s ≤ 3 then take
    else if castState s = 3 then decide15 take
    else s2

def execManifestReceive (b : Bytes) (s : State) : Res := .next <| if s.svc.up then manifestOp s b else s

/-- 10 s into stage 3: the kept manifest, or casting stops. -/
def execManifestTimeout (s : State) : Res :=
  .next <|
    if !isCasting s ∨ castStage s ≠ 3 ∨ s.svc.manifest.isSome ∨ s.tsclk < s.svc.stageAt + 10000000000 then s
    else match s.svc.manifestFlash with
      | some b => s.modSvc fun v => { v with manifest := some b }
      | none => castStop (setManResult s 6)

/-- Hold a port down: it carries no traffic. -/
def holdDown (s : State) (y : Port) : State := s.modPort y fun u => { u with heldDown := true }

/-- DISCOVER on a port: the peer is recorded. In stage 13 it is the answer, and a peer other than the manifest's holds the
port down; at other times it is answered. -/
def execDiscover (y : Port) (d : DiscoverInfo) (s : State) : Res :=
  .next <|
    if !portUp s y then s
    else
      let s1 := s.modPort y fun u => { u with peer := some d }
      if isCasting s ∧ castStage s = 13 then
        if manUnused s y || !peerMatches s y d then holdDown s1 y else s1
      else yControl s1 y (.discover (myInfo s y))

/-- 1 s in stage 13 without an answer. -/
def execDiscoverTimeout (y : Port) (s : State) : Res :=
  .next <| if isCasting s ∧ castStage s = 13 ∧ portUp s y ∧ (s.port y).peer = none then holdDown s y else s

/-- The changed ledger goes to copy A and then to copy B, after READY (R316). -/
def execLedgerWrite (s : State) : Res :=
  .next <|
    if isReady s && s.svc.ledgerDirty then s.modSvc fun v => { v with ledgerFlash := v.ledger, ledgerDirty := false, ledgerA := true, ledgerB := true } else s

/-! ## Neighbour links (R34, R312, R313) -/

/-- The tile physically next to a tile through link n, within the field. -/
def linkNeighbour (s : State) (t : Tile) (n : Nat) : Option Nat :=
  let k := tileShaft s t
  let seg := k / 96 % 8
  let j := k % 12
  match n with
  | 0 => if j < 11 then some (k + 1) else none
  | 1 => if 0 < j then some (k - 1) else none
  | 2 => if seg < 7 then some (k + 96) else none
  | _ => if 0 < seg then some (k - 96) else none

/-- The core of a physical tile. -/
def shaftCore (s : State) (k : Nat) : TileCore :=
  match tileAbove s k with
  | some t => s.core t
  | none => match shaftField k with
    | some f => SMap.get coreD s.spares (spareKey f (k / 96 % 8))
    | none => TileCore.reset

/-- The tile or the neighbour at the other end is fenced; in stage 10 every tile is. -/
def linkFenced (s : State) (t : Tile) (n : Nat) : Bool :=
  (isCasting s && castStage s == 10) || (s.seq t).fenced || (match linkNeighbour s t n with | some k => (shaftCore s k).seq.fenced | none => false)

def nbr (t : Tile) (o : Nat) : Nat := tilePage t 12 + o

/-- The exchange on link n: the signature received is the neighbour's own, which the manual does not give (log 8). -/
def exchange (t : Tile) (s : State) (n : Nat) : State :=
  let (k, s1) := s.fresh
  let v := Config.freeBits k
  let lo : Word := v.setWidth 32
  let hi : Word := (v >>> 32).setWidth 32
  let s2 := (s1.setReg (nbr t (0x048 + 8 * n)) lo).setReg (nbr t (0x04C + 8 * n)) hi
  if lo = s.reg (nbr t 0x068) ∧ hi = s.reg (nbr t 0x06C) then s2 else s2.setRbit (nbr t 0x070) n true

/-- NBR_CTL.go: the loaded schedule runs on every enabled link; on an end that no fence opens the transfer is dropped and
counted. -/
def nbrGo (s : State) (t : Tile) : State :=
  let en := (List.range 4).filter fun n => s.rbit (nbr t 0x040) n && (linkNeighbour s t n).isSome
  let live := en.filter (linkFenced s t)
  let s1 := countUe s (tilePage t 12) (en.length - live.length)
  if live.isEmpty then s1 else setEvt (live.foldl (exchange t) s1) (tilePage t 12) 0

def execNbrTestGo (m : Master) (t : Tile) (s : State) : Res :=
  .next <| if m = .svp then nbrGo s t else ownReject s m (nbr t 0x040) 0x100

end Sys2Proof.Machine
end

