-- ==== Sys2Proof/Machine/Repair.lean ====
section
/-!
DEFINITION. Faults, repair and service continuity (R322 … R334): tile faults and hangs, the repair of Table 15.2, decant,
static fallback, resync of twins, return to service.
-/

namespace Sys2Proof.Machine

/-! ## Detection (R323, R324) -/

/-- The detector of a fault of R323 reports it; an error of the array's storage is counted and reported as R75 says. A cell
row that errs twice within a step and its replay is remembered. -/
def execTileFault (t : Tile) (cause : TileFaultCause) (s : State) : Res :=
  .next <|
    if !fieldRuns s (tileField t) || (s.seq t).dark then s
    else
      match cause with
      | .bParity row =>
        repairLone (parityFault s t [row]) t
      | .cisternUe q =>
        let s1 := cistFaultQ s t t [q]
        if (s.mem t).erredQ.contains q then repairLone s1 t else s1
      | .accUe => faultAt (setEvt (countUe s (tilePage t 2) 1) (tilePage t 2) 3) t
      | .ivr | .checker => faultAt s t

/-- A sequencer that should issue and has issued nothing for 524,288 cycles. -/
def hung (s : State) (t : Tile) : Bool :=
  let q := s.seq t
  let waits := match q.stall with
    | some (.wait _ _ _) | some (.mmWait _) | some (.dmaWait _ _ _ _ _) | some (.engWait _ _) => true
    | _ => false
  fieldRuns s (tileField t) && !halted s t && !q.dark && !q.fenced && !q.trap && !dbgStopped s t && !saving s t && !waits
    && q.stallCtr.isNone && decide (524288 ≤ tcyc s t - q.lastIssue)

def execTileHang (t : Tile) (s : State) : Res := .next <| if hung s t then faultAt s t else s

/-- The daily test of a shaft's checkers: a failure is a fault of the physical tile above the shaft. A spare tile without a
logical tile is retired as it stands, and spends its segment's spare. -/
def execCheckerTest (f : Field) (shaft : Fin 96) (ok : Bool) (s : State) : Res :=
  .next <|
    let n := placeShaft f shaft.val
    let u := logUnit (partOfField s f) (some f)
    if !isReady s || !s.svc.up || !fieldRuns s f then s
    else if ok then logEv s 0 324 u (fieldPage f 0) none n
    else
      let s1 := logEv s 1 324 u (fieldPage f 0) none n
      match tileAbove s n with
      | some t => faultAt s1 t
      | none => retireShaft s1 f shaft.val

/-! ## Tile repair (Table 15.2) -/

/-- The partition's running body was made for another geometry than the present one. -/
def geometryLost (s : State) (p : Part) : Bool :=
  match (s.prt p).image with
  | some r => partGeom s p != r.body.geometryId
  | none => false

/-- The repair's stages 3 to 5 may run: the tiles have stopped, or for a save that waits its drains have ended. -/
def repairReady (s : State) (p : Part) : Bool :=
  s.svc.up && !(s.prt p).faulty.isEmpty && (if pstate s p = 4 then drained s p else allStopped s p)

/-- Every faulty tile of the hold is repaired, in the order of detection; one that a replay alone repairs runs on (R119). -/
def repairAll (s : State) (p : Part) : State :=
  let x := s.prt p
  let s1 := x.faulty.foldl (fun s t =>
    if x.soft.contains t then s.modSeq t fun q => { q with fenced := false }
    else repairTile s t (match x.cellRow with | some (u, r) => if u = t then some r else none | none => none)) s
  s1.modPart p fun x => { x with faulty := [], soft := [], cellRow := none }

/-- REP_STS after a repair: resync while TWIN entries are still filling, else idle (R333). -/
def repIdle (s : State) : State := putRep s (if s.cores.any fun e => !e.2.mem.resync.isEmpty then 4 else 0) 0 0

/-- What a hold cost: from detection to the replay, and what step n had run before (R338). -/
def chargeHold (s : State) (p : Part) : State := charge s (s.tsclk - (s.prt p).stepAt)

/-- TILE_REPAIR: the maps are written, and the step is replayed; a partition that is being reset takes no replay, and one
whose geometry has changed waits for the fallback (R327). -/
def execTileRepair (p : Part) (s : State) : Res :=
  .next <|
    if !repairReady s p then s
    else
      let s1 := repairAll s p
      if geometryLost s1 p then putRep s1 3 p.val (fld (s.reg (govPage 5 + 0x044)) 7 6).toNat
      else if pstate s p = 3 ∨ pstate s p = 4 then settleAll (afterRepair (repIdle (chargeHold s1 p)) p)
      else repIdle s1

/-! ## Decant (R328 … R330) -/

/-- Copy one granule of a link; where decant reads lost data the target is poison and the loss is reported. -/
def decantGran (t : Tile) (dst : Nat) (s : State) (g : Nat) : State :=
  let o := g * 64 % wellSize
  match twinRetryOp (wellUeRec s t o) t o with
  | (some d, s1) => shaftPut s1 dst o d
  | (none, s1) => poisonGran s1 (wellGran dst o)

/-- A copy out of tile t's well meets the correctable errors among its granules: each is counted and logged (R144, R322). -/
def copyCe (s : State) (t : Tile) (here : Nat → Bool) : State :=
  s.each (s.wellCe.filter fun e => here e.1) fun s e => wellCeRec s t e.2

/-- Copy the 512 MiB of a shaft, and the state of its granules. -/
def copyShaft (s0 : State) (t : Tile) (src dst : Nat) : State :=
  let inShaft := fun (n g : Nat) => decide (g * 64 / wellSize = n)
  let s := copyCe s0 t (inShaft src)
  let bad := s.wellUe.filter (inShaft src)
  let s1 := { s with
    wells := Mem.copy s.wells (wellAt src 0) (wellAt dst 0) wellSize
    wellUe := s.wellUe.filter fun g => !inShaft dst g
    wellCe := s.wellCe.filter fun e => !inShaft dst e.1 }
  bad.foldl (decantGran t dst) s1

/-- The last link is done: the well map takes the value of the remap. -/
def decantOver (s : State) (f : Field) (seg : Nat) : State :=
  let x := segVal (s.reg (fldRemap f)) seg
  let s1 := (s.modReg (fldWmap f) fun v => setFld v (4 * seg) (BitVec.ofNat 4 x)).setReg (fldDecant f) 0
  settleAll (nextDecant (setEvt s1 (fieldPage f 0) 1) f)

/-- DECANT_LINK_END: the link's copy is complete, both well ports are drained, and the next link begins. A segment that a
later fault has exhausted decants no further. -/
def execDecantLinkEnd (f : Field) (s : State) : Res :=
  .next <|
    let d := s.reg (fldDecant f)
    let seg := (fld d 0 3).toNat
    let k := (fld d 3 4).toNat
    let rev := bit d 8
    if !bit d 7 || !fieldRuns s f || !s.svc.up || exhausted s f seg then s
    else
      match segTile f seg k with
      | none => s
      | some t =>
        let a := shaftNo f seg (if rev then k + 1 else k)
        let b := shaftNo f seg (if rev then k else k + 1)
        let s1 := copyShaft s t a b
        if rev then (if k = 10 then decantOver s1 f seg else putDecant s1 f seg (k + 1) true true)
        else if k ≤ segVal (s.reg (fldRemap f)) seg then decantOver s1 f seg
        else putDecant s1 f seg (k - 1) true false

/-! ## Static fallback (R331, R332) -/

/-- Tiles stand still: stopped, or held at a seam adapter on the way to a field that is dark; a save's drains have ended. -/
def fallbackReady (s : State) (p : Part) : Bool :=
  match (s.prt p).image with
  | some r => if pstate s p = 4 then drained s p else r.body.tiles.all fun t => tileStopped s p t || (partFields s p).any fun f => (s.fld f).held.any (·.tile == t)
  | none => false

/-- Stage 3: an abrupt reset that keeps the image. -/
def fallbackReset (s : State) (p : Part) : State :=
  let s1 := (s.each (partTiles s p) stopTile).each (partTiles s p) abruptTile
  (stage4 (resetHeld (dropHeldXfers s1 p) p) p).modPart p fun x => { x with faulty := [], cellRow := none, lostFields := [], noRelease := false }

/-- Stages 4 and 5: the variant's weir map, then step n; a pre-emption that waits makes its record instead. -/
def startVariant (s : State) (p : Part) (r : RunImage) (b : ImageBody) (n : Nat) : State :=
  match applyWeirMap s p b.weirMap with
  | .error h => endPreempted (setEvt s (partPage p 0) 6) p 3 h
  | .ok s1 =>
    let r1 := { r with body := b }
    if (s1.prt p).pend = some 4 ∨ pstate s1 p = 4 then afterRepair (s1.modPart p fun x => { x with image := some r1 }) p
    else beginImage s1 p r1 r.committed n

/-- STATIC_FALLBACK: the first variant in image order for the present geometry, or the loss of the run. -/
def execStaticFallback (p : Part) (s : State) : Res :=
  .next <|
    match (s.prt p).image with
    | none => s
    | some r =>
      if (pstate s p ≠ 3 ∧ pstate s p ≠ 4) ∨ !s.svc.up ∨ !geometryLost s p ∨ !fallbackReady s p then s
      else
        let g := partGeom s p
        let n := stepNo s (r.body.tiles.headD 0)
        let ok := replayOk s p
        let s1 := (putRep s 3 p.val (fld (s.reg (govPage 5 + 0x044)) 7 6).toNat).setReg (govPage 5 + 0x048) g
        let s2 := fallbackReset (chargeHold s1 p) p
        if !ok then repIdle (endPreempted s2 p 5 n)
        else match r.variants.find? (·.geometryId == g) with
          | none => repIdle (endPreempted (lossBegins (logEv s2 3 332 (logUnit (some p) none) (partPage p 0) none g.toNat) p) p 1 g.toNat)
          | some b => repIdle (startVariant s2 p r b n)

/-! ## Resync (R333) -/

/-- The granules of a range. -/
def rangeGrans (n b : Nat) (g : Nat) : Bool := decide (b / 64 ≤ g ∧ g < (b + n) / 64)

/-- Copy a resyncing range into its twin; data lost in the primary is lost in the copy. -/
def resyncCopy (s0 : State) (t w : Tile) (b n : Nat) : State :=
  let src := wellAt (homeShaft s0 t) b
  let dst := wellAt (homeShaft s0 w) b
  let s := copyCe s0 t (rangeGrans n src)
  let bad := s.wellUe.filter fun g => rangeGrans n src g
  let s1 := { s with
    wells := Mem.copy s.wells src dst n
    wellUe := s.wellUe.filter fun g => !rangeGrans n dst g
    wellCe := s.wellCe.filter fun e => !rangeGrans n dst e.1 }
  bad.foldl (fun s g => poisonGran s (g + dst / 64 - src / 64)) s1

/-- RESYNC_COMPLETE. -/
def execResyncComplete (t : Tile) (e : Fin 8) (s : State) : Res :=
  .next <|
    let (b, n) := twinRange s t e.val
    if !(s.mem t).resync.contains e.val ∨ !twinLive s t e.val then s
    else
      match twinOf s t b with
      | none => s
      | some (_, w) =>
        if fieldDark s (tileField w) then breakTwin s t e.val
        else
          let s1 := (resyncCopy s t w b n).modMem t fun m => { m with resync := removeNat m.resync e.val }
          if (fld (s.reg (govPage 5 + 0x044)) 0 3) = 4 then repIdle s1 else s1

/-! ## Return to service (R334) -/

/-- The failed tile of a segment may come back: one failure recorded, not dark, its wells decanted, no decant running. -/
def mayReturn (s : State) (f : Field) (seg : Nat) : Bool :=
  let x := segVal (s.reg (fldRemap f)) seg
  let n := shaftNo f seg x
  x != 15 && segVal (s.reg (fldWmap f)) seg == x && !s.rbit (fldDecant f) 7 && !exhausted s f seg
    && SMap.get zeroN s.svc.soft n == 1 && !s.svc.fuse.contains n && decide (phaseFails s f (seg * 12 + x) < 2)

/-- RETURN_TO_SERVICE: tested on quiet; a tile that passes goes back at its partition's next commit, or at once where no
step runs. A tile that fails stays failed, and the attempt is logged. -/
def execReturnToService (f : Field) (seg : Fin 8) (pass : Bool) (s : State) : Res :=
  .next <|
    if !s.svc.up || !fieldRuns s f || !mayReturn s f seg.val then s
    else if !pass then logEv s (Config.openClass 334) 334 (logUnit (partOfField s f) (some f)) (fieldPage f 0) none seg.val
    else
      match partOfField s f with
      | some p =>
        if pstate s p = 1 then returnTile s (f, seg)
        else s.modPart p fun x => { x with returns := if x.returns.contains (f, seg) then x.returns else x.returns ++ [(f, seg)] }
      | none => returnTile s (f, seg)

end Sys2Proof.Machine
end

