-- ==== Sys2Proof/Machine/Presence.lean ====
section
/-!
DEFINITION. Physical presence, service mode, the service button (R339, R340, R350).
-/

namespace Sys2Proof.Machine

def putPres (s : State) (n : Nat) : State := s.modReg presSts fun w => setFld w 0 (BitVec.ofNat 2 n)
def setWindow (s : State) (b : Bool) : State := s.setRbit presSts 2 b

/-- PRES_CMD: the service processor stages a command of Table 15.8; a later one replaces it. Other codes name none. -/
def stageOp (s : State) (m : Master) (code : Nat) (root : Hash) : State :=
  let a := govPage 7 + 0x040
  if m ≠ .svp then ownReject s m a code
  else if code = 0 ∨ 4 < code then s
  else
    let x : Staged := { code := BitVec.ofNat 3 code, at0 := s.tsclk, sealBroken := !s.svc.pins.sealed, root := root }
    (setWindow (putPres s 0) true).modSvc fun v => { v with staged := some x }

def execFuseCommit (m : Master) (s : State) : Res := .next (stageOp s m 1 0)
def execFirmwareRootChange (m : Master) (root : BitVec 384) (s : State) : Res := .next (stageOp s m 2 root)
def execDebugUnlock (m : Master) (s : State) : Res := .next (stageOp s m 3 0)
def execCoolantTripOverride (m : Master) (s : State) : Res := .next (stageOp s m 4 0)

/-- A staged command ends with a result, logged with class 5. -/
def endStaged (s : State) (x : Staged) (result : Nat) : State :=
  logEv ((setWindow (putPres s result) false).modSvc fun v => { v with staged := none }) 5 339 0 (govPage 7) (some .svp)
    (x.code.toNat + 8 * result)

/-- The coolant trip override ends; a flow loss that stands counts again. -/
def endOverride (s : State) : State :=
  if !override s then s
  else
    let s1 := (s.setRbit presSts 5 false).modSvc fun v => { v with overrideAt := none }
    if s.svc.pins.flowLossN then s1 else raiseStop s1 cFlow

/-- A fuse commit may raise the version floor (R346), to a free value up to the version that runs (log 77). -/
def raiseFloor (s : State) : State :=
  let running := if s.svc.runA then s.svc.fwA else s.svc.fwB
  let (n, s1) := s.fresh
  s1.modSvc fun v => { v with fwFloor := v.fwFloor + Config.freeNat n % (running - v.fwFloor + 1) }

/-- The effect of a command of Table 15.8. -/
def runStaged (s : State) (x : Staged) : State :=
  match x.code.toNat with
  | 1 => (raiseFloor s).modSvc fun v => { v with fuse := (v.soft.map (·.1)).foldl insertNat v.fuse }
  | 2 => s.modSvc fun v => { v with root := x.root }
  | 3 => s.modSvc fun v => { v with debugUnlocked := true }
  | _ =>
    let s1 := (s.setRbit presSts 5 true).modSvc fun v => { v with overrideAt := some s.tsclk }
    let s2 := capFall (s1.setReg (govReg 0x044) 50)
    if s2.rbit govSts cFlow then clearStop s2 cFlow else s2

/-- PRESENCE_N has been low for 1 s, SEAL_SENSE as given: service mode ends where the seal is intact, and a staged command
runs within 60 s of its staging where the seal has been intact since. -/
def execPresenceConfirm (sealIntact : Bool) (s : State) : Res :=
  .next <|
    let s1 := s.modPins fun p => { p with sealed := sealIntact }
    let s2 := if sealIntact then s1.setRbit presSts 4 false else s1
    match s.svc.staged with
    | none => s2
    | some x =>
      if x.sealBroken || !sealIntact then endStaged s2 x 3
      else if x.at0 + 60000000000 < s.tsclk then endStaged s2 x 2
      else runStaged (endStaged s2 x 1) x

/-- 60 s have passed without presence. -/
def execPresenceWindowExpiry (s : State) : Res :=
  .next <|
    match s.svc.staged with
    | some x =>
      if x.at0 + 60000000000 ≤ s.tsclk then endStaged s x (if x.sealBroken || !s.svc.pins.sealed then 3 else 2) else s
    | none => s

/-- SEAL_SENSE has been open for 10 ms: service mode; a staged command will not run, and an override is cancelled. -/
def execSealOpen (s : State) : Res :=
  .next <|
    let s1 := endOverride ((s.modPins fun p => { p with sealed := false }).setRbit presSts 4 true)
    match s1.svc.staged with
    | some x => endStaged s1 x 3
    | none => s1

/-- 60 min of the coolant trip override. -/
def execOverrideExpiry (s : State) : Res :=
  .next <|
    match s.svc.overrideAt with
    | some a => if a + 3600000000000 ≤ s.tsclk then endOverride s else s
    | none => s

/-- SVC_BTN_N (R350): a press of 50 ms … 4 s is logged; held for 4 s it starts the sequenced power-down. -/
def execSvcBtnPress (ms : Nat) (s : State) : Res :=
  .next <| if 50 ≤ ms ∧ ms < 4000 then logEv s 0 350 0 (govPage 7) none ms else s

def execSvcBtnHold (s : State) : Res := .next (powerDown s)

end Sys2Proof.Machine
end

