-- ==== Sys2Proof/Machine/Service.lean ====
section
/-!
DEFINITION. Updates in service (R335), the guaranteed operations (R336), the event log (R337), and the service protocols
(R343 … R347). The manual names the requests and what they answer, and not the bytes of PLDM and SPDM messages (log 13).
-/

namespace Sys2Proof.Machine

/-! ## Answers -/

/-- The service island has a supply (R262). -/
def islandOn (s : State) : Bool := s.svc.vhk || decide (30000 ≤ s.svc.vin)

def mbxPage : Nat := govPage 8
def mbxSts : Nat := mbxPage + 0x048
def mbxBusy (s : State) : Bool := s.rbit mbxSts 0

/-- The answer to a mailbox request stands in page 10; its bytes are not given. -/
def mbxAnswer (s : State) : State :=
  let (k, s1) := s.fresh
  let n := 1 + Config.freeNat k % 4096
  let bs := (List.range n).map fun i => BitVec.ofNat 8 (Config.freeNat (k * 4096 + i))
  let s2 := s1.modSvc fun v => { v with mbxRsp := Mem.writeN v.mbxRsp 0 bs }
  setEvt (s2.modReg mbxSts fun w => setFld (setBit w 0 false) 16 (BitVec.ofNat 13 n)) mbxPage 0

/-- Answer a request that came over an endpoint. -/
def reply (s : State) (e : Endpoint) (x : SvcMsg) : State :=
  let s1 := s.emit (.svc (some e) x)
  if e = .mailbox then mbxAnswer s1 else s1

/-- Sniwin serves a request: not during an outage, and from the mailbox only one that was submitted (R344, R347). -/
def serveReq (s : State) (e : Endpoint) (k : State → State) : State :=
  if !s.svc.up || (decide (e = .mailbox) && !mbxBusy s) then s else k s

/-- Answer on the service port. -/
def svcOut (s : State) (x : SvcMsg) : State := s.emit (.svc none x)

/-! ## Updates (R335, Table 15.5) -/

/-- A repair or decant of a partition is in progress. -/
def inRepair (s : State) (p : Part) : Bool :=
  pstate s p == 3 || !(s.prt p).faulty.isEmpty || (partFields s p).any fun f => s.rbit (fldDecant f) 7

/-- Tile microcode of a partition: refused where its latencies differ, or during a repair or decant. -/
def microcodeOp (s : State) (p : Part) (latenciesOk : Bool) (h : Hash) : Option State :=
  if !latenciesOk || inRepair s p then none
  else some (logEv (s.modPart p fun x => { x with microcode := h }) 0 335 (logUnit (some p) none) (partPage p 0) none 0)

/-- SerDes firmware of a port: its traffic moves to the alternate, which must be up; its subports retrain. -/
def serdesOp (s : State) (y : Port) (h : Hash) : Option State :=
  if (altRoute s 0 3 y).isNone then none
  else
    let s1 := (List.finRange 4).foldl (fun s i => if subUp s y i then subLost s y i else s) s
    some (logEv (s1.modPort y fun u => { u with serdes := h, serdesVersion := u.serdesVersion + 1 }) 0 335
      (logUnit none (some (portField y))) (yurnoPage y 0) none 0)

/-- Repair, decant, fallback, casting or presence window: Sniwin is not replaced meanwhile. -/
def sniwinBusy (s : State) : Bool :=
  isCasting s || s.svc.staged.isSome || (List.finRange 16).any (inRepair s) || (List.finRange 48).any fun f => s.rbit (fldDecant f) 7

/-- A new Sniwin goes to the inactive image, and control passes to it: an outage until it reports running. -/
def sniwinOp (s : State) (version : Nat) (h : Hash) : Option State :=
  if sniwinBusy s ∨ version < s.svc.fwFloor ∨ version = 0 then none
  else
    some ((logEv s 0 335 0 (govPage 5) none version).modSvc fun v =>
      if v.runA then { v with fwB := version, fwHashB := h, runA := false, up := false, outageAt := some s.tsclk }
      else { v with fwA := version, fwHashA := h, runA := true, up := false, outageAt := some s.tsclk })

/-- Say whether an update was taken. -/
def updateAnswer (s : State) (r : Option State) : State :=
  match r with
  | some s1 => svcOut s1 .done
  | none => svcOut s .refusal

def execUpdateTileMicrocode (p : Part) (latenciesOk : Bool) (hash : BitVec 384) (s : State) : Res :=
  .next <| if s.svc.up then updateAnswer s (microcodeOp s p latenciesOk hash) else s
def execUpdateSerdesFirmware (y : Port) (hash : BitVec 384) (s : State) : Res :=
  .next <| if s.svc.up then updateAnswer s (serdesOp s y hash) else s
def execUpdateSniwin (version : Nat) (hash : BitVec 384) (s : State) : Res :=
  .next <| if s.svc.up then updateAnswer s (sniwinOp s version hash) else s

/-- 30 s without a report from the new image: the island restarts the previous one. -/
def execSniwinUpdateTimeout (s : State) : Res :=
  .next <|
    match s.svc.outageAt with
    | some a =>
      if a + 30000000000 ≤ s.tsclk ∧ !s.svc.up then
        s.modSvc fun v => { v with runA := !v.runA, up := true, outageAt := none }
      else s
    | none => s

/-- The island watchdog: the other image takes over (Table 15.1); with no other valid one the same starts again. -/
def execSvpWatchdog (s : State) : Res :=
  .next <|
    if !s.svc.up then s
    else
      let other := if s.svc.runA then s.svc.fwB else s.svc.fwA
      (logEv s 1 322 0 (govPage 5) none 0).modSvc fun v =>
        { v with runA := if other = 0 then v.runA else !v.runA, up := false, outageAt := some s.tsclk }

/-! ## Guaranteed operations (Table 15.6) -/

/-- Do k where the service island has a supply. -/
def guaranteed (s : State) (k : State → State) : State := if islandOn s then k s else s

/-- The latest telemetry set, word by word. -/
def telSet (s : State) : List Word :=
  (List.range 6).map (fun i => s.reg (telReg (0x040 + 4 * i))) ++ (List.range 48).map fun i => s.reg (telReg (0x080 + 4 * i))

def execSvcTelemetryRead (s : State) : Res := .next (guaranteed s fun s => svcOut s (.words (telSet s)))

/-- The log entry at a place of the ring; the list holds the latest first. -/
def logAt (s : State) (i : BitVec 12) : Option LogEnt := s.svc.log[(s.svc.logHead - 1 - i).toNat]?

def execSvcEventLogRead (i : BitVec 12) (s : State) : Res := .next (guaranteed s fun s => svcOut s (.log (logAt s i)))

def execSvcMinVoltageRead (p : RailPoint) (s : State) : Res :=
  .next <| guaranteed s fun s =>
    let a := railEntry p
    let ws := [0, 4, 8, 12].map fun k => s.reg (a + k)
    svcOut (railReadOp s p).2 (.words ws)

/-- Every budget in the ratio of two caps (R304). -/
def scaleBudgets (s : State) (new old : Nat) : State :=
  (List.finRange 48).foldl (fun s f => putBudget (s.modFld f fun x => { x with budget := x.budget * new / old }) f) s

/-- GOV_SCAP is lowered; during an outage the island also scales the budgets. -/
def capLower (s : State) (c : Nat) : State :=
  let a := govReg 0x044
  if c < 50 ∨ (fld (s.reg a) 0 16).toNat ≤ c then svcOut s .refusal
  else
    let old := capEff s
    let s1 := capFall (safeNote (s.setReg a (BitVec.ofNat 32 c)) a .svp)
    svcOut (if !s.svc.up ∧ c < old then scaleBudgets s1 c old else s1) .done

def execSvcCapLowering (cap : BitVec 16) (s : State) : Res := .next (guaranteed s fun s => capLower s cap.toNat)

def execSvcStop (s : State) : Res :=
  .next <| guaranteed s fun s => svcOut (raiseStop (safeNote s govStop .svp) cHost) .done

def execSvcPowerDown (s : State) : Res := .next (guaranteed s fun s => svcOut (powerDown s) .done)

/-- An abrupt reset from the service port; where the partition's state takes none, a refusal. -/
def execSvcAbruptReset (p : Part) (s : State) : Res :=
  .next <| guaranteed s fun s => if pstate s p = 0 then svcOut s .refusal else svcOut (doPartCmd s .svp p 8 none) .done

/-- Close the adapters of the neighbours that face a field. -/
def closeFacing (s : State) (f : Field) : State :=
  adapters.foldl (fun s a => match neighbour f a with
    | some g => if adapterExists f a then s.setReg (seamPage g (backAdapter a) + 0x080) 0 else s
    | none => s) s

/-- Field isolation: seams closed, the partition held, rails down, the field absent and handled as lost. -/
def execFieldIsolation (f : Field) (s : State) : Res :=
  .next <| guaranteed s fun s => svcOut (settleAll (showAbsent (loseField (closeFacing s f) f) f)) .done

/-- The bytes of a salvage read, granule by granule; none where a byte is in no well of a clocked field. -/
def salvage : Nat → State → Nat → Nat → Option Bytes × State
  | 0, s, _, _ => (some [], s)
  | k + 1, s, a, n =>
    if n = 0 then (some [], s)
    else
      let m := min n (64 - a % 64)
      let one : Option Line × State :=
        match placeOf a with
        | .well t o => if fieldRuns s (tileField t) then wellRead s t o else (none, s)
        | .reserve f seg o =>
          let sh := reserveShaft s f seg
          if !fieldRuns s f || s.wellUe.contains (wellGran sh o) then (none, s) else (some (shaftLine s sh o), s)
        | .nowhere => (none, unmapped s a .svp)
        | _ => (none, s)
      match one with
      | (some d, s1) =>
        match salvage k s1 (a + m) (n - m) with
        | (some bs, s2) => (some (((lineBytes d).drop (a % 64)).take m ++ bs), s2)
        | r => r
      | (none, s1) => (none, s1)

def execSalvageRead (a : BitVec 48) (n : Nat) (s : State) : Res :=
  .next <| guaranteed s fun s =>
    if s.svc.vin < 30000 then svcOut s .refusal
    else match salvage (n + 1) s a.toNat n with
      | (some bs, s1) => svcOut s1 (.bytes bs)
      | (none, s1) => svcOut s1 .refusal

/-- Every 10 s in which entries were added, the newest 256 go to flash. -/
def execEventLogFlush (s : State) : Res :=
  .next <|
    if s.svc.up ∧ s.svc.log.head? ≠ s.svc.logFlash.head? then s.modSvc fun v => { v with logFlash := v.log.take 256 } else s

/-! ## PLDM (Table 16.1) -/

/-- Types supported: 0, 2, 5 and 7. -/
def pldmTypes : Nat := 0xA5

def pldmNames (ty : Nat) : List String :=
  match ty with
  | 0 => ["GetTID", "GetPLDMVersion", "GetPLDMTypes", "GetPLDMCommands"]
  | 2 => ["PDR repository", "numeric sensors", "state sensors", "PlatformEventMessage"]
  | 5 => ["RequestUpdate", "ActivateFirmware"]
  | 7 => ["topology manifest", "event-log flash copy"]
  | _ => []

/-- The terminus ID is the bus owner's, and the version that of a standard: the manual states neither value. -/
def openValue (s : State) (e : Endpoint) : State :=
  let (k, s1) := s.fresh
  reply s1 e (.value (Config.freeNat k))

def execGetTid (e : Endpoint) (s : State) : Res := .next (serveReq s e fun s => openValue s e)
def execGetPldmVersion (e : Endpoint) (ty : BitVec 6) (s : State) : Res :=
  .next (serveReq s e fun s => if pldmTypes.testBit ty.toNat then openValue s e else reply s e .refusal)
def execGetPldmTypes (e : Endpoint) (s : State) : Res := .next (serveReq s e fun s => reply s e (.value pldmTypes))
def execGetPldmCommands (e : Endpoint) (ty : BitVec 6) (s : State) : Res :=
  .next (serveReq s e fun s => if pldmTypes.testBit ty.toNat then reply s e (.names (pldmNames ty.toNat)) else reply s e .refusal)

/-- A numeric sensor, from the latest telemetry set. -/
def sensorValue (s : State) : NumSensor → Nat
  | .power => (fld (s.reg (telReg 0x04C)) 0 16).toNat
  | .inlet => (fld (s.reg (telReg 0x050)) 0 16).toNat
  | .outlet => (fld (s.reg (telReg 0x050)) 16 16).toNat
  | .flow => (fld (s.reg (telReg 0x054)) 0 16).toNat
  | .die => (fld (s.reg (telReg 0x054)) 16 16).toNat
  | .fieldTemp f => (fld (s.reg (telReg (0x080 + 4 * f.val))) 0 16).toNat
  | .fieldPower f => (fld (s.reg (telReg (0x080 + 4 * f.val))) 16 16).toNat

def execNumericSensorRead (e : Endpoint) (sensor : NumSensor) (s : State) : Res :=
  .next (serveReq s e fun s => reply s e (.value (sensorValue s sensor)))

def stateValue (s : State) : StateSensor → Nat
  | .casting => castState s
  | .svcMode => if svcMode s then 1 else 0
  | .stopped => if stopped s then 1 else 0

def execStateSensorRead (e : Endpoint) (sensor : StateSensor) (s : State) : Res :=
  .next (serveReq s e fun s => reply s e (.value (stateValue s sensor)))

/-- One update session at a time. -/
def execRequestUpdate (e : Endpoint) (s : State) : Res :=
  .next <| serveReq s e fun s =>
    if s.svc.session.isSome then reply s e .alreadyInUpdateMode
    else reply (s.modSvc fun v => { v with session := some e }) e .done

/-- A component is activated in the session that was opened on the same endpoint; none below the version floor. -/
def activate (s : State) (c : FwComponent) : Option State :=
  match c with
  | .sniwin v h => sniwinOp s v h
  | .serdes y v h =>
    if v < s.svc.fwFloor then none else (serdesOp s y h).map fun s => s.modPort y fun u => { u with serdesVersion := v }
  | .microcode p ok v h => if v < s.svc.fwFloor then none else microcodeOp s p ok h

def execActivateFirmware (e : Endpoint) (c : FwComponent) (s : State) : Res :=
  .next <| serveReq s e fun s =>
    if s.svc.session ≠ some e then reply s e .refusal
    else match activate s c with
      | some s1 => reply (s1.modSvc fun v => { v with session := none }) e .done
      | none => reply s e .refusal

def execEventLogFileRead (e : Endpoint) (s : State) : Res := .next (serveReq s e fun s => reply s e (.logs s.svc.logFlash))

/-! ## SPDM (R343, R345) -/

/-- Fresh digests or signatures under keys that the manual does not give. -/
def freeHashes (s : State) (n : Nat) : List Hash × State :=
  (List.range n).foldl (fun r _ => let (k, s1) := r.2.fresh; (r.1 ++ [Config.freeHash k], s1)) ([], s)

def replyFree (s : State) (e : Endpoint) (l : List Hash) (n : Nat) : State :=
  let (hs, s1) := freeHashes s n
  reply s1 e (.hashes (l ++ hs))

def execGetDigests (e : Endpoint) (s : State) : Res := .next (serveReq s e fun s => replyFree s e [] 1)
def execGetCertificate (e : Endpoint) (slot : Nat) (s : State) : Res :=
  .next (serveReq s e fun s => if slot = 0 then replyFree s e [] 1 else reply s e .refusal)
/-- A challenge is signed: certificate digest, and the two halves of a signature. -/
def execChallenge (e : Endpoint) (_nonce : BitVec 256) (s : State) : Res := .next (serveReq s e fun s => replyFree s e [] 3)

/-- The state block of Table 16.2. -/
def stateBlock (s : State) : Nat :=
  (if s.svc.debugUnlocked then 1 else 0) + (if override s then 2 else 0) + (if svcMode s then 4 else 0)
    + (if s.svc.pins.sealed then 8 else 0)

/-- A measurement block (Table 16.2); the fuse map's layout is not given, nor its digest. -/
def measure (s : State) (idx : Nat) : Option (List Hash) × State :=
  match idx with
  | 1 => (some [s.svc.root], s)
  | 2 => (some [if s.svc.runA then s.svc.fwHashA else s.svc.fwHashB, BitVec.ofNat 384 (if s.svc.runA then s.svc.fwA else s.svc.fwB)], s)
  | 3 => (some ((List.finRange 24).map fun y => (s.port y).serdes), s)
  | 4 => (some (((List.finRange 16).filter fun p => decide (pstate s p ≠ 0)).map fun p => (s.prt p).microcode), s)
  | 5 => let (hs, s1) := freeHashes s 1; (some hs, s1)
  | 6 => (some [BitVec.ofNat 384 (stateBlock s)], s)
  | 7 => (some [sha384 (s.svc.manifestFlash.getD [])], s)
  | _ => (none, s)

def execGetMeasurements (e : Endpoint) (idx : Nat) (sign : Bool) (s : State) : Res :=
  .next <| serveReq s e fun s =>
    match measure s idx with
    | (some l, s1) => replyFree s1 e l (if sign then 2 else 0)
    | (none, s1) => reply s1 e .refusal

/-! ## MCTP, I3C and the mailbox (R343, R347) -/

/-- The bus owner sets the endpoint ID. -/
def execMctpControlMessage (e : Endpoint) (eid : BitVec 8) (s : State) : Res :=
  .next <| serveReq s e fun s =>
    reply (s.modSvc fun v => { v with eids := v.eids.filter (fun x => x.1 != e) ++ [(e, eid)] }) e .done

/-- ENTDAA: the island's I3C target answers with its provisional ID, which carries SLOT_ID, and takes the address. -/
def execEntdaa (addr : BitVec 7) (s : State) : Res :=
  .next <| guaranteed s fun s =>
    svcOut (s.modSvc fun v => { v with dynAddr := some addr }) (.value s.svc.slotSampled.toNat)

/-- MBX_CTL.go: one request at a time, 1 … 4,096 bytes. -/
def mbxGo (s : State) (h : Option HostPort) : State :=
  let n := (fld (s.reg (mbxPage + 0x044)) 0 13).toNat
  if mbxBusy s then setEvt s mbxPage 2
  else if n = 0 ∨ 4096 < n then setEvt s mbxPage 1
  else s.modReg mbxSts fun w => setFld (setBit w 0 true) 1 (BitVec.ofNat 2 ((h.map (·.val)).getD 0))

def execMbxGo (h : Option HostPort) (s : State) : Res := .next (mbxGo s h)

/-- MBX_CTL.abort. -/
def mbxAbort (s : State) : State :=
  if mbxBusy s then setEvt (s.modReg mbxSts fun w => setFld (setBit w 0 false) 16 (0 : BitVec 13)) mbxPage 1 else s

def execMbxAbort (m : Master) (s : State) : Res := .next (owned s m (mbxPage + 0x040) 2 mbxAbort)

end Sys2Proof.Machine
end

