-- ==== Sys2Proof/Machine/View.lean ====
section
/-!
DEFINITION. What each register reads as (Table 0.5): the stored word, or, where a register shows state that stands
elsewhere, that state.
-/

namespace Sys2Proof.Machine

/-- Place a number in n bits from bit lo. -/
def at0 (lo n v : Nat) : Nat := v % 2 ^ n * 2 ^ lo

def flag (lo : Nat) (b : Bool) : Nat := if b then 2 ^ lo else 0

/-! ## Tile pages -/

/-- A release point or an event of Table 2.7 drains the store buffer (R57): a FENCE, ARRIVE or ARRIVE.STEP that waits, a trap
before its entry, a graceful reset, a pre-emption. -/
def draining (s : State) (t : Tile) : Bool :=
  let event := match partOf s t with
    | some p => decide (pstate s p = 4 ∨ pstate s p = 6)
    | none => false
  let point := match (s.seq t).stall with
    | some (.fence _) | some (.arrive _ _ _ _) | some (.arriveStep _ _ _) => true
    | _ => false
  !sbEmpty s t && ((s.seq t).trap || event || point)

/-- SEQ_STS: next half filled and not poisoned, store buffer empty (R40). -/
def viewSeqSts (s : State) (t : Tile) : Word :=
  setBit (setBit (s.reg (seqSts t)) 3 (halfOf s t (!activeHalf s t) == .complete)) 4 (sbEmpty s t)

/-- A shape as a number (Table 3.7). -/
def shapeCode : Shape → Nat
  | .full => 0
  | .half => 1
  | .quad => 2
  | .narrow => 3

/-- ARR_STS: the compute that the array holds frozen is running, and stands in the queue until it is through; every other
instruction runs at once in this model (log 10). -/
def viewArrSts (s : State) (t : Tile) : Word :=
  let a := s.arr t
  let ok := match a.shadow with | some x => x.img.isSome | none => false
  let run := if arrBusy s t then
      match heldCompute s t with
      | some (.compute sh _ _ _ _ _ afmt bfmt _ _ _, _) => 1 + flag 5 true + at0 6 2 (shapeCode sh) + flag 9 (intMode afmt.toNat bfmt.toNat)
      | _ => 0
    else 0
  BitVec.ofNat 32 (run + at0 1 3 a.queue.length + flag 4 ok + flag 8 a.bSet)

/-- Header cycles of a shadow load, and cycles for a cell row (Table 3.3). -/
def loadCycles (sh : Shape) (e : Nat) : Nat × Nat :=
  match sh with
  | .full | .quad => (16, max 1 (e / 8))
  | .half => (8, max 1 (e / 16))
  | .narrow => (2, 1)

/-- Cell rows that a load in progress has written: by the times of Table 3.3, and all but the last until it completes. -/
def rowsLoaded (s : State) (t : Tile) (x : Shadow) : Nat :=
  if x.img.isSome then 256
  else
    let (h, r) := loadCycles x.shape (fmtWidth x.fmt.toNat)
    min 255 ((tcyc s t - x.at0 - h) / r)

/-- ARR_LDB: rows of the load in progress, and whether an MM.LDB waits. -/
def viewArrLdb (s : State) (t : Tile) : Word :=
  let a := s.arr t
  let rows := match a.shadow with | some x => rowsLoaded s t x | none => 0
  let waits := a.queue.any fun e => match e with | .ldb _ _ _ _ _ _ => true | _ => false
  BitVec.ofNat 32 (rows + flag 9 waits)

/-- PLB_HIST[w] of the selected phase. -/
def viewHist (s : State) (t : Tile) (w : Nat) : Word :=
  let k := (fld (s.reg (tilePage t 3 + 0x05C)) 0 10).toNat * 8 + 2 * w
  let h := fun i => SMap.get zeroN (s.vec t).hist i
  BitVec.ofNat 32 (at0 0 16 (h k) + at0 16 16 (h (k + 1)))

/-- The live progress word of a running descriptor, or the last one written (R132). -/
def viewProg (s : State) (t : Tile) (ch : Chan) : Nat :=
  let c := s.dma t ch
  match c.queue with
  | d :: _ => if c.started && dmaState s t ch == 1 then progWord c.done d.tag 1 false 0
    else (s.reg (dmaPage t ch + 0x048)).toNat + (s.reg (dmaPage t ch + 0x04C)).toNat * 2 ^ 32
  | [] => (s.reg (dmaPage t ch + 0x048)).toNat + (s.reg (dmaPage t ch + 0x04C)).toNat * 2 ^ 32

/-- WELL_TEXCL: the exclusion depth of each quadrant above the shaft of the tile's home well (R290). -/
def viewTexcl (s : State) (t : Tile) : Word :=
  let k := shaftPlace (homeShaft s t)
  BitVec.ofNat 32 (((List.range 4).map fun q => at0 (2 * q) 2 (SMap.get zeroN (s.fld (tileField t)).texcl (k * 4 + q))).sum)

/-- NBR_STS: each link absent, idle or failed, and whether the tile is fenced. -/
def viewNbr (s : State) (t : Tile) : Word :=
  let st := fun n => if (linkNeighbour s t n).isNone then 0
    else if s.svc.linkFail.contains (tileShaft s t * 4 + n) then 3 else 1
  BitVec.ofNat 32 (((List.range 4).map fun n => at0 (2 * n) 2 (st n)).sum + flag 8 (s.seq t).fenced)

/-- A register of a tile page. -/
def viewTile (s : State) (t : Tile) (n o : Nat) (a : Nat) : Word :=
  let w := s.reg a
  if n = 0 then
    if o = 0x044 then viewSeqSts s t
    else if o = 0x06C then BitVec.ofNat 32 (stepKcyc s t) else w
  else if n = 1 then
    if o = 0x044 then (if bit w 0 then setFld w 16 (BitVec.ofNat 16 (s.pc t)) else setFld w 16 (0 : BitVec 16))
    else if o = 0x05C then dbgData s t else w
  else if n = 2 then
    if o = 0x044 then viewArrSts s t else if o = 0x06C then viewArrLdb s t else w
  else if n = 3 then
    if o = 0x04C then setFld w 2 (BitVec.ofNat 3 (s.vec t).captures.length)
    else if 0x060 ≤ o ∧ o < 0x070 then viewHist s t ((o - 0x060) / 4) else w
  else if h : 5 ≤ n ∧ n ≤ 8 then
    let ch : Chan := ⟨n - 5, by omega⟩
    if o = 0x044 then setFld w 3 (BitVec.ofNat 4 (s.dma t ch).queue.length)
    else if o = 0x048 then BitVec.ofNat 32 (viewProg s t ch)
    else if o = 0x04C then BitVec.ofNat 32 (viewProg s t ch / 2 ^ 32) else w
  else if n = 9 then
    if o = 0x060 then
      BitVec.ofNat 32 (flag 0 (fostered s t) + at0 1 5 (s.mem t).engQ.length + flag 6 (s.mem t).scrub.isSome)
    else if o = 0x064 then viewTexcl s t
    else if o = 0x068 then BitVec.ofNat 32 (s.fld (tileField t)).frame else w
  else if n = 10 then
    if o = 0x040 then
      BitVec.ofNat 32 (at0 0 7 (s.mem t).sb.length + flag 7 (draining s t) + flag 8 (sbEmpty s t)) else w
  else if n = 11 then (if o = 0x040 then BitVec.ofNat 32 (tgovCap s t) else w)
  else if n = 12 then (if o = 0x044 then viewNbr s t else w)
  else w

/-! ## Field, port and hub pages -/

/-- FLD_REMAP_STS (R18). -/
def viewRemapSts (s : State) (f : Field) : Word :=
  let r := fun g => segVal (s.reg (fldRemap f)) g
  let w := fun g => segVal (s.reg (fldWmap f)) g
  BitVec.ofNat 32 (((List.range 8).map fun g => flag g (r g != 15) + flag (8 + g) (w g != r g)).sum)

/-- SEAM_STS: the peer, and the entries that the adapter holds for it. A transfer that goes does so at once (log 10), so an
adapter holds nothing that came in, and no crossing is in progress between commands. -/
def viewSeam (s : State) (f : Field) (a : Adapter) : Word :=
  match neighbour f a with
  | none => 0
  | some b =>
    let peer := if (s.fld b).absent then 2 else if fieldRuns s b then 0 else 1
    BitVec.ofNat 32 (peer + at0 2 5 (seamEntries s f a false).length + at0 7 5 (seamEntries s f a true).length)

/-- ARB_STS. -/
def viewArb (s : State) (page : Nat) : Word :=
  BitVec.ofNat 32 (flag 0 (portFrozen s page) + flag 1 (!(s.arb page).inflight.isEmpty))

/-- The estimate of the selected phase (R285). -/
def selEst (s : State) (f : Field) : PhaseEst :=
  SMap.get estD (s.fld f).est (fld (s.reg (fieldPage f 242 + 0x050)) 0 10).toNat

/-- FGOV_PEST, with E shown as the neighbouring value below, or above for up. -/
def viewPest (s : State) (f : Field) (up : Bool) : Word :=
  let p := selEst s f
  let e := if up then p.e.ceil.toNat else p.e.floor.toNat
  BitVec.ofNat 32 (min 0xFFFF e + at0 16 15 (min 0x7FFF p.n) + flag 31 (decide (8 ≤ p.n)))

def viewField (s : State) (f : Field) (n o : Nat) (a : Nat) : Word :=
  let w := s.reg a
  if n = 0 then (if o = 0x044 then viewRemapSts s f else w)
  else if 3 ≤ n ∧ n ≤ 200 then
    if o = 0x044 then viewArb s (pageBase a)
    else if o = 0x084 ∧ 195 ≤ n ∧ n ≤ 198 then
      viewSeam s f (if n = 195 then .xp else if n = 196 then .xm else if n = 197 then .yp else .ym)
    else w
  else if n = 242 ∧ o = 0x044 then setFld w 0 (fieldPhase s f)
  else if n = 242 ∧ o = 0x054 then viewPest s f false
  else w

/-- Registers of a Yurno port that show its queues. -/
def viewYurno (s : State) (y : Port) (n o : Nat) (a : Nat) : Word :=
  let u := s.port y
  if n = 3 ∧ o = 0x044 then BitVec.ofNat 32 (at0 0 11 u.ops.length + at0 11 13 u.heldAtomics.length)
  else if n = 5 ∧ o = 0x044 then BitVec.ofNat 32 (at0 0 3 u.colRun.length + at0 3 5 u.colQ.length)
  else if (n = 3 ∨ n = 5) ∧ o = 0x040 then 0
  else s.reg a

def viewHub (s : State) (n o : Nat) (a : Nat) : Word :=
  if 1 ≤ n ∧ n ≤ 4 ∧ o = 0x044 then viewArb s (pageBase a)
  else if n = 5 ∧ o = 0x040 then BitVec.ofNat 32 (min s.hub.sf.length 0x1FFFFFF)
  else s.reg a

/-! ## Partition pages -/

/-- The weir that page 6 selects (R217). -/
def selWeir (s : State) (p : Part) : Weir :=
  match weirId s p (fld (s.reg (partPage p 6 + 0x040)) 0 10).toNat with
  | some id => s.weir id
  | none => Weir.reset

/-- Bytes of the queue memory as a word. -/
def sqWord (s : State) (p : Part) (n o : Nat) : Word :=
  BitVec.ofNat 32 (Mem.readLe (s.prt p).sqMem ((n - 128) * 4096 + o) 4)

def viewPart (s : State) (p : Part) (n o : Nat) (a : Nat) : Word :=
  let w := s.reg a
  if n = 0 then
    if o = 0x044 then 0
    else if o = 0x058 then BitVec.ofNat 32 (if pstate s p = 0 then 0 else partN s p) else w
  else if n = 6 then
    let x := selWeir s p
    if o = 0x044 then x.count
    else if o = 0x048 then x.epoch.setWidth 32
    else if o = 0x04C then BitVec.ofNat 32 (at0 0 13 x.waiters.length + flag 13 x.pend) else w
  else if h : 8 ≤ n ∧ n ≤ 71 then
    let q : Fin 64 := ⟨n - 8, by omega⟩
    if o = 0x054 then setBit w 7 (!((s.prt p).qp q).held.isEmpty && cqFull s p q)
    else if o = 0x04C ∨ 0x058 ≤ o then 0 else w
  else if 128 ≤ n ∧ n < 192 then sqWord s p n o
  else w

/-! ## Governor and service pages -/

/-- A log entry as its 32 bytes (Table 15.7). -/
def logBytes (e : LogEnt) : Bytes :=
  toLe 8 e.time ++ toLe 4 e.seq.toNat ++ [e.cls, e.code] ++ toLe 2 e.unit.toNat ++ toLe 8 e.page.toNat ++ toLe 8 e.data.toNat

/-- LOG_DATA[w] of the selected entry. -/
def viewLog (s : State) (w : Nat) : Word :=
  match logAt s (fld (s.reg (govPage 6 + 0x040)) 0 12) with
  | some e => BitVec.ofNat 32 (leNat (((logBytes e).drop (4 * w)).take 4))
  | none => 0

/-- Module geometry ID (R315). -/
def moduleGeom (s : State) : Word := geomCrc ((List.finRange 4224).map fun t => (t.val, t)) (unavailable s)

/-- TWIN entries resyncing. -/
def resyncPend (s : State) : Nat := (s.cores.map fun e => e.2.mem.resync.length).sum

def viewGov (s : State) (n o : Nat) (a : Nat) : Word :=
  let w := s.reg a
  if n = 0 then (if o = 0x058 then 0 else w)
  else if n = 4 then (if o = 0x058 then moduleGeom s else w)
  else if n = 5 then
    if o = 0x040 then BitVec.ofNat 32 (s.svc.unav / 1000000)
    else if o = 0x04C then BitVec.ofNat 32 (min 0xFFFF (resyncPend s)) else w
  else if n = 6 then
    if o = 0x044 then s.svc.logHead.setWidth 32
    else if 0x048 ≤ o ∧ o < 0x068 then viewLog s ((o - 0x048) / 4) else w
  else if n = 7 then
    if o = 0x040 then 0 else if o = 0x044 then setBit w 3 s.svc.pins.sealed else w
  else if n = 9 then BitVec.ofNat 32 (Mem.readLe s.svc.mbxReq o 4)
  else if n = 10 then BitVec.ofNat 32 (Mem.readLe s.svc.mbxRsp o 4)
  else w

/-! ## A read -/

/-- BLK_STS: enabled and frozen follow BLK_CTL; a soft reset is complete at once (log 10). -/
def viewBlk (s : State) (page : Nat) : Word :=
  setBit (setBit (s.reg (page + 0x00C)) 0 (s.rbit (page + 0x008) 0)) 1 (portFrozen s page)

/-- What the register word at a reads as. -/
def regView (s : State) (a : Nat) : Word :=
  let o := a % 0x1000
  if o = 0x00C ∧ !bufferPage a then viewBlk s (pageBase a)
  else match pageOf a with
    | .tile t n => viewTile s t n o a
    | .field f n => viewField s f n o a
    | .yurno y n => viewYurno s y n o a
    | .hub n => viewHub s n o a
    | .part p n => viewPart s p n o a
    | .gov n => viewGov s n o a
    | .none => 0

/-- The monitored point whose first word lies at an address. -/
def railOf (a : Nat) : Option RailPoint :=
  let o := a % 0x1000
  match pageOf a with
  | .field f n =>
    if h : n = 240 ∧ 0x100 ≤ o ∧ o % 16 = 0 ∧ (o - 0x100) / 16 < 102 then some (.field f ⟨(o - 0x100) / 16, by omega⟩)
    else if h : n = 241 ∧ 0x040 ≤ o ∧ o % 16 = 0 ∧ (o - 0x040) / 16 < 192 then
      some (.field f ⟨102 + (o - 0x040) / 16, by omega⟩)
    else none
  | .gov n =>
    if h : n = 3 ∧ 0x100 ≤ o ∧ o % 16 = 0 ∧ (o - 0x100) / 16 < 52 then some (.module ⟨(o - 0x100) / 16, by omega⟩)
    else none
  | _ => none

/-- The bits that a read of a register clears. -/
def rcMask (a : Nat) : Word := match rowOf a with | some r => BitVec.ofNat 32 r.rc | none => 0

/-- A register answers: its value, and its RC bits cleared. -/
def readWord (s : State) (a : Nat) : Word × State := (regView s a, s.modReg a (· &&& ~~~rcMask a))

/-- A read that does more than clear its own word. -/
def readSpecial (s : State) (m : Master) (a : Nat) : Option (Word × State) :=
  match pageOf a with
  | .gov 0 =>
    if a % 0x1000 = 0x060 then some (energyLo s m) else if a % 0x1000 = 0x064 then some (energyHi s m) else none
  | .tile t 1 => if a % 0x1000 = 0x060 then some (readWord (dbgCount s t) a) else none
  | .field f n =>
    if n = 242 ∧ a % 0x1000 = 0x054 then
      let (k, s1) := s.fresh
      some (viewPest s f (Config.freeBit k), s1)
    else (railOf a).map (railReadOp s)
  | _ => (railOf a).map (railReadOp s)

/-- A read of a register by a master. A reserved page answers 0 (R33, R189). -/
def regRead (s : State) (m : Master) (a : Nat) : Word × State :=
  match readSpecial s m a with
  | some r => r
  | none => readWord s a

end Sys2Proof.Machine
end

