-- ==== Sys2Proof/Machine/Bus.lean ====
section
/-!
DEFINITION. A write of any register by any master (Table 0.5, R257, R258, R259): each register whose write does something
goes to the operation that does it, every other one takes its RW bits and clears its W1C bits.
-/

namespace Sys2Proof.Machine

/-- The state after a meaning that never stops. -/
def after (r : Res) (s : State) : State := match r with | .next s1 => s1 | _ => s

/-- A register whose write only sets RW bits and clears W1C bits; a reserved offset takes nothing. -/
def plainWrite (s : State) (a : Nat) (v : Word) : State :=
  match rowOf a with
  | some r =>
    let rw := BitVec.ofNat 32 r.rw
    s.modReg a fun w => ((w &&& ~~~rw) ||| (v &&& rw)) &&& ~~~(v &&& BitVec.ofNat 32 r.w1c)
  | none => s

/-- The service processor alone writes a register (R277, R313). -/
def svpOnly (s : State) (m : Master) (a : Nat) (v : Word) (k : State → State) : State :=
  if m = .svp then k s else ownReject s m a v.toNat

/-! ## The header (R256) -/

/-- EVT_VEC: a partition-local master may not name a physical function (R253). -/
def evtVecOp (s : State) (m : Master) (page : Nat) (v : Word) : State :=
  let near := match m with | .vf _ _ | .tile _ => true | _ => false
  if near && bit v 13 then ownReject s m (page + 0x018) v.toNat
  else s.setReg (page + 0x018) (v &&& 0x3FFF)

def headerWrite (s : State) (m : Master) (page o : Nat) (v : Word) : State :=
  let own := owned s m (page + o) v.toNat
  if o = 0x008 then own fun s => blkCtlOp s m page v
  else if o = 0x010 then own fun s => evtStsOp s page v
  else if o = 0x014 then own fun s => evtEnOp s page v
  else if o = 0x018 then own fun s => evtVecOp s m page v
  else if o = 0x01C then own fun s => evtInjOp s page v
  else if o = 0x028 then ownerOp s m page v
  else if o = 0x02C then lockOp s m page v
  else s

/-! ## Tile pages -/

/-- SEQ_CTL: run and halt_req (R40). A 1 to run starts a sequencer that is halted, though the bit reads 1 already (HALT
leaves it set); a 0 only clears the bit. -/
def seqCtlWrite (s : State) (m : Master) (t : Tile) (v : Word) : State :=
  let s1 := if bit v 1 then after (execSeqHaltReq m t s) s else s
  if bit v 0 && (!s.rbit (seqCtl t) 0 || halted s t) then after (execSeqRun m t s1) s1
  else if !bit v 0 then owned s1 m (seqCtl t) v.toNat fun s => s.setRbit (seqCtl t) 0 false
  else s1

/-- NBR_CTL: links are enabled only while the tile or the neighbour is fenced (R34). -/
def nbrCtlWrite (s : State) (t : Tile) (v : Word) : State :=
  let en := ((List.range 4).map fun n => flag n (bit v n && linkFenced s t n)).sum
  let s1 := s.setReg (nbr t 0x040) (BitVec.ofNat 32 en ||| (v &&& 0xF0))
  if bit v 8 then nbrGo s1 t else s1

/-- DMA_CTL: where a write sets several bits the highest acts, abort over clear over resume (R135). -/
def dmaCtlWrite (s : State) (m : Master) (t : Tile) (ch : Chan) (v : Word) : State :=
  if bit v 2 then after (execDmaAbort (.reg m) t ch s) s
  else if bit v 1 then after (execDmaClear (.reg m) t ch s) s
  else if bit v 0 then after (execDmaResume (.reg m) t ch s) s
  else s

/-- Page 1 (R342). -/
def debugWrite (s : State) (m : Master) (t : Tile) (o a : Nat) (v : Word) : State :=
  dbgOwned s m t v.toNat fun s =>
    if o = 0x040 then dbgCtlOp s t v else if o = 0x05C then dbgDataOp s t v else plainWrite s a v

/-- Page 9: slots, scrub, twins. -/
def wellPageWrite (s : State) (m : Master) (t : Tile) (o a : Nat) (v : Word) : State :=
  if h : 0x040 ≤ o ∧ o < 0x060 then after (execVslotWrite m t ⟨(o - 0x040) / 4, by omega⟩ v s) s
  else if o = 0x074 then after (execScrubStart m t v s) s
  else if h : 0x090 ≤ o ∧ o < 0x110 then
    after (execTwinWrite m t ⟨(o - 0x090) / 16, by omega⟩ ⟨(o - 0x090) / 4 % 4, by omega⟩ v s) s
  else owned s m a v.toNat fun s => plainWrite s a v

def tileWrite (s : State) (m : Master) (t : Tile) (n o a : Nat) (v : Word) : State :=
  let plain := owned s m a v.toNat fun s => plainWrite s a v
  if n = 0 ∧ o = 0x040 then seqCtlWrite s m t v
  else if n = 1 then debugWrite s m t o a v
  else if n = 2 ∧ (o = 0x048 ∨ o = 0x04C) then after (execArrSpareWrite m t (o == 0x04C) v s) s
  else if n = 3 ∧ o = 0x040 then after (execFmodeWrite m t v s) s
  else if n = 3 ∧ o = 0x048 then after (execPlbCtlWrite m t v s) s
  else if h : 5 ≤ n ∧ n ≤ 8 then (if o = 0x040 then dmaCtlWrite s m t ⟨n - 5, by omega⟩ v else plain)
  else if n = 9 then wellPageWrite s m t o a v
  else if n = 12 then svpOnly s m a v fun s => if o = 0x040 then nbrCtlWrite s t v else plainWrite s a v
  else plain

/-! ## Field, port and hub pages -/

/-- The arbiter page with number n of a field. -/
def fieldPort0 (f : Field) (n : Nat) : Option PortPage :=
  if h : 3 ≤ n ∧ n ≤ 98 then some (.tilePort f ⟨n - 3, by omega⟩)
  else if h : 99 ≤ n ∧ n ≤ 194 then some (.wellPort f ⟨n - 99, by omega⟩)
  else if n = 195 then some (.seam f .xp)
  else if n = 196 then some (.seam f .xm)
  else if n = 197 then some (.seam f .yp)
  else if n = 198 then some (.seam f .ym)
  else if n = 199 then some (.spine f)
  else if n = 200 then some (.attach f)
  else none

def fieldWrite (s : State) (m : Master) (f : Field) (n o a : Nat) (v : Word) : State :=
  let plain := owned s m a v.toNat fun s => plainWrite s a v
  if n = 0 ∧ o = 0x040 then after (execFldRemapWrite m f v s) s
  else if n = 0 ∧ o = 0x048 then after (execFldWmapWrite m f v s) s
  else if h : n = 1 ∧ 0x040 ≤ o ∧ o < 0x1C0 then after (execLtrimWrite m f ⟨(o - 0x040) / 4, by omega⟩ v s) s
  else if n = 240 ∧ o = 0x060 then svpOnly s m a v fun s => plainWrite s a v
  else match fieldPort0 f n with
    | some pp =>
      if o = 0x040 then after (execArbCtlWrite m pp v s) s
      else match pp with
        | .seam f ad => if o = 0x080 then after (execSeamCtlWrite m f ad v s) s else plain
        | _ => plain
    | none => plain

def yurnoWrite (s : State) (m : Master) (y : Port) (n o a : Nat) (v : Word) : State :=
  if n = 0 ∧ o = 0x040 then after (execYpCtlWrite m y v s) s
  else if n = 0 ∧ o = 0x048 then after (execYpAltWrite m y v s) s
  else if n = 3 ∧ o = 0x040 then (match m with | .tile t => after (execYopDoorbell t y v s) s | _ => owned s m a v.toNat id)
  else if n = 5 ∧ o = 0x040 then (match m with | .tile t => after (execYcolDoorbell t y v s) s | _ => owned s m a v.toNat id)
  else owned s m a v.toNat fun s => plainWrite s a v

/-- HUB_CTL.bi_timeout is 1 … 255; 0 is not taken. -/
def hubWrite (s : State) (m : Master) (n o a : Nat) (v : Word) : State :=
  if h : 1 ≤ n ∧ n ≤ 4 ∧ o = 0x040 then after (execArbCtlWrite m (.hub ⟨n - 1, by omega⟩) v s) s
  else owned s m a v.toNat fun s => if n = 0 ∧ o = 0x040 ∧ fld v 0 8 = 0 then s else plainWrite s a v

/-! ## Partition pages -/

/-- MAP_CTL: go starts the command that the MAP registers hold. -/
def mapCtlWrite (s : State) (p : Part) (v : Word) : State :=
  let s1 := plainWrite s (partPage p 1 + 0x058) v
  if bit v 31 then let (op, c) := mapRegs s1 p; mapStart s1 p op c none else s1

/-- Page 8 + q: the queue pair, and the posts of tiles. -/
def qpWrite (s : State) (m : Master) (p : Part) (q : Fin 64) (o a : Nat) (v : Word) : State :=
  owned s m a v.toNat fun s =>
    if o = 0x040 then qpCfgOp s p q v
    else if o = 0x044 then s.setReg a (v &&& 0xFFFFFFC0)
    else if o = 0x04C then doorbellOp s p q (fld v 0 6)
    else if o = 0x050 then cqHeadOp s p q v
    else if o = 0x058 then s.setReg a v
    else match m with
      | .tile t => if o = 0x05C then postOp s p q t v else if o = 0x060 then postIdOp s p q t v else plainWrite s a v
      | _ => plainWrite s a v

/-- A word of the queue memory. -/
def sqWrite (s : State) (p : Part) (n o : Nat) (v : Word) : State :=
  s.modPart p fun x => { x with sqMem := Mem.writeLe x.sqMem ((n - 128) * 4096 + o) 4 v.toNat }

def partWrite (s : State) (m : Master) (p : Part) (n o a : Nat) (v : Word) : State :=
  let plain := owned s m a v.toNat fun s => plainWrite s a v
  if n = 0 then
    if o = 0x040 then after (execPartCfgWrite m p v s) s
    else if o = 0x044 then partCmdWrite s m p (fld v 0 4).toNat else plain
  else if n = 1 then
    if o = 0x040 ∨ o = 0x044 then after (execTableRegionWrite m p (o == 0x044) v s) s
    else if o = 0x058 then owned s m a v.toNat fun s => mapCtlWrite s p v else plain
  else if 2 ≤ n ∧ n ≤ 5 then
    if 0x040 ≤ o ∧ o < 0x840 then
      after (execWeirMapWrite m p (BitVec.ofNat 10 ((n - 2) * 256 + (o - 0x040) / 8)) (o % 8 == 4) v s) s
    else plain
  else if h : 8 ≤ n ∧ n ≤ 71 then qpWrite s m p ⟨n - 8, by omega⟩ o a v
  else if 128 ≤ n ∧ n < 192 then owned s m a v.toNat fun s => sqWrite s p n o v
  else plain

/-! ## Governor and service pages -/

/-- One word of a schedule entry; the entry it makes is judged as a whole (R297). -/
def schedWord (s : State) (m : Master) (e : Fin 32) (w : Nat) (v : Word) : State :=
  let r := fun k => if k = w then v else s.reg (sched e.val k)
  let w2 := r 2
  after (execSchedWrite m e
    { time := (r 0).setWidth 64 ||| ((r 1).setWidth 64 <<< 32), up := fld w2 0 8, dn := fld w2 8 8, ceil := fld w2 16 16
      valid := bit (r 3) 0 } s) s

/-- GOV_STOP: whether every sensor reads at most 80 °C is the sensors' to say (log 8). -/
def govStopWrite (s : State) (m : Master) (v : Word) : State :=
  let s1 := if bit v 0 then stopWrite s m else s
  if bit v 1 then let (k, s2) := s1.fresh; govRunWrite s2 m (Config.freeNat k) else s1

/-- MBX_CTL (R347). -/
def mbxCtlWrite (s : State) (m : Master) (v : Word) : State :=
  owned s m (mbxPage + 0x040) v.toNat fun s =>
    let s1 := if bit v 0 then mbxGo s (match m with | .pf h => some h | _ => none) else s
    if bit v 1 then mbxAbort s1 else s1

/-- The request buffer: the service processor and the physical functions write it, and while a request is in progress only
the port that submitted it (R347). -/
def mbxBufWrite (s : State) (m : Master) (o a : Nat) (v : Word) : State :=
  let ok := match m with | .svp | .pf _ => true | _ => false
  let same := match m with | .pf h => (fld (s.reg mbxSts) 1 2).toNat == h.val | _ => false
  if !ok then ownReject s m a v.toNat
  else if mbxBusy s && !same then logEv (setEvt s mbxPage 2) 4 347 0 a (some m) v.toNat
  else s.modSvc fun x => { x with mbxReq := Mem.writeLe x.mbxReq o 4 v.toNat }

/-- PRES_CMD.code; a firmware root that a write cannot name is free (log 8). -/
def presWrite (s : State) (m : Master) (v : Word) : State :=
  let (k, s1) := s.fresh
  stageOp s1 m (fld v 0 3).toNat (Config.freeHash k)

def govWrite (s : State) (m : Master) (n o a : Nat) (v : Word) : State :=
  let plain := owned s m a v.toNat fun s => plainWrite s a v
  if n = 0 then
    if o = 0x040 then hcapOp s m v
    else if o = 0x044 then scapOp s m v
    else if o = 0x04C then owned s m a v.toNat fun s => tlimOp s v
    else if o = 0x050 then fceilOp s m v
    else if o = 0x058 then govStopWrite s m v
    else if o = 0x074 then owned s m a v.toNat fun s => kwOp s v
    else plain
  else if h : n = 2 ∧ 0x080 ≤ o ∧ o < 0x280 then schedWord s m ⟨(o - 0x080) / 16, by omega⟩ ((o - 0x080) / 4 % 4) v
  else if n = 4 ∧ o = 0x040 then (if bit v 0 then warmOp s m else s)
  else if n = 7 ∧ o = 0x040 then presWrite s m v
  else if n = 8 ∧ o = 0x040 then mbxCtlWrite s m v
  else plain

/-! ## Any register -/

/-- A write to a block-specific register of a page that exists. -/
def blockWrite (s : State) (m : Master) (a : Nat) (v : Word) : State :=
  let o := a % 0x1000
  match pageOf a with
  | .tile t n => tileWrite s m t n o a v
  | .field f n => fieldWrite s m f n o a v
  | .yurno y n => yurnoWrite s m y n o a v
  | .hub n => hubWrite s m n o a v
  | .part p n => partWrite s m p n o a v
  | .gov n => govWrite s m n o a v
  | .none => s

/-- A write of the 32-bit register at a by a master: pages without a header, pages that exist, and reserved pages, whose
writes are dropped and counted (R33, R189). -/
def regWrite (s : State) (m : Master) (a : Nat) (v : Word) : State :=
  let page := pageBase a
  if bufferPage page then
    match pageOf page with
    | .gov 9 => mbxBufWrite s m (a % 0x1000) a v
    | .gov _ => s
    | _ => blockWrite s m a v
  else if !pageExists page then unmapped s a m
  else if a % 0x1000 < 0x040 then headerWrite s m page (a % 0x1000) v
  else blockWrite s m a v

/-- What becomes of a register access to a device address that is no register: one that no row of Table 1.5 maps, or a
reserve well that the master may not reach, is unmapped (R32); at any other memory there is no register (log 86). -/
def noRegister (s : State) (a : Nat) (m : Master) : State :=
  match placeOf a with
  | .nowhere => unmapped s a m
  | .reserve _ _ _ => if m = .svp then s else unmapped s a m
  | _ => s

/-- A master writes a device address as a register. -/
def execRegisterWrite (m : Master) (addr : BitVec 48) (v : BitVec 32) (s : State) : Res :=
  let a := addr.toNat / 4 * 4
  .next <| match pageOf a with
    | .none => noRegister s a m
    | _ => regWrite s m a v

/-- READ_TO_CLEAR: a read of any register; the reader gets the value, and RC bits clear. -/
def execReadToClear (m : Master) (addr : BitVec 48) (s : State) : Res :=
  let a := addr.toNat / 4 * 4
  .next <| match pageOf a with
    | .none => noRegister s a m
    | _ => let (v, s1) := regRead s m a; s1.emit (.value m v)

end Sys2Proof.Machine
end

