-- ==== Sys2Proof/Machine/Window.lean ====
section
/-!
DEFINITION. Host accesses: the base address registers (R246), the host window and its limits (R156, R247, R248), what
waits for a restart (R303), and the coherence of host-cached lines (R254, R255).
-/

namespace Sys2Proof.Machine

def hostUp (s : State) (h : HostPort) : Bool := s.hub.linkUp.getLsbD h.val

/-! ## Where an access goes (R246, R309) -/

/-- The end of a host access. -/
inductive HostEnd where
  | reg (m : Master) (a : Nat)
  | cist (t : Tile) (o : Nat)
  | win (p : Part) (off : Nat)
  | none
  deriving DecidableEq, Repr

/-- Governor pages that answer before READY (R309). -/
def earlyPage (a : Nat) : Bool :=
  match pageOf a with
  | .gov n => decide (n ≤ 4 ∨ (8 ≤ n ∧ n ≤ 10))
  | _ => false

/-- Bytes of a partition's host window; a FREE partition has none (R247). -/
def windowSize (s : State) (p : Part) : Nat := if pstate s p = 0 then 0 else partN s p * wellSize

/-- A range of the window of p through the decoder of a port. -/
def windowIn (s : State) (h : HostPort) (p : Part) (off n : Nat) : Bool :=
  decide (0 < n ∧ off + n ≤ windowSize s p) && s.hub.decoders.contains (h, p, windowSize s p)

/-- Whole words of a register page. -/
def wholeWords (off n : Nat) : Bool := decide (off % 4 = 0 ∧ n % 4 = 0 ∧ 0 < n)

/-- Resolve an access of n bytes. -/
def hostEnd (s : State) (h : HostPort) (x : HostAddr) (n : Nat) : HostEnd :=
  match x with
  | .pfBar0 off =>
    let i := off.toNat / 0x20000000
    let a := 0x0F0000000000 + i * 0x1000000000 + off.toNat % 0x20000000
    if 5 < i ∨ pageOf a = .none ∨ !wholeWords a n ∨ (!isReady s ∧ !earlyPage a) then .none else .reg (.pf h) a
  | .vfBar0 p off =>
    if !isReady s ∨ pstate s p = 0 ∨ 0x100000 < off.toNat + n ∨ !wholeWords off.toNat n then .none
    else .reg (.vf h p) (partPage p 0 + off.toNat)
  | .vfBar2 p off =>
    if !isReady s ∨ pstate s p = 0 ∨ !wholeWords off.toNat n then .none
    else match tileOfLocal s p (off.toNat / 0x10000) with
      | some t => .reg (.vf h p) (tilePage t 0 + off.toNat % 0x10000)
      | none => .none
  | .vfBar4 p off =>
    if !isReady s ∨ pstate s p = 0 ∨ n = 0 ∨ cistSize < off.toNat % 0x400000 + n then .none
    else match tileOfLocal s p (off.toNat / 0x400000) with
      | some t => .cist t (off.toNat % 0x400000)
      | none => .none
  | .window p off => if isReady s && windowIn s h p off.toNat n then .win p off.toNat else .none

/-- Offset of a host address, for the log. -/
def hostOff : HostAddr → Nat
  | .pfBar0 off | .vfBar0 _ off | .vfBar2 _ off | .vfBar4 _ off | .window _ off => off.toNat

/-- The function a host address belongs to, as a master. -/
def hostMaster (h : HostPort) : HostAddr → Master
  | .vfBar0 p _ | .vfBar2 p _ | .vfBar4 p _ => .vf h p
  | _ => .pf h

/-! ## Gates -/

/-- The outputs on the way of a host access and its response (R173, R183): the port of the target, reached from the host
spine port, the spine port on the way back, and the hub's own port. -/
def hostOuts (s : State) (h : HostPort) (x : Target) : List (Nat × Nat) :=
  [(targetPort s x, 220), (fieldPage x.field 199, targetNo s x), (hubPage (1 + h.val), x.field.val)]

/-- An access of host port h to a tile's cistern or well: frozen ports hold it (R188), and it waits its turn (R185). -/
def hostGate (s : State) (h : HostPort) (x : Target) : Gate :=
  match fieldGate s x with
  | .go => if (hostOuts s h x).all fun o => arbClear s o.1 (.host h) then .go else .wait
  | g => g

/-- Ask for the outputs of an access that the ports hold; of the accesses of a host port one asks at a time. -/
def hostAsk (s : State) (h : HostPort) (x : Target) : State :=
  if fieldGate s x = .go ∧ ((s.arbs.all fun e => (ownReq e.2 (.host h)).isNone)
      || (hostOuts s h x).any fun o => (ownReq (s.arb o.1) (.host h)).isSome) then (passAll s (.host h) 4 (hostOuts s h x)).2 else s

/-- The outputs grant the transfer; a well port takes note of it (R176). A lost granule's read turns to its twin (R147). -/
def hostGrant (s : State) (h : HostPort) (x : Target) (wr : Bool) : State :=
  let retry := match x with
    | .well v o => if wr then [] else retryLegs s v o
    | _ => []
  let s1 := retry.foldl (fun s l => grantOuts s (.host h) l.cls (outputsOf s l.field l.no l.dest)) (grantOuts s (.host h) 4 (hostOuts s h x))
  atWellPort s1 4 x wr

/-- Several gates met by one access. -/
def gates : List Gate → Gate
  | [] => .go
  | .go :: l => gates l
  | .wait :: l => if gates l = .err then .err else .wait
  | .err :: _ => .err

/-- Ask for the outputs of the first piece of an access that has to wait. -/
def askRuns (s : State) (h : HostPort) (runs : List (Tile × Nat × Nat)) : State :=
  match runs.find? fun r => hostGate s h (.well r.1 r.2.1) = .wait with
  | some r => hostAsk s h (.well r.1 r.2.1)
  | none => s

/-- Hold a host command until it may go on. -/
def holdHost (s : State) (i : Instr) : State := s.modHub fun u => { u with held := u.held ++ [i] }

/-- A refused read or write (R32). -/
def refuseRead (s : State) (h : HostPort) (x : HostAddr) : State :=
  (unmapped s (hostOff x) (hostMaster h x)).emit (.host h .unsupported)
def refuseWrite (s : State) (h : HostPort) (x : HostAddr) : State := unmapped s (hostOff x) (hostMaster h x)

/-! ## The window (R156, R248) -/

/-- The pieces of a window range, each in one line: its well, offset, and length. -/
def windowRuns (s : State) (p : Part) (off n : Nat) : List (Tile × Nat × Nat) :=
  if n = 0 then []
  else (List.range ((off + n - 1) / 64 - off / 64 + 1)).filterMap fun i =>
    let lo := max off ((off / 64 + i) * 64)
    let hi := min (off + n) ((off / 64 + i) * 64 + 64)
    (windowPlace s p lo).map fun x => (x.1, x.2, hi - lo)

/-- R248 refuses a piece. -/
def windowBars (s : State) (p : Part) (wr : Bool) (x : Tile × Nat × Nat) : Bool :=
  (s.rbit (partCfg p) 12 && inSaveArea x.2.1) || (wr && inTableRegion s p (homeDpa x.1 x.2.1))

/-! ## The snoop filter (R254, R255) -/

def sfFind (s : State) (p : Part) (line : Nat) : Option SfLine := s.hub.sf.find? fun e => e.part == p && e.line == line

/-- A back-invalidate for the line is outstanding. -/
def snooping (s : State) (p : Part) (line : Nat) : Bool := s.hub.snoops.any fun w => w.part == p && w.line == line

/-- The lines of the set of a line; the manual gives no index (log 8). -/
def sfSet (s : State) (p : Part) (line : Nat) : List SfLine :=
  let k := fun (q : Part) l => Config.sfSet q.val l % 1048576
  s.hub.sf.filter fun e => k e.part e.line == k p line

/-- Of a list of lines the one granted least recently. -/
def oldest : List SfLine → Option SfLine
  | [] => none
  | e :: l => match oldest l with
    | some g => if g.age < e.age then some g else some e
    | none => some e

/-- May port h have the line, owned or shared? Where others hold it they are snooped, and where its set is full the least
recently granted line of the set is evicted first; the request then waits. -/
def sfGate (s : State) (h : HostPort) (p : Part) (line : Nat) (own : Bool) : Bool × State :=
  if snooping s p line then (false, s)
  else match sfFind s p line with
    | some e =>
      let others := (holders e).filter (· != h)
      if own then
        if others.isEmpty then (true, s) else (false, s.each others fun s g => sendSnoop s p line true none g)
      else match e.owner with
        | some g => if g = h then (true, s) else (false, sendSnoop s p line false none g)
        | none => (true, s)
    | none =>
      let set := sfSet s p line
      if set.length < 16 then (true, s)
      else if set.any fun e => snooping s e.part e.line then (false, s)
      else match oldest set with
        | some v => (false, (s.count (hubPage 5 + 0x048) 1).each (holders v) fun s g => sendSnoop s v.part v.line true none g)
        | none => (true, s)

/-- Put a line of the filter; one that nobody holds is not tracked. -/
def sfPut (s : State) (e : SfLine) : State :=
  s.modHub fun u =>
    let rest := u.sf.filter fun x => !(x.part == e.part && x.line == e.line)
    { u with sf := if e.owner.isNone && e.sharers == 0 then rest else rest ++ [e] }

/-- Grant the line to h. -/
def sfGrant (s : State) (h : HostPort) (p : Part) (line : Nat) (own : Bool) : State :=
  let old := (sfFind s p line).getD { part := p, line := line, owner := none, sharers := 0, age := 0 }
  let e := if own then { old with owner := some h, sharers := 0 }
    else if old.owner = some h then old else { old with sharers := old.sharers ||| (1#4 <<< h.val) }
  (sfPut s { e with age := s.hub.sfAge }).modHub fun u => { u with sfAge := u.sfAge + 1 }

/-- Port h no longer holds the line, or with keep no longer owns it and shares it. -/
def sfLeave (s : State) (h : HostPort) (p : Part) (line : Nat) (keep : Bool) : State :=
  match sfFind s p line with
  | none => s
  | some e =>
    let mask := 1#4 <<< h.val
    sfPut s
      { e with
        owner := if e.owner = some h then none else e.owner
        sharers := if keep then e.sharers ||| mask else e.sharers &&& ~~~mask }

/-- Gate every line of a range, in order. -/
def sfGates (s : State) (h : HostPort) (p : Part) (own : Bool) : List Nat → Bool × State
  | [] => (true, s)
  | l :: r =>
    match sfGate s h p l own with
    | (true, s1) => sfGates s1 h p own r
    | (false, s1) => (false, s1)

def linesOf (off n : Nat) : List Nat := (List.range ((off + n - 1) / 64 - off / 64 + 1)).map (· + off / 64)

/-! ## Reads -/

/-- Read the pieces of a window range: none where one is uncorrectable (Table 6.2). -/
def windowRead (s : State) (h : HostPort) : List (Tile × Nat × Nat) → Option Bytes × State
  | [] => (some [], s)
  | (t, o, n) :: l =>
    let (d, s1) := portWellRead (hostGrant s h (.well t o) false) t o
    let (r, s2) := windowRead s1 h l
    (match d, r with
      | some d, some r => some (((lineBytes d).drop (o % 64)).take n ++ r)
      | _, _ => none, s2)

/-- The words of a register read, in order. -/
def readWords (s : State) (m : Master) (a : Nat) : Nat → Bytes × State
  | 0 => ([], s)
  | k + 1 =>
    let (v, s1) := regRead s m a
    let (r, s2) := readWords s1 m (a + 4) k
    (toLe 4 v.toNat ++ r, s2)

/-- A page of a tile whose field is stopped does not answer until restart (R303). -/
def pageHeld (s : State) (a : Nat) : Bool :=
  match pageOf a with
  | .tile t _ => !fieldRuns s (tileField t) && !fieldDark s (tileField t)
  | _ => false

/-- Complete a read with data, or with poison. -/
def readDone (s : State) (h : HostPort) (bs : Option Bytes) : State :=
  s.emit (.host h (match bs with | some bs => .data bs | none => .poison))

/-- A host read of n bytes; own asks for ownership of the lines of a window range. -/
def hostRead (s : State) (h : HostPort) (x : HostAddr) (n : Nat) (own : Bool) : State :=
  let again := Instr.hostMemoryRead h x n own
  if !hostUp s h then s
  else match hostEnd s h x n with
    | .none => refuseRead s h x
    | .reg m a =>
      if pageHeld s a then holdHost s again
      else let (bs, s1) := readWords s m a (n / 4); readDone s1 h (some bs)
    | .cist t o =>
      match hostGate s h (.cist t) with
      | .err => refuseRead s h x
      | .wait => holdHost (hostAsk s h (.cist t)) again
      | .go => let (bs, s1) := cistRead (hostGrant s h (.cist t) false) t mcUnsched o n; readDone s1 h bs
    | .win p off =>
      let runs := windowRuns s p off n
      if runs.any (windowBars s p false) then refuseRead s h x
      else match gates (runs.map fun r => hostGate s h (.well r.1 r.2.1)) with
        | .err => refuseRead s h x
        | .wait => holdHost (askRuns s h runs) again
        | .go =>
          match sfGates s h p own (linesOf off n) with
          | (false, s1) => holdHost s1 again
          | (true, s1) =>
            let (bs, s2) := windowRead (s1.each (linesOf off n) fun s l => sfGrant s h p l own) h runs
            readDone s2 h bs

/-! ## Writes -/

/-- Write the pieces of a window range, with the twins (R146). -/
def windowWrite (s : State) (h : HostPort) : List (Tile × Nat × Nat) → Bytes → State
  | [], _ => s
  | (t, o, n) :: l, bs =>
    let (d, m) := placeLe (o % 64) n (leNat (bs.take n))
    windowWrite (wellWrite2 (hostGrant s h (.well t o) true) t o d m (hubPage 0)) h l (bs.drop n)

/-- The words of a register write, in order. -/
def writeWords (s : State) (m : Master) (a : Nat) : Nat → Bytes → State
  | 0, _ => s
  | k + 1, bs => writeWords (regWrite s m a (BitVec.ofNat 32 (leNat (bs.take 4)))) m (a + 4) k (bs.drop 4)

/-- A host write; other ports' copies of a window range are invalidated first. -/
def hostWrite (s : State) (h : HostPort) (x : HostAddr) (bs : Bytes) : State :=
  let again := Instr.hostMemoryWrite h x bs
  let n := bs.length
  if !hostUp s h then s
  else match hostEnd s h x n with
    | .none => refuseWrite s h x
    | .reg m a => if pageHeld s a then holdHost s again else writeWords s m a (n / 4) bs
    | .cist t o =>
      match hostGate s h (.cist t) with
      | .err => refuseWrite s h x
      | .wait => holdHost (hostAsk s h (.cist t)) again
      | .go => cistWrite (hostGrant s h (.cist t) true) t mcUnsched o bs
    | .win p off =>
      let runs := windowRuns s p off n
      if runs.any (windowBars s p true) then refuseWrite s h x
      else match gates (runs.map fun r => hostGate s h (.well r.1 r.2.1)) with
        | .err => refuseWrite s h x
        | .wait => holdHost (askRuns s h runs) again
        | .go =>
          match sfGates s h p true ((linesOf off n).filter fun l => (sfFind s p l).isSome) with
          | (false, s1) => holdHost s1 again
          | (true, s1) => windowWrite s1 h runs bs

/-- A line of data comes from port h: written whole, and refused where R248 refuses it. -/
def lineWrite (s : State) (h : HostPort) (p : Part) (line : Nat) (d : Line) : State :=
  match windowPlace s p (line * 64) with
  | none => refuseWrite s h (.window p (BitVec.ofNat 48 (line * 64)))
  | some (t, o) =>
    if windowSize s p ≤ line * 64 ∨ windowBars s p true (t, o, 64) then refuseWrite s h (.window p (BitVec.ofNat 48 (line * 64)))
    else wellWrite2 (hostGrant s h (.well t o) true) t o d fullMask (hubPage 0)

/-- A back-invalidate to h is answered: an invalidated port holds the line no longer, and one asked for its data shares
it. -/
def answerSnoop (s : State) (h : HostPort) (p : Part) (line : Nat) : State :=
  match s.hub.snoops.find? fun w => w.part == p && w.line == line && w.port == h with
  | none => s
  | some w => sfLeave (s.modHub fun u => { u with snoops := u.snoops.erase w }) h p line (!w.inv)

/-- HOST_WRITEBACK (R255): it ends its port's ownership, and answers a back-invalidate to its port. -/
def writeback (s : State) (h : HostPort) (p : Part) (off : Nat) (d : Line) : State :=
  let line := off / 64
  if !hostUp s h then s
  else
    let f := (windowPlace s p (line * 64)).map fun x => hostGate s h (.well x.1 x.2)
    if f = some .wait then
      holdHost (match windowPlace s p (line * 64) with | some x => hostAsk s h (.well x.1 x.2) | none => s)
        (.hostWriteback h p (BitVec.ofNat 48 off) d)
    else
      let s1 := lineWrite s h p line d
      if s1.hub.snoops.any fun w => w.part == p && w.line == line && w.port == h then answerSnoop s1 h p line
      else sfLeave s1 h p line false

/-! ## Decoders (R247) -/

/-- A decoder commits only with the size of the window. -/
def execHdmDecoderCommit (h : HostPort) (p : Part) (size : BitVec 48) (s : State) : Res :=
  .next <|
    if !hostUp s h then s
    else
      let n := windowSize s p
      let ok := decide (n ≠ 0 ∧ size.toNat = n)
      let s1 := s.modHub fun u =>
        let rest := u.decoders.filter fun e => !(e.1 == h && e.2.1 == p)
        if ok then { u with decoders := rest ++ [(h, p, n)] } else u
      s1.emit (.host h (.decoder p ok))

end Sys2Proof.Machine
end

