-- ==== Sys2Proof/Machine/Access.lean ====
section
/-!
DEFINITION. LOAD and STORE in every space (R357), and the granules that leave the store buffer (R56, R146).
-/

namespace Sys2Proof.Machine

/-! ## The register space (R357) -/

/-- An address in the register ranges of Table 1.5. -/
def isRegAddr (a : Nat) : Bool := pageOf a != .none

/-- A register access that cannot be made: misaligned, or to no register; an address that no row of Table 1.5 maps is
counted (R32). -/
def regFault (s : State) (t : Tile) (a n : Nat) : Option State :=
  if a % n ≠ 0 then some (raiseTrap s t trapAccess a)
  else if isRegAddr a then none
  else some (raiseTrap (if placeOf a = .nowhere then unmapped s a (.tile t) else s) t trapAccess a)

/-- Body of LOAD in space 2: one word, or two in ascending address order. -/
def bodyLoadReg (t : Tile) (gr ga : GReg) (size : BitVec 2) (sx : Bool) (imm : BitVec 9) (s : State) : Ans :=
  let n := sizeBytes size
  let a := addr48 s t ga imm n
  if ldstIllegal false gr ga size sx 2 then .done (trapNow s t trapIllegal)
  else match regFault s t a n with
    | some s1 => .done s1
    | none =>
      let (bs, s1) := readWords s (.tile t) a (n / 4)
      loadDone s1 t gr n false (leNat bs)

/-- Body of STORE in space 2: it waits until every older store has drained, then its words reach the page. -/
def bodyStoreReg (t : Tile) (gr ga : GReg) (size : BitVec 2) (sx : Bool) (imm : BitVec 9) (s : State) : Ans :=
  let n := sizeBytes size
  let a := addr48 s t ga imm n
  if ldstIllegal true gr ga size sx 2 then .done (trapNow s t trapIllegal)
  else match regFault s t a n with
    | some s1 => .done s1
    | none =>
      if !sbEmpty s t then .wait (some 3) s
      else .done (writeWords (advance s t) (.tile t) a (n / 4) (toLe n (storeVal s t gr n)))

/-- LOAD. -/
def execLoad (t : Tile) (gr ga : GReg) (size : BitVec 2) (sx : Bool) (space : BitVec 2) (imm : BitVec 9) (s : State) : Res :=
  issueWait t s (.load t gr ga size sx space imm)
    (if space = 2 then bodyLoadReg t gr ga size sx imm else bodyLoad t gr ga size sx space imm)

/-- STORE. -/
def execStore (t : Tile) (gr ga : GReg) (size : BitVec 2) (sx : Bool) (space : BitVec 2) (imm : BitVec 9) (s : State) : Res :=
  issueWait t s (.store t gr ga size sx space imm)
    (if space = 2 then bodyStoreReg t gr ga size sx imm else bodyStore t gr ga size sx space imm)

/-- A register store that waited for the store buffer goes on; the cycles it has stood are counted first (R45). -/
def settleReg (s : State) (t : Tile) : State :=
  match (s.seq t).stall with
  | some (.store _ gr ga size sx space imm) =>
    if space = 2 ∧ canResume s t then
      let s1 := countStall s t
      match bodyStoreReg t gr ga size sx imm (s1.modSeq t fun q => { q with stall := none }) with
      | .done s2 => boundary s2 t
      | .wait _ _ => s1
    else s
  | _ => s

/-! ## The store buffer drains (R56) -/

/-- What may follow when the store buffer of a tile has changed. -/
def afterDrain (s : State) (t : Tile) : State := boundary (settleReg (settle s t) t) t

/-- A granule that cannot reach its well is left unwritten, counted on page 10, and logged. -/
def sbDrop (s : State) (t : Tile) (g : Nat) : State :=
  logEv (countUe (s.modMem t fun c => { c with sb := c.sb.filter (·.granule != g) }) (tilePage t 10) 1) 3 56 (tileUnit s t)
    (tilePage t 10) (some (.tile t)) (g * 64)

/-- One granule leaves: the tile's own in its slots, another well's through the crossbar port. -/
def drainGran (s : State) (t : Tile) (g : Nat) : State :=
  match placeOf (g * 64) with
  | .well w o =>
    let whole := match sbFind s t g with | some e => e.mask == fullMask | none => true
    match routeGate s (.sb t) t (.well w o) whole with
    | (.wait, s1) => s1
    | (.err, s1) => sbDrop s1 t g
    | (.go, s1) =>
      let s2 := if w = t ∧ !fostered s1 t then slotUse s1 t 5 else mergeWrite s1 (tileField w) (homeShaft s1 w) o
      sbWrite s2 t g
  | _ => s

/-- STORE_BUFFER_DRAIN: granule is the number of the 64-byte granule, the device address ÷ 64. -/
def execStoreBufferDrain (t : Tile) (granule : BitVec 48) (s : State) : Res :=
  .next <|
    let g := granule.toNat
    match sbFind s t g with
    | some e =>
      if fieldRuns s (tileField t) && !e.written && sbOldest s t g then afterDrain (drainGran s t g) t else s
    | none => s

/-- The way of a mirror from tile t to the well port of its twin t'. -/
def mirrorLeg (s : State) (t t' : Tile) (o : Nat) : Leg :=
  { cls := 2, field := tileField t, no := shaftPlace (tileShaft s t), dest := .well t' o }

/-- The mirror of a granule reaches its twin, as a remote write of the module class (R146): a stopped field and a refresh hold
it, a dark or absent field breaks the entry. -/
def mirrorGran (s : State) (t : Tile) (g : Nat) : State :=
  match placeOf (g * 64) with
  | .well w o =>
    match twinOf s w o with
    | some (_, t') =>
      let f := tileField t'
      if fieldDark s f then sbMirror s t g
      else if wellsHeld s f || bankRefreshes s t' o then s
      else
        match fabricGate s (.mirror t) t [mirrorLeg s t t' o] with
        | (.go, s1) => sbMirror s1 t g
        | (_, s1) => s1
    | none => s
  | _ => s

/-- TWIN_MIRROR. -/
def execTwinMirror (t : Tile) (granule : BitVec 48) (s : State) : Res :=
  .next <|
    let g := granule.toNat
    match sbFind s t g with
    | some e => if fieldRuns s (tileField t) && e.written && mirrorDue s e then afterDrain (mirrorGran s t g) t else s
    | none => s

end Sys2Proof.Machine
end

