-- ==== Sys2Proof/Machine/Restart.lean ====
section
/-!
DEFINITION. What goes on after a wait: requests held by the hub and at the ports (R188, R303), tiles that stood at an
instruction; and the commands that let them: host reads and writes, writebacks, back-invalidates (R254, R255), host
links (R245), the end of self-refresh (R23), the release of a port (R188).
-/

namespace Sys2Proof.Machine

/-! ## Held requests -/

/-- Try a held request once more. -/
def retryOne (s : State) : Instr → State
  | .hostMemoryRead h x n own => hostRead s h x n own
  | .hostMemoryWrite h x bs => hostWrite s h x bs
  | .hostWriteback h p off d => writeback s h p off.toNat d
  | .operationComplete y n st bs => after (execOperationComplete y n st bs s) s
  | .put y r bs => after (execPut y r bs s) s
  | .get y r => after (execGet y r s) s
  | .atomicAdd64 y r a => after (execAtomicAdd64 y r a s) s
  | .atomicSwap64 y r a => after (execAtomicSwap64 y r a s) s
  | .atomicCas64 y r a => after (execAtomicCas64 y r a s) s
  | .atomicFadd32 y r a => after (execAtomicFadd32 y r a s) s
  | .reduceSum y r f bs => after (execReduceSum y r f bs s) s
  | .reduceMax y r f bs => after (execReduceMax y r f bs s) s
  | .reduceMin y r f bs => after (execReduceMin y r f bs s) s
  | .collectiveMessage y c st rank chunk bs => after (execCollectiveMessage y c st rank chunk bs s) s
  | _ => s

/-- Every held request is tried again, oldest first; one that still waits is held again. -/
def retryHeld (s : State) : State := (s.modHub fun u => { u with held := [] }).each s.hub.held retryOne

/-- Tiles that stood at an instruction try it again, in every space. -/
def settleRest (s : State) : State :=
  (settleAll s).each s.cores fun s e => if h : e.1 < 4224 then settleReg s ⟨e.1, h⟩ else s

/-- Something that others wait for has happened. -/
def wake (s : State) : State := settleRest (retryHeld s)

/-! ## Host reads and writes (R248) -/

/-- n is the length in bytes. -/
def execHostMemoryRead (h : HostPort) (x : HostAddr) (n : Nat) (own : Bool) (s : State) : Res := .next (hostRead s h x n own)

def execHostMemoryWrite (h : HostPort) (x : HostAddr) (bs : Bytes) (s : State) : Res := .next (hostWrite s h x bs)

def execHostWriteback (h : HostPort) (p : Part) (off : BitVec 48) (d : Line) (s : State) : Res :=
  .next (wake (writeback s h p off.toNat d))

/-! ## Back-invalidates (R254, R255) -/

/-- A port answers an outstanding back-invalidate, with the line's data where it held it modified. -/
def execBisnpResponse (h : HostPort) (p : Part) (off : BitVec 48) (dirty : Option Line) (s : State) : Res :=
  .next <|
    let line := off.toNat / 64
    if hostUp s h && s.hub.snoops.any (fun w => w.part == p && w.line == line && w.port == h) then
      let s1 := match dirty with
        | some d => lineWrite s h p line d
        | none => s
      wake (answerSnoop s1 h p line)
    else s

/-- Mark a granule of a home well poisoned by the hub. -/
def hubPoison (s : State) (t : Tile) (o : Nat) : State :=
  let g := wellGran (homeShaft s t) o
  (poisonGran s g).modHub fun u => { u with biPoison := insertNat u.biPoison g }

/-- The line is written as poison, in its well and in its twin. -/
def poisonLine (s : State) (p : Part) (line : Nat) : State :=
  match windowPlace s p (line * 64) with
  | none => s
  | some (t, o) =>
    let s1 := hubPoison s t o
    match twinOf s1 t o with
    | some (_, t') => hubPoison s1 t' o
    | none => s1

/-- Outstanding back-invalidates for a line. -/
def snoopsOf (s : State) (p : Part) (line : Nat) : List Snoop := s.hub.snoops.filter fun w => w.part == p && w.line == line

/-- Limit of a response, HUB_CTL.bi_timeout in µs, as TSCLK ticks. -/
def biLimit (s : State) : Nat := (fld (s.reg (hubPage 0 + 0x040)) 0 8).toNat * 1000

/-- BI_TIMEOUT: the line is poisoned, the ports that did not answer hold it no longer, and the access goes on. -/
def execBiTimeout (p : Part) (off : BitVec 48) (s : State) : Res :=
  .next <|
    let line := off.toNat / 64
    let l := snoopsOf s p line
    if l.any fun w => decide (w.at0 + biLimit s ≤ s.tsclk) then
      let s1 := (poisonLine s p line).count (hubPage 5 + 0x04C) 1
      wake (s1.each l fun s w => sfLeave (s.modHub fun u => { u with snoops := u.snoops.erase w }) w.port p line false)
    else s

/-! ## Host links (R245) -/

/-- Port h holds line e no longer. -/
def sfDrop (h : HostPort) (e : SfLine) : SfLine :=
  { e with owner := if e.owner = some h then none else e.owner, sharers := e.sharers &&& ~~~(1#4 <<< h.val) }

/-- A link goes down: its lines are dropped, its back-invalidates complete as BIRspI, and its own requests end. -/
def linkDownOp (s : State) (h : HostPort) : State :=
  s.modHub fun u =>
    { u with
      linkUp := u.linkUp &&& ~~~(1#4 <<< h.val)
      sf := (u.sf.map (sfDrop h)).filter fun e => e.owner.isSome || e.sharers != 0
      snoops := u.snoops.filter fun w => w.port != h
      held := u.held.filter fun i => heldPort i != some h }

def execHostLinkDown (h : HostPort) (s : State) : Res := .next <| if hostUp s h then wake (linkDownOp s h) else s

/-- A link is up: the MSI-X messages and the completions held for the port are posted. -/
def linkUpOp (s : State) (h : HostPort) : State :=
  let s1 := s.modHub fun u => { u with linkUp := u.linkUp ||| (1#4 <<< h.val) }
  let mine := s1.hub.msixPend.filter fun x => x.2.1 == h
  let s2 := (s1.modHub fun u => { u with msixPend := u.msixPend.filter fun x => x.2.1 != h }).each mine fun s x =>
    s.emit (.host h (.msix x.1 x.2.2))
  s2.each (List.finRange 16) fun s p => s.each (List.finRange 64) fun s q => if qpPort s p q = h then cqFlush s p q else s

def execHostLinkUp (h : HostPort) (s : State) : Res := .next <| if hostUp s h then s else linkUpOp s h

/-! ## Self-refresh and freeze -/

/-- The wells of a field exit self-refresh once FCLK has run locked for 1 µs (R23). -/
def execSelfRefreshExit (f : Field) (s : State) : Res :=
  .next <|
    let x := s.fld f
    if x.selfRefresh && fieldRuns s f && decide (x.fclkSince + 1000 ≤ s.tsclk) then
      wake (s.modFld f fun x => { x with selfRefresh := false })
    else s

def execPortRelease (m : Master) (pp : PortPage) (s : State) : Res :=
  let pg := portPageAddr pp
  .next <| portReg s m pg 0x008 0 fun s => safetyWrite s m (pg + 0x008) 0 (portFrozen s pg) fun s => wake (releaseOp s pg)

end Sys2Proof.Machine
end

