-- ==== Sys2Proof/Machine/Clock.lean ====
section
/-!
DEFINITION. What the block does when no command waits: one nanosecond of TSCLK passes (log 2).
-/

namespace Sys2Proof.Machine

/-- Fortieths of an FCLK cycle in a nanosecond: FCLK is 600 MHz + 25 MHz × code (R21). -/
def fclkStep (s : State) : Nat := 24 + codeNow s

/-- FCLK of every running field goes on. -/
def clockFields (s : State) : State :=
  s.each (List.finRange 48) fun s f => if fieldRuns s f then s.modFld f fun x => { x with fclk := x.fclk + fclkStep s } else s

/-- Deferral in one bank over n cycles (R161): ENG_DEFER and EVT_STS.defer of the tile whose command waits. -/
def deferBank (s : State) (k n : Nat) (b : EngBank) : State :=
  match b.queue with
  | c :: _ =>
    if n ≠ 0 ∧ engAwake s c.tile ∧ bankExcluded s k then
      setEvt (s.count (tilePage c.tile 9 + 0x06C) n) (tilePage c.tile 9) 9
    else s
  | [] => s

/-- FCLK cycles of the field of a shaft between two states. -/
def cyclesOf (a b : State) (shaft : Nat) : Nat :=
  match shaftField shaft with
  | some f => b.cyc f - a.cyc f
  | none => 0

/-- Deferral since state a. -/
def deferAll (a s : State) : State := s.each s.banks fun s e => deferBank s e.1 (cyclesOf a s (e.1 / 32)) e.2

/-- Cycles that computes waited since state a. -/
def heldAll (a s : State) : State :=
  s.each s.cores fun s e =>
    if h : e.1 < 4224 then
      if e.2.arr.queue.isEmpty then s else countHeld s ⟨e.1, h⟩ (tcyc s ⟨e.1, h⟩ - tcyc a ⟨e.1, h⟩)
    else s

/-- Every arbiter with requests takes a decision where its clock has gone on. -/
def decideAll (a s : State) : State :=
  s.each s.arbs fun s e =>
    let pg := e.1 * 0x1000
    if arbCyc s pg = arbCyc a pg then s else arbDecide s pg (arbCyc s pg - arbCyc a pg)

/-- Ports send what they can. -/
def sendAll (s : State) : State := s.each (List.finRange 24) pumpOps

/-- Restores in progress go on. -/
def restoreAll (s : State) : State := s.each (List.finRange 16) restoreStep

/-- During an outage of the island a free bit tells whether the image that runs reports now (R335). -/
def islandTick (s : State) : State :=
  if s.svc.outageAt.isSome ∧ !s.svc.up then
    let (n, s1) := s.fresh
    if Config.freeBit n then s1.modSvc fun v => { v with up := true, outageAt := none } else s1
  else s

/-- Time passes. -/
def State.tick (s : State) : State :=
  let s1 := clockFields { s with tsclk := s.tsclk + 1 }
  islandTick (wake (restoreAll (sendAll (decideAll s (heldAll s (deferAll s s1))))))

end Sys2Proof.Machine
end

