-- ==== Sys2Proof/Machine/Alu.lean ====
section
/-!
DEFINITION. Integer arithmetic, logic, shifts and compares of the sequencer (R356): 32 bits, wrapping, no overflow trap.
-/

namespace Sys2Proof.Machine

/-- An integer instruction: its result into gd, and on to the next instruction. -/
def aluOp (t : Tile) (gd : GReg) (s : State) (f : State → Word) : Res :=
  issue t s fun s => advance (s.setG t gd (f s)) t

/-- A register form over both sources. -/
def aluRR (t : Tile) (gd ga gb : GReg) (s : State) (f : Word → Word → Word) : Res :=
  aluOp t gd s fun s => f (s.g t ga) (s.g t gb)

/-- One source and a constant. -/
def aluRI (t : Tile) (gd ga : GReg) (s : State) (f : Word → Word) : Res := aluOp t gd s fun s => f (s.g t ga)

/-- 1 or 0. -/
def flagW (b : Bool) : Word := if b then 1 else 0

/-- The high 32 bits of the unsigned product. -/
def mulHu (a b : Word) : Word := BitVec.ofNat 32 (a.toNat * b.toNat / 2 ^ 32)

/-- The high 32 bits of the signed product. -/
def mulHs (a b : Word) : Word := BitVec.ofInt 32 (a.toInt * b.toInt / 2 ^ 32)

def execAdd (t : Tile) (gd ga gb : GReg) (s : State) : Res := aluRR t gd ga gb s (· + ·)
def execSub (t : Tile) (gd ga gb : GReg) (s : State) : Res := aluRR t gd ga gb s (· - ·)
def execAnd (t : Tile) (gd ga gb : GReg) (s : State) : Res := aluRR t gd ga gb s (· &&& ·)
def execOr (t : Tile) (gd ga gb : GReg) (s : State) : Res := aluRR t gd ga gb s (· ||| ·)
def execXor (t : Tile) (gd ga gb : GReg) (s : State) : Res := aluRR t gd ga gb s (· ^^^ ·)
/-- A shift by a register uses its bits [4:0]. -/
def execSll (t : Tile) (gd ga gb : GReg) (s : State) : Res := aluRR t gd ga gb s fun a b => a <<< (b.toNat % 32)
def execSrl (t : Tile) (gd ga gb : GReg) (s : State) : Res := aluRR t gd ga gb s fun a b => a >>> (b.toNat % 32)
def execSra (t : Tile) (gd ga gb : GReg) (s : State) : Res := aluRR t gd ga gb s fun a b => a.sshiftRight (b.toNat % 32)
def execSlt (t : Tile) (gd ga gb : GReg) (s : State) : Res := aluRR t gd ga gb s fun a b => flagW (a.slt b)
def execSltu (t : Tile) (gd ga gb : GReg) (s : State) : Res := aluRR t gd ga gb s fun a b => flagW (a.ult b)
def execMul (t : Tile) (gd ga gb : GReg) (s : State) : Res := aluRR t gd ga gb s (· * ·)
def execMulhu (t : Tile) (gd ga gb : GReg) (s : State) : Res := aluRR t gd ga gb s mulHu
def execMulh (t : Tile) (gd ga gb : GReg) (s : State) : Res := aluRR t gd ga gb s mulHs
def execAddi (t : Tile) (gd ga : GReg) (imm : BitVec 16) (s : State) : Res := aluRI t gd ga s (· + immS imm)
def execAndi (t : Tile) (gd ga : GReg) (imm : BitVec 16) (s : State) : Res := aluRI t gd ga s (· &&& immZ imm)
def execOri (t : Tile) (gd ga : GReg) (imm : BitVec 16) (s : State) : Res := aluRI t gd ga s (· ||| immZ imm)
def execXori (t : Tile) (gd ga : GReg) (imm : BitVec 16) (s : State) : Res := aluRI t gd ga s (· ^^^ immZ imm)
def execSlti (t : Tile) (gd ga : GReg) (imm : BitVec 16) (s : State) : Res := aluRI t gd ga s fun a => flagW (a.slt (immS imm))
/-- gd ← imm × 2¹⁶. -/
def execLui (t : Tile) (gd : GReg) (imm : BitVec 16) (s : State) : Res := aluOp t gd s fun _ => immZ imm <<< 16
def execSlli (t : Tile) (gd ga : GReg) (amount : BitVec 5) (s : State) : Res := aluRI t gd ga s (· <<< amount.toNat)
def execSrli (t : Tile) (gd ga : GReg) (amount : BitVec 5) (s : State) : Res := aluRI t gd ga s (· >>> amount.toNat)
def execSrai (t : Tile) (gd ga : GReg) (amount : BitVec 5) (s : State) : Res := aluRI t gd ga s fun a => a.sshiftRight amount.toNat

end Sys2Proof.Machine
end

