-- ==== Sys2Proof/Machine/StepEnd.lean ====
section
/-!
DEFINITION. Step overrun (R54) and the end of an image after an unabsorbed fault (R55).
-/

namespace Sys2Proof.Machine

/-- STEP_CYC exceeds STEP_LIMIT. -/
def overrun (s : State) (t : Tile) : Bool := decide ((s.reg (stepLimit t)).toNat < stepKcyc s t)

/-- What the module does for the partition of an overrunning tile: it replays the step once, and ends the image on a
repeat, or where a tile may not be replayed (R53, R54). A partition that is held already replays after its repair. -/
def overrunPart (s : State) (p : Part) : State :=
  if pstate s p ≠ 2 then s
  else
    let n := match (s.prt p).image with
      | some r => stepNo s (r.body.tiles.headD 0)
      | none => 0
    if !replayOk s p then endImage s p 5 n
    else if (s.prt p).replayed then endImage s p 6 n
    else replay (s.modPart p fun x => { x with replayed := true }) p

/-- TRAP_STEP_OVERRUN: a tile that holds an unabsorbed fault halts and starts no replay (R55). -/
def execTrapStepOverrun (t : Tile) (s : State) : Res :=
  .next <|
    if !overrun s t || halted s t || !fieldRuns s (tileField t) || (s.seq t).fenced then s
    else if (s.seq t).unabsorbed.isSome then haltTile s t
    else
      let s1 := setEvt (trapNow s t trapStepOverrun) (tilePage t 0) 0
      match partOf s1 t with
      | some p => overrunPart s1 p
      | none => s1

/-- A tile of the image that holds an unabsorbed fault. -/
def faultTile (s : State) (p : Part) : Option Tile :=
  (s.prt p).image.bind fun r => r.body.tiles.find? fun t => (s.seq t).unabsorbed.isSome

/-- Every tile that holds an unabsorbed fault has halted, and every other tile has stopped at a WAIT or halted. -/
def readyToEnd (s : State) (p : Part) : Bool :=
  match (s.prt p).image with
  | some r => r.body.tiles.all fun t => if (s.seq t).unabsorbed.isSome then halted s t else tileStopped s p t
  | none => false

/-- IMAGE_END: the START completes with status 7 and the failing address, or 10 and the status of the operation. -/
def execImageEnd (p : Part) (s : State) : Res :=
  .next <|
    match (faultTile s p).bind fun t => (s.seq t).unabsorbed with
    | none => s
    | some u =>
      if pstate s p = 2 ∧ readyToEnd s p then
        match u with
        | .data a => endImage (lossBegins s p) p 7 a
        | .op st => endImage (lossBegins s p) p 10 st.toNat
      else s

end Sys2Proof.Machine
end

