-- ==== Sys2Proof/Machine/Dispatch.lean ====
section
/-!
DEFINITION. The dispatch of a command to its meaning: one arm for each row of the opcode table.
-/

namespace Sys2Proof.Machine

def exec (i : Instr) (s : State) : Host.Outcome State Fault Refusal :=
  match i with
  | .add t gd ga gb => Sys2Proof.Machine.execAdd t gd ga gb s
  | .sub t gd ga gb => Sys2Proof.Machine.execSub t gd ga gb s
  | .and t gd ga gb => Sys2Proof.Machine.execAnd t gd ga gb s
  | .or t gd ga gb => Sys2Proof.Machine.execOr t gd ga gb s
  | .xor t gd ga gb => Sys2Proof.Machine.execXor t gd ga gb s
  | .sll t gd ga gb => Sys2Proof.Machine.execSll t gd ga gb s
  | .srl t gd ga gb => Sys2Proof.Machine.execSrl t gd ga gb s
  | .sra t gd ga gb => Sys2Proof.Machine.execSra t gd ga gb s
  | .slt t gd ga gb => Sys2Proof.Machine.execSlt t gd ga gb s
  | .sltu t gd ga gb => Sys2Proof.Machine.execSltu t gd ga gb s
  | .mul t gd ga gb => Sys2Proof.Machine.execMul t gd ga gb s
  | .mulhu t gd ga gb => Sys2Proof.Machine.execMulhu t gd ga gb s
  | .mulh t gd ga gb => Sys2Proof.Machine.execMulh t gd ga gb s
  | .addi t gd ga imm => Sys2Proof.Machine.execAddi t gd ga imm s
  | .andi t gd ga imm => Sys2Proof.Machine.execAndi t gd ga imm s
  | .ori t gd ga imm => Sys2Proof.Machine.execOri t gd ga imm s
  | .xori t gd ga imm => Sys2Proof.Machine.execXori t gd ga imm s
  | .slti t gd ga imm => Sys2Proof.Machine.execSlti t gd ga imm s
  | .lui t gd imm => Sys2Proof.Machine.execLui t gd imm s
  | .slli t gd ga amount => Sys2Proof.Machine.execSlli t gd ga amount s
  | .srli t gd ga amount => Sys2Proof.Machine.execSrli t gd ga amount s
  | .srai t gd ga amount => Sys2Proof.Machine.execSrai t gd ga amount s
  | .undefinedInstruction t w => Sys2Proof.Machine.execUndefinedInstruction t w s
  | .load t gr ga size sx space imm => Sys2Proof.Machine.execLoad t gr ga size sx space imm s
  | .store t gr ga size sx space imm => Sys2Proof.Machine.execStore t gr ga size sx space imm s
  | .branchEq t ga gb off => Sys2Proof.Machine.execBranchEq t ga gb off s
  | .branchNe t ga gb off => Sys2Proof.Machine.execBranchNe t ga gb off s
  | .branchLt t ga gb off => Sys2Proof.Machine.execBranchLt t ga gb off s
  | .branchGe t ga gb off => Sys2Proof.Machine.execBranchGe t ga gb off s
  | .branchLtu t ga gb off => Sys2Proof.Machine.execBranchLtu t ga gb off s
  | .branchGeu t ga gb off => Sys2Proof.Machine.execBranchGeu t ga gb off s
  | .jr t ga gb => Sys2Proof.Machine.execJr t ga gb s
  | .jal t ga off => Sys2Proof.Machine.execJal t ga off s
  | .branchPlumbAlarm t clr off => Sys2Proof.Machine.execBranchPlumbAlarm t clr off s
  | .phase t id => Sys2Proof.Machine.execPhase t id s
  | .halt t => Sys2Proof.Machine.execHalt t s
  | .tret t => Sys2Proof.Machine.execTret t s
  | .ibufSwap t => Sys2Proof.Machine.execIbufSwap t s
  | .trapEntry t => Sys2Proof.Machine.execTrapEntry t s
  | .trapStepOverrun t => Sys2Proof.Machine.execTrapStepOverrun t s
  | .seqRun m t => Sys2Proof.Machine.execSeqRun m t s
  | .seqHaltReq m t => Sys2Proof.Machine.execSeqHaltReq m t s
  | .ibufFillComplete t src => Sys2Proof.Machine.execIbufFillComplete t src s
  | .storeBufferDrain t granule => Sys2Proof.Machine.execStoreBufferDrain t granule s
  | .fence t => Sys2Proof.Machine.execFence t s
  | .arrive t handle gn gd => Sys2Proof.Machine.execArrive t handle gn gd s
  | .arriveStep t handle gd => Sys2Proof.Machine.execArriveStep t handle gd s
  | .wait t handle gs => Sys2Proof.Machine.execWait t handle gs s
  | .weirReset t handle => Sys2Proof.Machine.execWeirReset t handle s
  | .imageEnd p => Sys2Proof.Machine.execImageEnd p s
  | .vslotWrite m t w v => Sys2Proof.Machine.execVslotWrite m t w v s
  | .fldRemapWrite m f v => Sys2Proof.Machine.execFldRemapWrite m f v s
  | .fldWmapWrite m f v => Sys2Proof.Machine.execFldWmapWrite m f v s
  | .ltrimWrite m f shaft v => Sys2Proof.Machine.execLtrimWrite m f shaft v s
  | .seamHeldRelease f a => Sys2Proof.Machine.execSeamHeldRelease f a s
  | .selfRefreshExit f => Sys2Proof.Machine.execSelfRefreshExit f s
  | .mmFull t passes acc ga gm gd afmt => Sys2Proof.Machine.execMmFull t passes acc ga gm gd afmt s
  | .mmHalf t passes acc ga gm gd afmt => Sys2Proof.Machine.execMmHalf t passes acc ga gm gd afmt s
  | .mmQuad t passes acc ga gm gd afmt => Sys2Proof.Machine.execMmQuad t passes acc ga gm gd afmt s
  | .mmNarrow t passes acc ga gm gd afmt => Sys2Proof.Machine.execMmNarrow t passes acc ga gm gd afmt s
  | .mmLdb t shape bfmt gb gn => Sys2Proof.Machine.execMmLdb t shape bfmt gb gn s
  | .bLoadComplete t => Sys2Proof.Machine.execBLoadComplete t s
  | .mmRdout t gs gc ofmt gk clr int => Sys2Proof.Machine.execMmRdout t gs gc ofmt gk clr int s
  | .mmWait t => Sys2Proof.Machine.execMmWait t s
  | .bParityCheck t cellRow => Sys2Proof.Machine.execBParityCheck t cellRow s
  | .arrSpareWrite m t hi v => Sys2Proof.Machine.execArrSpareWrite m t hi v s
  | .vAdd t o => Sys2Proof.Machine.execVAdd t o s
  | .vSub t o => Sys2Proof.Machine.execVSub t o s
  | .vMul t o => Sys2Proof.Machine.execVMul t o s
  | .vDiv t o => Sys2Proof.Machine.execVDiv t o s
  | .vSqrt t o => Sys2Proof.Machine.execVSqrt t o s
  | .vMin t o => Sys2Proof.Machine.execVMin t o s
  | .vMax t o => Sys2Proof.Machine.execVMax t o s
  | .vMinnum t o => Sys2Proof.Machine.execVMinnum t o s
  | .vMaxnum t o => Sys2Proof.Machine.execVMaxnum t o s
  | .vAbs t o => Sys2Proof.Machine.execVAbs t o s
  | .vNeg t o => Sys2Proof.Machine.execVNeg t o s
  | .vCpsgn t o => Sys2Proof.Machine.execVCpsgn t o s
  | .vRint t o => Sys2Proof.Machine.execVRint t o s
  | .vScaleb t o => Sys2Proof.Machine.execVScaleb t o s
  | .vLogb t o => Sys2Proof.Machine.execVLogb t o s
  | .fma t o => Sys2Proof.Machine.execFma t o s
  | .fms t o => Sys2Proof.Machine.execFms t o s
  | .nfma t o => Sys2Proof.Machine.execNfma t o s
  | .nfms t o => Sys2Proof.Machine.execNfms t o s
  | .cvt t vd va src dst prec rm => Sys2Proof.Machine.execCvt t vd va src dst prec rm s
  | .cvtMx t vd va dst prec rm => Sys2Proof.Machine.execCvtMx t vd va dst prec rm s
  | .cvtI t o => Sys2Proof.Machine.execCvtI t o s
  | .vcmpEq t o => Sys2Proof.Machine.execVcmpEq t o s
  | .vcmpLt t o => Sys2Proof.Machine.execVcmpLt t o s
  | .vcmpLe t o => Sys2Proof.Machine.execVcmpLe t o s
  | .vcmpUn t o => Sys2Proof.Machine.execVcmpUn t o s
  | .vcmpSlt t o => Sys2Proof.Machine.execVcmpSlt t o s
  | .vcmpSle t o => Sys2Proof.Machine.execVcmpSle t o s
  | .vcmpClass t o => Sys2Proof.Machine.execVcmpClass t o s
  | .padd t o => Sys2Proof.Machine.execPadd t o s
  | .pred t o => Sys2Proof.Machine.execPred t o s
  | .pfin t o => Sys2Proof.Machine.execPfin t o s
  | .vld t vd ga => Sys2Proof.Machine.execVld t vd ga s
  | .vst t vd ga => Sys2Proof.Machine.execVst t vd ga s
  | .vredSum t o => Sys2Proof.Machine.execVredSum t o s
  | .vredMax t o => Sys2Proof.Machine.execVredMax t o s
  | .vredMin t o => Sys2Proof.Machine.execVredMin t o s
  | .fmodeWrite m t v => Sys2Proof.Machine.execFmodeWrite m t v s
  | .plbCtlWrite m t v => Sys2Proof.Machine.execPlbCtlWrite m t v s
  | .plbClr m t => Sys2Proof.Machine.execPlbClr m t s
  | .plumbRecomputeDone t => Sys2Proof.Machine.execPlumbRecomputeDone t s
  | .dmaGo t ch gr tag => Sys2Proof.Machine.execDmaGo t ch gr tag s
  | .dmaWait t ch all gd tag => Sys2Proof.Machine.execDmaWait t ch all gd tag s
  | .dmaProg t ch gd => Sys2Proof.Machine.execDmaProg t ch gd s
  | .dmaResume who t ch => Sys2Proof.Machine.execDmaResume who t ch s
  | .dmaClear who t ch => Sys2Proof.Machine.execDmaClear who t ch s
  | .dmaAbort who t ch => Sys2Proof.Machine.execDmaAbort who t ch s
  | .dmaLinear t ch => Sys2Proof.Machine.execDmaLinear t ch s
  | .dmaStrided t ch => Sys2Proof.Machine.execDmaStrided t ch s
  | .dmaGather t ch => Sys2Proof.Machine.execDmaGather t ch s
  | .dmaScatter t ch => Sys2Proof.Machine.execDmaScatter t ch s
  | .dmaSkew t ch => Sys2Proof.Machine.execDmaSkew t ch s
  | .dmaTranspose t ch => Sys2Proof.Machine.execDmaTranspose t ch s
  | .dmaRaggedWalk t ch => Sys2Proof.Machine.execDmaRaggedWalk t ch s
  | .dmaEngineCommandList t ch => Sys2Proof.Machine.execDmaEngineCommandList t ch s
  | .dmaCisternFill t ch => Sys2Proof.Machine.execDmaCisternFill t ch s
  | .dmaCisternCopy t ch => Sys2Proof.Machine.execDmaCisternCopy t ch s
  | .dmaModeUndefined t ch => Sys2Proof.Machine.execDmaModeUndefined t ch s
  | .dmaGranule t ch => Sys2Proof.Machine.execDmaGranule t ch s
  | .eccWriteBack t quarter => Sys2Proof.Machine.execEccWriteBack t quarter s
  | .engIssue t gr => Sys2Proof.Machine.execEngIssue t gr s
  | .engWait t gd => Sys2Proof.Machine.execEngWait t gd s
  | .engEntryAccept t entry => Sys2Proof.Machine.execEngEntryAccept t entry s
  | .wadd t bank => Sys2Proof.Machine.execWadd t bank s
  | .wscale t bank => Sys2Proof.Machine.execWscale t bank s
  | .waxpy t bank => Sys2Proof.Machine.execWaxpy t bank s
  | .wreduce t bank => Sys2Proof.Machine.execWreduce t bank s
  | .wfill t bank => Sys2Proof.Machine.execWfill t bank s
  | .wcopy t bank => Sys2Proof.Machine.execWcopy t bank s
  | .wxpnd t bank => Sys2Proof.Machine.execWxpnd t bank s
  | .wscrub t bank => Sys2Proof.Machine.execWscrub t bank s
  | .engCommandComplete t bank => Sys2Proof.Machine.execEngCommandComplete t bank s
  | .refresh f => Sys2Proof.Machine.execRefresh f s
  | .twinMirror t granule => Sys2Proof.Machine.execTwinMirror t granule s
  | .twinRetry t granule => Sys2Proof.Machine.execTwinRetry t granule s
  | .twinWrite m t e word v => Sys2Proof.Machine.execTwinWrite m t e word v s
  | .scrubStart m t v => Sys2Proof.Machine.execScrubStart m t v s
  | .scrubDone t => Sys2Proof.Machine.execScrubDone t s
  | .backoffExpiry pp req => Sys2Proof.Machine.execBackoffExpiry pp req s
  | .portFreeze m pp => Sys2Proof.Machine.execPortFreeze m pp s
  | .portRelease m pp => Sys2Proof.Machine.execPortRelease m pp s
  | .portDrained pp => Sys2Proof.Machine.execPortDrained pp s
  | .softReset m page => Sys2Proof.Machine.execSoftReset m page s
  | .arbCtlWrite m pp v => Sys2Proof.Machine.execArbCtlWrite m pp v s
  | .seamCtlWrite m f a v => Sys2Proof.Machine.execSeamCtlWrite m f a v s
  | .partCfgWrite m p v => Sys2Proof.Machine.execPartCfgWrite m p v s
  | .enable m p => Sys2Proof.Machine.execEnable m p s
  | .disable m p => Sys2Proof.Machine.execDisable m p s
  | .stepPreemption m p => Sys2Proof.Machine.execStepPreemption m p s
  | .immediatePreemption m p => Sys2Proof.Machine.execImmediatePreemption m p s
  | .saveComplete p => Sys2Proof.Machine.execSaveComplete p s
  | .restore m p => Sys2Proof.Machine.execRestore m p s
  | .discardRecord m p => Sys2Proof.Machine.execDiscardRecord m p s
  | .gracefulReset m p => Sys2Proof.Machine.execGracefulReset m p s
  | .abruptReset m p => Sys2Proof.Machine.execAbruptReset m p s
  | .resetComplete p => Sys2Proof.Machine.execResetComplete p s
  | .partCmdUndefined m p code => Sys2Proof.Machine.execPartCmdUndefined m p code s
  | .weirMapWrite m p handle thr v => Sys2Proof.Machine.execWeirMapWrite m p handle thr v s
  | .tableRegionWrite m p len v => Sys2Proof.Machine.execTableRegionWrite m p len v s
  | .map m p c => Sys2Proof.Machine.execMap m p c s
  | .unmap m p c => Sys2Proof.Machine.execUnmap m p c s
  | .protect m p c => Sys2Proof.Machine.execProtect m p c s
  | .mapOpInvalid m p c => Sys2Proof.Machine.execMapOpInvalid m p c s
  | .mapCommandComplete p => Sys2Proof.Machine.execMapCommandComplete p s
  | .translationWalk t va wr => Sys2Proof.Machine.execTranslationWalk t va wr s
  | .flitReceive y sub flit => Sys2Proof.Machine.execFlitReceive y sub flit s
  | .creditReturn y sub vc => Sys2Proof.Machine.execCreditReturn y sub vc s
  | .subportRetrainDone y sub => Sys2Proof.Machine.execSubportRetrainDone y sub s
  | .subportLost y sub => Sys2Proof.Machine.execSubportLost y sub s
  | .laneWindow y lane uc => Sys2Proof.Machine.execLaneWindow y lane uc s
  | .laneLossOfLock y lane => Sys2Proof.Machine.execLaneLossOfLock y lane s
  | .swapRequest y lane => Sys2Proof.Machine.execSwapRequest y lane s
  | .laneRetrainDone y lane pass => Sys2Proof.Machine.execLaneRetrainDone y lane pass s
  | .backgroundRetrain y => Sys2Proof.Machine.execBackgroundRetrain y s
  | .ypCtlWrite m y v => Sys2Proof.Machine.execYpCtlWrite m y v s
  | .ypAltWrite m y v => Sys2Proof.Machine.execYpAltWrite m y v s
  | .yopDoorbell t y v => Sys2Proof.Machine.execYopDoorbell t y v s
  | .put y r data => Sys2Proof.Machine.execPut y r data s
  | .get y r => Sys2Proof.Machine.execGet y r s
  | .atomicAdd64 y r a => Sys2Proof.Machine.execAtomicAdd64 y r a s
  | .atomicSwap64 y r a => Sys2Proof.Machine.execAtomicSwap64 y r a s
  | .atomicCas64 y r a => Sys2Proof.Machine.execAtomicCas64 y r a s
  | .atomicFadd32 y r a => Sys2Proof.Machine.execAtomicFadd32 y r a s
  | .reduceSum y r fmt data => Sys2Proof.Machine.execReduceSum y r fmt data s
  | .reduceMax y r fmt data => Sys2Proof.Machine.execReduceMax y r fmt data s
  | .reduceMin y r fmt data => Sys2Proof.Machine.execReduceMin y r fmt data s
  | .operationComplete y opId status data => Sys2Proof.Machine.execOperationComplete y opId status data s
  | .ycolDoorbell t y v => Sys2Proof.Machine.execYcolDoorbell t y v s
  | .reduceScatter y => Sys2Proof.Machine.execReduceScatter y s
  | .allGather y => Sys2Proof.Machine.execAllGather y s
  | .reduceScatterAllGather y => Sys2Proof.Machine.execReduceScatterAllGather y s
  | .collectiveMessage y cid stepNo rank chunk data => Sys2Proof.Machine.execCollectiveMessage y cid stepNo rank chunk data s
  | .collectiveTimeout y cid => Sys2Proof.Machine.execCollectiveTimeout y cid s
  | .setpoint y src group seq code time => Sys2Proof.Machine.execSetpoint y src group seq code time s
  | .ack y src group seq status => Sys2Proof.Machine.execAck y src group seq status s
  | .lag y src group seq code cause => Sys2Proof.Machine.execLag y src group seq code cause s
  | .setpointApply => Sys2Proof.Machine.execSetpointApply s
  | .discover y d => Sys2Proof.Machine.execDiscover y d s
  | .haltMessage y => Sys2Proof.Machine.execHaltMessage y s
  | .resumeMessage y => Sys2Proof.Machine.execResumeMessage y s
  | .downMessage y => Sys2Proof.Machine.execDownMessage y s
  | .hostLinkDown h => Sys2Proof.Machine.execHostLinkDown h s
  | .hostLinkUp h => Sys2Proof.Machine.execHostLinkUp h s
  | .hostMemoryRead h a n own => Sys2Proof.Machine.execHostMemoryRead h a n own s
  | .hostMemoryWrite h a data => Sys2Proof.Machine.execHostMemoryWrite h a data s
  | .hostWriteback h p offset d => Sys2Proof.Machine.execHostWriteback h p offset d s
  | .hdmDecoderCommit h p size => Sys2Proof.Machine.execHdmDecoderCommit h p size s
  | .bisnpResponse h p offset dirty => Sys2Proof.Machine.execBisnpResponse h p offset dirty s
  | .biTimeout p offset => Sys2Proof.Machine.execBiTimeout p offset s
  | .sqDoorbell m p q tail => Sys2Proof.Machine.execSqDoorbell m p q tail s
  | .start p q img => Sys2Proof.Machine.execStart p q img s
  | .pcmd p q => Sys2Proof.Machine.execPcmd p q s
  | .sqMap p q => Sys2Proof.Machine.execSqMap p q s
  | .sqFence p q => Sys2Proof.Machine.execSqFence p q s
  | .sqUndefined p q => Sys2Proof.Machine.execSqUndefined p q s
  | .cqHeadWrite m p q v => Sys2Proof.Machine.execCqHeadWrite m p q v s
  | .hqPostIdWrite t q v => Sys2Proof.Machine.execHqPostIdWrite t q v s
  | .hqPost t q v => Sys2Proof.Machine.execHqPost t q v s
  | .evtEnWrite m page v => Sys2Proof.Machine.execEvtEnWrite m page v s
  | .evtInj m page v => Sys2Proof.Machine.execEvtInj m page v s
  | .ownerWrite m page v => Sys2Proof.Machine.execOwnerWrite m page v s
  | .lockWrite m page v => Sys2Proof.Machine.execLockWrite m page v s
  | .registerWrite m addr v => Sys2Proof.Machine.execRegisterWrite m addr v s
  | .vinOutOfRange mv => Sys2Proof.Machine.execVinOutOfRange mv s
  | .vinLow mv => Sys2Proof.Machine.execVinLow mv s
  | .vinUndervoltage mv => Sys2Proof.Machine.execVinUndervoltage mv s
  | .vinCollapse mv => Sys2Proof.Machine.execVinCollapse mv s
  | .vinOvervoltage mv => Sys2Proof.Machine.execVinOvervoltage mv s
  | .vinRecovered mv => Sys2Proof.Machine.execVinRecovered mv s
  | .vhkLoss => Sys2Proof.Machine.execVhkLoss s
  | .tieClose f next feeding mv => Sys2Proof.Machine.execTieClose f next feeding mv s
  | .tieOpen f next => Sys2Proof.Machine.execTieOpen f next s
  | .converterFailOpen f => Sys2Proof.Machine.execConverterFailOpen f s
  | .converterFailShort f => Sys2Proof.Machine.execConverterFailShort f s
  | .ivrPhaseFail f shaft => Sys2Proof.Machine.execIvrPhaseFail f shaft s
  | .railSample p mv amps => Sys2Proof.Machine.execRailSample p mv amps s
  | .degradeDetect f path drop expected ms => Sys2Proof.Machine.execDegradeDetect f path drop expected ms s
  | .railMinRead m p => Sys2Proof.Machine.execRailMinRead m p s
  | .capRecompute => Sys2Proof.Machine.execCapRecompute s
  | .govHcapWrite m v => Sys2Proof.Machine.execGovHcapWrite m v s
  | .govScapWrite m v => Sys2Proof.Machine.execGovScapWrite m v s
  | .energyUpdate mj => Sys2Proof.Machine.execEnergyUpdate mj s
  | .energyLoRead m => Sys2Proof.Machine.execEnergyLoRead m s
  | .rthMeasure tdie tin pw stopped => Sys2Proof.Machine.execRthMeasure tdie tin pw stopped s
  | .fieldBudgetAllocate paux => Sys2Proof.Machine.execFieldBudgetAllocate paux s
  | .fieldGovernorTick f power => Sys2Proof.Machine.execFieldGovernorTick f power s
  | .tileGovernorTick t amps => Sys2Proof.Machine.execTileGovernorTick t amps s
  | .maquetteUpdate f meas => Sys2Proof.Machine.execMaquetteUpdate f meas s
  | .tlimHit t temp => Sys2Proof.Machine.execTlimHit t temp s
  | .govFceilWrite m v => Sys2Proof.Machine.execGovFceilWrite m v s
  | .lagCheck e => Sys2Proof.Machine.execLagCheck e s
  | .bridgeOver => Sys2Proof.Machine.execBridgeOver s
  | .lagResend => Sys2Proof.Machine.execLagResend s
  | .rampWindow mean => Sys2Proof.Machine.execRampWindow mean s
  | .schedWrite m e c => Sys2Proof.Machine.execSchedWrite m e c s
  | .kwCtlWrite m v => Sys2Proof.Machine.execKwCtlWrite m v s
  | .flowEstimate pw tout tin => Sys2Proof.Machine.execFlowEstimate pw tout tin s
  | .telemetryUpdate d => Sys2Proof.Machine.execTelemetryUpdate d s
  | .ppsLoss => Sys2Proof.Machine.execPpsLoss s
  | .internalThermalTrip f temp => Sys2Proof.Machine.execInternalThermalTrip f temp s
  | .trayStop => Sys2Proof.Machine.execTrayStop s
  | .trayStopRelease => Sys2Proof.Machine.execTrayStopRelease s
  | .trayFlowLoss => Sys2Proof.Machine.execTrayFlowLoss s
  | .flowRestored => Sys2Proof.Machine.execFlowRestored s
  | .govStop m => Sys2Proof.Machine.execGovStop m s
  | .govRun m hottest => Sys2Proof.Machine.execGovRun m hottest s
  | .stopWaitTimeout hottest => Sys2Proof.Machine.execStopWaitTimeout hottest s
  | .pwrEnRise => Sys2Proof.Machine.execPwrEnRise s
  | .pwrEnLow => Sys2Proof.Machine.execPwrEnLow s
  | .warmCastingRequest m => Sys2Proof.Machine.execWarmCastingRequest m s
  | .castStageEnd r => Sys2Proof.Machine.execCastStageEnd r s
  | .castStageTimeout f fits => Sys2Proof.Machine.execCastStageTimeout f fits s
  | .imageBootTimeout => Sys2Proof.Machine.execImageBootTimeout s
  | .manifestReceive b => Sys2Proof.Machine.execManifestReceive b s
  | .manifestTimeout => Sys2Proof.Machine.execManifestTimeout s
  | .discoverTimeout y => Sys2Proof.Machine.execDiscoverTimeout y s
  | .ledgerWrite => Sys2Proof.Machine.execLedgerWrite s
  | .nbrTestGo m t => Sys2Proof.Machine.execNbrTestGo m t s
  | .tileFault t cause => Sys2Proof.Machine.execTileFault t cause s
  | .tileHang t => Sys2Proof.Machine.execTileHang t s
  | .tileRepair p => Sys2Proof.Machine.execTileRepair p s
  | .checkerTest f shaft ok => Sys2Proof.Machine.execCheckerTest f shaft ok s
  | .decantLinkEnd f => Sys2Proof.Machine.execDecantLinkEnd f s
  | .staticFallback p => Sys2Proof.Machine.execStaticFallback p s
  | .resyncComplete t e => Sys2Proof.Machine.execResyncComplete t e s
  | .returnToService f seg pass => Sys2Proof.Machine.execReturnToService f seg pass s
  | .updateTileMicrocode p latenciesOk hash => Sys2Proof.Machine.execUpdateTileMicrocode p latenciesOk hash s
  | .updateSerdesFirmware y hash => Sys2Proof.Machine.execUpdateSerdesFirmware y hash s
  | .updateSniwin version hash => Sys2Proof.Machine.execUpdateSniwin version hash s
  | .sniwinUpdateTimeout => Sys2Proof.Machine.execSniwinUpdateTimeout s
  | .svpWatchdog => Sys2Proof.Machine.execSvpWatchdog s
  | .svcTelemetryRead => Sys2Proof.Machine.execSvcTelemetryRead s
  | .svcEventLogRead back => Sys2Proof.Machine.execSvcEventLogRead back s
  | .svcMinVoltageRead p => Sys2Proof.Machine.execSvcMinVoltageRead p s
  | .svcCapLowering cap => Sys2Proof.Machine.execSvcCapLowering cap s
  | .svcStop => Sys2Proof.Machine.execSvcStop s
  | .svcPowerDown => Sys2Proof.Machine.execSvcPowerDown s
  | .svcAbruptReset p => Sys2Proof.Machine.execSvcAbruptReset p s
  | .fieldIsolation f => Sys2Proof.Machine.execFieldIsolation f s
  | .salvageRead a n => Sys2Proof.Machine.execSalvageRead a n s
  | .eventLogFlush => Sys2Proof.Machine.execEventLogFlush s
  | .fuseCommit m => Sys2Proof.Machine.execFuseCommit m s
  | .firmwareRootChange m root => Sys2Proof.Machine.execFirmwareRootChange m root s
  | .debugUnlock m => Sys2Proof.Machine.execDebugUnlock m s
  | .coolantTripOverride m => Sys2Proof.Machine.execCoolantTripOverride m s
  | .presenceConfirm sealIntact => Sys2Proof.Machine.execPresenceConfirm sealIntact s
  | .presenceWindowExpiry => Sys2Proof.Machine.execPresenceWindowExpiry s
  | .sealOpen => Sys2Proof.Machine.execSealOpen s
  | .overrideExpiry => Sys2Proof.Machine.execOverrideExpiry s
  | .dbgStop m t => Sys2Proof.Machine.execDbgStop m t s
  | .dbgResume m t => Sys2Proof.Machine.execDbgResume m t s
  | .dbgStep m t => Sys2Proof.Machine.execDbgStep m t s
  | .breakpointHit t => Sys2Proof.Machine.execBreakpointHit t s
  | .getTid e => Sys2Proof.Machine.execGetTid e s
  | .getPldmVersion e ty => Sys2Proof.Machine.execGetPldmVersion e ty s
  | .getPldmTypes e => Sys2Proof.Machine.execGetPldmTypes e s
  | .getPldmCommands e ty => Sys2Proof.Machine.execGetPldmCommands e ty s
  | .numericSensorRead e sensor => Sys2Proof.Machine.execNumericSensorRead e sensor s
  | .stateSensorRead e sensor => Sys2Proof.Machine.execStateSensorRead e sensor s
  | .requestUpdate e => Sys2Proof.Machine.execRequestUpdate e s
  | .activateFirmware e c => Sys2Proof.Machine.execActivateFirmware e c s
  | .eventLogFileRead e => Sys2Proof.Machine.execEventLogFileRead e s
  | .getDigests e => Sys2Proof.Machine.execGetDigests e s
  | .getCertificate e slot => Sys2Proof.Machine.execGetCertificate e slot s
  | .challenge e nonce => Sys2Proof.Machine.execChallenge e nonce s
  | .getMeasurements e idx sign => Sys2Proof.Machine.execGetMeasurements e idx sign s
  | .mbxGo h => Sys2Proof.Machine.execMbxGo h s
  | .mbxAbort m => Sys2Proof.Machine.execMbxAbort m s
  | .svcBtnPress ms => Sys2Proof.Machine.execSvcBtnPress ms s
  | .svcBtnHold => Sys2Proof.Machine.execSvcBtnHold s
  | .readToClear m addr => Sys2Proof.Machine.execReadToClear m addr s
  | .ppsRestored => Sys2Proof.Machine.execPpsRestored s
  | .mctpControlMessage e eid => Sys2Proof.Machine.execMctpControlMessage e eid s
  | .entdaa addr => Sys2Proof.Machine.execEntdaa addr s

end Sys2Proof.Machine
end

