-- ==== Sys2Proof/WellFormed.lean ====
section
/-!
DEFINITION. Commands whose operands can occur: lengths, alignments and counts that the operands' own types do not bound.
Conditions on the state are not here: a command that the present state does not enable changes nothing (log 1).
-/

namespace Sys2Proof

/-- A number of n quarters of a cistern (R112). -/
def quarterOk (n : Nat) : Bool := decide (n < 196608)

/-- A 64-byte granule of the 4,224 home wells, as device address ÷ 64 (Table 1.5). -/
def granuleOk (g : BitVec 48) : Bool := decide (g.toNat < 4224 * 0x800000)

/-- A whole register (R9). -/
def wordAligned (a : BitVec 48) : Bool := a.toNat % 4 == 0

/-- The base of a register page (R30). -/
def pageAligned (a : BitVec 48) : Bool := a.toNat % 0x1000 == 0

/-- A 64-byte line of a host window (R254). -/
def lineAligned (a : BitVec 48) : Bool := a.toNat % 64 == 0

/-- The port numbers of an arbiter (R184). -/
def requesterOk (n : Nat) : Bool := decide (n < 256)

/-- The data that comes with a one-sided request has the length its header names. -/
def dataOk (r : YReq) (bs : Bytes) : Bool := bs.length == r.len.toNat

/-- The pieces of an image agree: one closing weir for each step, at least one step and one tile. -/
def ImageBody.wf (b : ImageBody) : Bool :=
  decide (0 < b.steps) && b.closing.length == b.steps && !b.tiles.isEmpty

def Image.wf (i : Image) : Bool := i.body.wf && i.variants.all ImageBody.wf

/-- 64 nodes and 24 predictions (R288); no quadrant named twice. -/
def MqMeasure.wf (m : MqMeasure) : Bool := m.nodes.length == 64 && m.pred.length == 24 && decide m.busy.Nodup

/-- One injected fraction a field, in thousandths (R292). -/
def LagEval.wf (e : LagEval) : Bool := e.inj.length == 48 && e.inj.all (decide <| · ≤ 1000)

/-- A cause that names a quarter names one that exists. -/
def TileFaultCause.wf : TileFaultCause → Bool
  | .cisternUe q => quarterOk q
  | _ => true

/-- Codes of PART_CMD that Table 9.3 leaves undefined. -/
def partCodeUndefined (c : BitVec 4) : Bool := decide (c.toNat = 0 ∨ 9 ≤ c.toNat)

/-- The operands of a command can occur. -/
def Instr.wf : Instr → Bool
  | .undefinedInstruction _ w => undefinedWord w
  | .storeBufferDrain _ g | .twinMirror _ g | .twinRetry _ g => granuleOk g
  | .eccWriteBack _ q => quarterOk q
  | .backoffExpiry _ r => requesterOk r
  | .softReset _ a | .evtEnWrite _ a _ | .evtInj _ a _ | .ownerWrite _ a _ | .lockWrite _ a _ => pageAligned a
  | .registerWrite _ a _ | .readToClear _ a => wordAligned a
  | .partCmdUndefined _ _ c => partCodeUndefined c
  | .flitReceive _ _ f => f.bytes.length == 256
  | .put _ r d | .reduceSum _ r _ d | .reduceMax _ r _ d | .reduceMin _ r _ d => dataOk r d
  | .hostMemoryRead _ _ n _ => decide (0 < n)
  | .hostMemoryWrite _ _ d => !d.isEmpty
  | .hostWriteback _ _ o _ | .bisnpResponse _ _ o _ | .biTimeout _ o => lineAligned o
  | .start _ _ i => i.wf
  | .degradeDetect _ i _ _ _ => decide (i < 294)
  | .maquetteUpdate _ m => m.wf
  | .lagCheck e => e.wf
  | .telemetryUpdate d => d.ft.length == 48
  | .tileFault _ c => c.wf
  | .salvageRead _ n => decide (0 < n)
  | _ => true

end Sys2Proof
end

