-- ==== Sys2Proof/Safety.lean ====
section
/-!
DEFINITION. Safe runs, in the terms claims use: what it is for a command to complete, what an instruction of a tile
needs to issue, what a command leaves as it was, and the canonical form of the state's data.
-/

namespace Sys2Proof.Machine

/-! ## Completion -/

/-- A step that stops neither with a fault nor with a refusal. -/
def goesOn (s : State) : Prop := ∃ t, step s = .next t

/-- exec answers a next state for the command, and Q holds of it. -/
def Completes (c : Instr) (s : State) (Q : State → Prop) : Prop := ∃ s', exec c s = .next s' ∧ Q s'

/-- The state after n steps, where every one of them answers a next state. -/
def runs : Nat → State → Option State
  | 0, s => some s
  | n + 1, s => match step s with
    | .next s1 => runs n s1
    | _ => none

/-! ## Issue -/

/-- The sequencer can issue, its active half is no poisoned one, and the fetch lies in the half (R36, R358). -/
def Ready (s : State) (t : Tile) : Prop :=
  canIssue s t = true ∧ halfOf s t (activeHalf s t) ≠ .poisoned ∧ s.pc t ≤ 0x7FFC

/-! ## What stays -/

/-- Every byte of every well and of every cistern reads as before. -/
def SameMemory (s s' : State) : Prop :=
  (∀ a, Mem.read s'.wells a = Mem.read s.wells a) ∧ ∀ u a, Mem.read (s'.mem u).cist a = Mem.read (s.mem u).cist a

/-- Everything but registers, tile cores, the hub, and what is sent out is as before. -/
def SameRest (s s' : State) : Prop :=
  s'.pending = s.pending ∧ s'.wells = s.wells ∧ s'.wellUe = s.wellUe ∧ s'.wellCe = s.wellCe ∧ s'.banks = s.banks
    ∧ s'.fields = s.fields ∧ s'.arbs = s.arbs ∧ s'.weirs = s.weirs ∧ s'.parts = s.parts ∧ s'.ports = s.ports
    ∧ s'.gov = s.gov ∧ s'.svc = s.svc ∧ s'.tsclk = s.tsclk

/-- The registers a debug stop at an instruction boundary may write: DBG_STS, EVT_STS of page 1, and the count of bad
vectors (R342, R253). -/
def debugRegs (t : Tile) : List Nat := [dbgSts t, tilePage t 1 + 0x010, hubPage 0 + 0x04C]

/-- Every register outside a list is as before. -/
def SameRegs (l : List Nat) (s s' : State) : Prop := ∀ a, a ∉ l → s'.reg a = s.reg a

/-- What an instruction that writes one general register leaves: memory, store buffers and queues, arrays, vector
registers, every other tile, every register page but for the listed registers, and all else the module holds. -/
structure RegisterFrame (t : Tile) (l : List Nat) (s s' : State) : Prop where
  memory : SameMemory s s'
  stores : ∀ u, s'.mem u = s.mem u
  array : ∀ u, s'.arr u = s.arr u
  vector : ∀ u, s'.vec u = s.vec u
  tiles : ∀ u, u ≠ t → s'.core u = s.core u
  regs : SameRegs (l ++ debugRegs t) s s'
  rest : SameRest s s'

/-! ## Canonical data -/

/-- Every sparse list of the state is in its one canonical form. -/
structure State.canonical (s : State) : Prop where
  regs : SMap.wf regReset s.regs
  cores : SMap.wf coreD s.cores
  spares : SMap.wf coreD s.spares
  wells : Memory.wf s.wells
  wellCe : SMap.wf zeroN s.wellCe
  banks : SMap.wf bankD s.banks
  fields : SMap.wf fieldD s.fields
  arbs : SMap.wf arbD s.arbs
  weirs : SMap.wf weirD s.weirs
  parts : SMap.wf partD s.parts
  ports : SMap.wf portD s.ports

end Sys2Proof.Machine
end

