-- ==== Sys2Proof/Certificates/Slice0/Obligations.lean ====
section
/-!
DEFINITION. The statements about the model: what the commands do, where they complete, what they leave, and what every
step keeps. Each docstring names the rules of spec/ it comes from.
-/

open Sys2Proof
open Sys2Proof.Machine

/-! ## The sequencer -/

/-- The outcome of an integer instruction: gd holds v (g0 stays zero), the program counter moves on by 4, and nothing else
changes but for a debug stop at the boundary. -/
def Sys2Proof.Claims.WritesReg (t : Tile) (gd : GReg) (v : Word) (s s' : State) : Prop :=
  (∀ r, s'.g t r = if r = gd ∧ gd ≠ 0 then v else s.g t r) ∧ s'.pc t = s.pc t + 4 ∧ RegisterFrame t [] s s'

open Sys2Proof.Claims

/-- R356, Table 2.8, R35: the register forms on any operands, g0 as destination included. -/
def Sys2Proof.Claims.AluRegisterForms : Prop :=
  ∀ (t : Tile) (gd ga gb : GReg) (s : State), Ready s t →
    Completes (.add t gd ga gb) s (WritesReg t gd (s.g t ga + s.g t gb) s)
    ∧ Completes (.sub t gd ga gb) s (WritesReg t gd (s.g t ga - s.g t gb) s)
    ∧ Completes (.and t gd ga gb) s (WritesReg t gd (s.g t ga &&& s.g t gb) s)
    ∧ Completes (.or t gd ga gb) s (WritesReg t gd (s.g t ga ||| s.g t gb) s)
    ∧ Completes (.xor t gd ga gb) s (WritesReg t gd (s.g t ga ^^^ s.g t gb) s)
    ∧ Completes (.sll t gd ga gb) s (WritesReg t gd (s.g t ga <<< ((s.g t gb).toNat % 32)) s)
    ∧ Completes (.srl t gd ga gb) s (WritesReg t gd (s.g t ga >>> ((s.g t gb).toNat % 32)) s)
    ∧ Completes (.sra t gd ga gb) s (WritesReg t gd ((s.g t ga).sshiftRight ((s.g t gb).toNat % 32)) s)
    ∧ Completes (.slt t gd ga gb) s (WritesReg t gd (if (s.g t ga).toInt < (s.g t gb).toInt then 1 else 0) s)
    ∧ Completes (.sltu t gd ga gb) s (WritesReg t gd (if (s.g t ga).toNat < (s.g t gb).toNat then 1 else 0) s)
    ∧ Completes (.mul t gd ga gb) s
        (WritesReg t gd (BitVec.ofNat 32 ((s.g t ga).toNat * (s.g t gb).toNat)) s)
    ∧ Completes (.mulhu t gd ga gb) s
        (WritesReg t gd (BitVec.ofNat 32 ((s.g t ga).toNat * (s.g t gb).toNat / 2 ^ 32)) s)
    ∧ Completes (.mulh t gd ga gb) s
        (WritesReg t gd (BitVec.ofInt 32 ((s.g t ga).toInt * (s.g t gb).toInt / 2 ^ 32)) s)

/-- R356, Table 2.8: the immediate forms; ADDI and SLTI sign-extend, ANDI, ORI and XORI zero-extend. -/
def Sys2Proof.Claims.AluImmediateForms : Prop :=
  ∀ (t : Tile) (gd ga : GReg) (imm : BitVec 16) (amount : BitVec 5) (s : State), Ready s t →
    Completes (.addi t gd ga imm) s (WritesReg t gd (s.g t ga + BitVec.ofInt 32 imm.toInt) s)
    ∧ Completes (.andi t gd ga imm) s (WritesReg t gd (s.g t ga &&& BitVec.ofNat 32 imm.toNat) s)
    ∧ Completes (.ori t gd ga imm) s (WritesReg t gd (s.g t ga ||| BitVec.ofNat 32 imm.toNat) s)
    ∧ Completes (.xori t gd ga imm) s (WritesReg t gd (s.g t ga ^^^ BitVec.ofNat 32 imm.toNat) s)
    ∧ Completes (.slti t gd ga imm) s (WritesReg t gd (if (s.g t ga).toInt < imm.toInt then 1 else 0) s)
    ∧ Completes (.lui t gd imm) s (WritesReg t gd (BitVec.ofNat 32 (imm.toNat * 2 ^ 16)) s)
    ∧ Completes (.slli t gd ga amount) s (WritesReg t gd (s.g t ga <<< amount.toNat) s)
    ∧ Completes (.srli t gd ga amount) s (WritesReg t gd (s.g t ga >>> amount.toNat) s)
    ∧ Completes (.srai t gd ga amount) s (WritesReg t gd ((s.g t ga).sshiftRight amount.toNat) s)

/-- Register and immediate forms write their result and nothing else: AluRegisterForms and AluImmediateForms. -/
def Obligations.AluInstructions : Prop :=
  Sys2Proof.Claims.AluRegisterForms ∧ Sys2Proof.Claims.AluImmediateForms

/-- The outcome of a branch: not taken, or taken to a legal target x, the program counter goes on and all else but l's
registers stays; taken to an illegal one, the branch itself traps (R358, R38). -/
def Sys2Proof.Claims.Branched (t : Tile) (taken : Prop) (x : Int) (l : List Nat) (s s' : State) : Prop :=
  (¬ taken → s'.pc t = s.pc t + 4 ∧ (∀ r, s'.g t r = s.g t r) ∧ RegisterFrame t [] s s')
  ∧ (taken → legalTarget x = true → (s'.pc t : Int) = x ∧ RegisterFrame t l s s')
  ∧ (taken → legalTarget x = false → (s'.seq t).trap = true ∧ s'.reg (trapCause t) = 2
      ∧ s'.reg (trapPc t) = BitVec.ofNat 32 (s.pc t) ∧ ∀ r, s'.g t r = s.g t r)

/-- R358, Table 2.10: the conditional branches, and JR and JAL, which link PC + 4; an offset counts words from the branch. -/
def Sys2Proof.Claims.BranchesGoToTheirTargets : Prop :=
  ∀ (t : Tile) (ga gb : GReg) (off : BitVec 12) (s : State), Ready s t →
    let x : Int := s.pc t + 4 * off.toInt
    Completes (.branchEq t ga gb off) s (Branched t (s.g t ga = s.g t gb) x [] s)
    ∧ Completes (.branchNe t ga gb off) s (Branched t (s.g t ga ≠ s.g t gb) x [] s)
    ∧ Completes (.branchLt t ga gb off) s (Branched t ((s.g t ga).toInt < (s.g t gb).toInt) x [] s)
    ∧ Completes (.branchGe t ga gb off) s (Branched t ((s.g t gb).toInt ≤ (s.g t ga).toInt) x [] s)
    ∧ Completes (.branchLtu t ga gb off) s (Branched t ((s.g t ga).toNat < (s.g t gb).toNat) x [] s)
    ∧ Completes (.branchGeu t ga gb off) s (Branched t ((s.g t gb).toNat ≤ (s.g t ga).toNat) x [] s)
    ∧ Completes (.jal t ga off) s (fun s' => Branched t True x [] s s'
        ∧ (legalTarget x = true → ∀ r, s'.g t r = if r = ga ∧ ga ≠ 0 then BitVec.ofNat 32 (s.pc t + 4) else s.g t r))
    ∧ Completes (.jr t ga gb) s (fun s' => Branched t True (s.g t gb).toNat [] s s'
        ∧ (legalTarget (s.g t gb).toNat = true →
            ∀ r, s'.g t r = if r = ga ∧ ga ≠ 0 then BitVec.ofNat 32 (s.pc t + 4) else s.g t r))

/-- R110, R358: the branch on plumb alarm is taken while PLB_STS.alarm is 1; with clr a taken branch clears alarm and
more, and leaves the rest of PLB_STS. -/
def Sys2Proof.Claims.PlumbAlarmBranch : Prop :=
  ∀ (t : Tile) (clr : Bool) (off : BitVec 12) (s : State), Ready s t →
    let x : Int := s.pc t + 4 * off.toInt
    Completes (.branchPlumbAlarm t clr off) s (fun s' =>
      Branched t (s.rbit (plbSts t) 0 = true) x [plbSts t] s s'
      ∧ (s.rbit (plbSts t) 0 = true → legalTarget x = true →
          (∀ r, s'.g t r = s.g t r)
          ∧ s'.reg (plbSts t) = if clr then setBit (setBit (s.reg (plbSts t)) 0 false) 1 false else s.reg (plbSts t)))

/-- Branches and jumps go to their targets, and link: BranchesGoToTheirTargets and PlumbAlarmBranch. -/
def Obligations.BranchInstructions : Prop :=
  Sys2Proof.Claims.BranchesGoToTheirTargets ∧ Sys2Proof.Claims.PlumbAlarmBranch

/-- R284, R40, R36, R35, R359: PHASE shows its ID in SEQ_STS; HALT halts the tile without an arrival; IBUF.SWAP goes to
offset 0 of the other half once that half is complete; an undefined word traps with code 2. -/
def Sys2Proof.Claims.SystemInstructions : Prop :=
  ∀ (t : Tile) (s : State), Ready s t →
    (∀ id : BitVec 10, Completes (.phase t id) s (fun s' =>
        Machine.fld (s'.reg (seqSts t)) 16 10 = id ∧ s'.pc t = s.pc t + 4 ∧ ∀ r, s'.g t r = s.g t r))
    ∧ Completes (.halt t) s (fun s' => halted s' t = true ∧ s'.pc t = s.pc t + 4 ∧ (∀ r, s'.g t r = s.g t r)
        ∧ s'.parts = s.parts ∧ SameMemory s s')
    ∧ (halfOf s t (!activeHalf s t) = .complete → Completes (.ibufSwap t) s (fun s' =>
        activeHalf s' t = (!activeHalf s t) ∧ s'.pc t = 0 ∧ halfOf s' t (activeHalf s t) = .empty ∧ SameMemory s s'))
    ∧ ∀ w : BitVec 32, Completes (.undefinedInstruction t w) s (fun s' =>
        (s'.seq t).trap = true ∧ s'.reg (trapCause t) = 2 ∧ s'.reg (trapPc t) = BitVec.ofNat 32 (s.pc t)
        ∧ s'.pc t = s.pc t ∧ SameMemory s s')

/-- R38, R40: a recorded trap is entered once the store buffer is empty: the sequencer goes to TVEC with the handler bit
set and the trap event raised; TRET goes back to TRAP_PC, and outside a handler it is illegal. -/
def Obligations.TrapEntryAndReturn : Prop :=
  ∀ (t : Tile) (s : State),
    ((s.seq t).trap = true → sbEmpty s t = true → fieldRuns s (tileField t) = true → halted s t = false →
      (s.seq t).fenced = false → saving s t = false →
      Completes (.trapEntry t) s (fun s' =>
        s'.pc t = (Machine.fld (s.reg (tvec t)) 2 14).toNat * 4 ∧ inTrap s' t = true ∧ (s'.seq t).trap = false
        ∧ s'.rbit (tilePage t 0 + 0x010) 0 = true ∧ s'.reg (trapCause t) = s.reg (trapCause t)
        ∧ s'.reg (trapPc t) = s.reg (trapPc t) ∧ (∀ r, s'.g t r = s.g t r) ∧ SameMemory s s'))
    ∧ (Ready s t →
        (inTrap s t = true → Completes (.tret t) s (fun s' =>
          s'.pc t = (Machine.fld (s.reg (trapPc t)) 0 16).toNat ∧ inTrap s' t = false ∧ ∀ r, s'.g t r = s.g t r))
        ∧ (inTrap s t = false → Completes (.tret t) s (fun s' =>
          (s'.seq t).trap = true ∧ s'.reg (trapCause t) = 2 ∧ s'.reg (trapPc t) = BitVec.ofNat 32 (s.pc t))))

/-- R40, R257, R259: SEQ_CTL.run by a master that may write, with no other master's write of it within 1 µs, starts a
halted sequencer at offset 0; halt_req halts a running one at once where no store waits and no instruction stalls, and
waits in SEQ_CTL otherwise. -/
def Sys2Proof.Claims.SequencerControl : Prop :=
  ∀ (m : Master) (t : Tile) (s : State), mayWrite s m (tilePage t 0) = true →
    (halted s t = true → safeRecent s (seqCtl t) m = false → Completes (.seqRun m t) s (fun s' =>
        halted s' t = false ∧ inTrap s' t = false ∧ s'.pc t = 0 ∧ (s'.seq t).stall = none
        ∧ (∀ r, s'.g t r = s.g t r) ∧ SameMemory s s'))
    ∧ (halted s t = false → (s.seq t).stall = none → sbEmpty s t = true → Completes (.seqHaltReq m t) s (fun s' =>
        halted s' t = true ∧ s'.rbit (seqCtl t) 1 = false ∧ s'.pc t = s.pc t ∧ SameMemory s s'))
    ∧ (halted s t = false → (sbEmpty s t = false ∨ (s.seq t).stall ≠ none) → Completes (.seqHaltReq m t) s (fun s' =>
        halted s' t = false ∧ s'.rbit (seqCtl t) 1 = true ∧ s'.pc t = s.pc t ∧ SameMemory s s'))

/-- R35, R36, R40, R257, R259, R284, R359: where each of these commands completes: undefinedInstruction, phase, halt,
ibufSwap, seqRun and seqHaltReq, under conditions on the state and the operands alone. An instruction needs a sequencer
that can issue; IBUF.SWAP also a complete next half; SEQ_CTL a master that may write it, a halted tile to run and a
running one to halt. -/
def Sys2Proof.Claims.SequencerFormsComplete : Prop :=
  ∀ (m : Master) (t : Tile) (w : BitVec 32) (id : BitVec 10) (s : State),
    (Ready s t →
      (∃ s', Sys2Proof.Machine.exec (.undefinedInstruction t w) s = .next s' ∧ (s'.seq t).trap = true
        ∧ s'.reg (trapCause t) = 2 ∧ s'.reg (trapPc t) = BitVec.ofNat 32 (s.pc t))
      ∧ (∃ s', Sys2Proof.Machine.exec (.phase t id) s = .next s' ∧ Machine.fld (s'.reg (seqSts t)) 16 10 = id)
      ∧ (∃ s', Sys2Proof.Machine.exec (.halt t) s = .next s' ∧ halted s' t = true)
      ∧ (halfOf s t (!activeHalf s t) = .complete →
          ∃ s', Sys2Proof.Machine.exec (.ibufSwap t) s = .next s' ∧ activeHalf s' t = (!activeHalf s t) ∧ s'.pc t = 0))
    ∧ (mayWrite s m (tilePage t 0) = true →
      (halted s t = true → safeRecent s (seqCtl t) m = false →
        ∃ s', Sys2Proof.Machine.exec (.seqRun m t) s = .next s' ∧ halted s' t = false ∧ s'.pc t = 0)
      ∧ (halted s t = false → (s.seq t).stall = none → sbEmpty s t = true →
        ∃ s', Sys2Proof.Machine.exec (.seqHaltReq m t) s = .next s' ∧ halted s' t = true))

/-- PHASE, HALT, IBUF.SWAP, undefined words, and the run and halt controls: SystemInstructions and SequencerControl and
SequencerFormsComplete. -/
def Obligations.SequencerInstructions : Prop :=
  Sys2Proof.Claims.SystemInstructions ∧ Sys2Proof.Claims.SequencerControl ∧ Sys2Proof.Claims.SequencerFormsComplete

/-- A general register after a load of n bytes of value v into gr (R357): 8 bytes fill the pair, g0 stays zero, and
shorter ones are extended as sx says. -/
def Sys2Proof.Claims.loaded (s : State) (t : Tile) (gr : GReg) (n : Nat) (sx : Bool) (v : Nat) (r : GReg) : Word :=
  if r = 0 then 0
  else if n = 8 ∧ r.val = gr.val + 1 then BitVec.ofNat 32 (v / 2 ^ 32)
  else if r = gr then (if n < 4 ∧ sx = true then BitVec.ofInt 32 (sext (8 * n) v) else BitVec.ofNat 32 v)
  else s.g t r

/-- R357, R113: LOAD and STORE in space 0 at an aligned offset of the tile's own cistern. The load takes the bytes as they
stand, little-endian; the store writes exactly its own bytes, and every other byte of every cistern and well stays. -/
def Sys2Proof.Claims.CisternLoadStore : Prop :=
  ∀ (t : Tile) (gr ga : GReg) (size : BitVec 2) (sx : Bool) (imm : BitVec 9) (x : Nat) (s : State), Ready s t →
    let n := sizeBytes size
    cistOff s t ga imm n = x → x + n ≤ cistSize → x % n = 0 → cistBad s t x n = false →
      (ldstIllegal false gr ga size sx 0 = false → owes s t (s.mem t).launch x n = false →
        Completes (.load t gr ga size sx 0 imm) s (fun s' =>
          (∀ r, s'.g t r = loaded s t gr n sx (Mem.readLe (s.mem t).cist x n) r) ∧ s'.pc t = s.pc t + 4 ∧ SameMemory s s'))
      ∧ (ldstIllegal true gr ga size sx 0 = false →
        Completes (.store t gr ga size sx 0 imm) s (fun s' =>
          (∀ a, Mem.read (s'.mem t).cist a = if x ≤ a ∧ a < x + n
            then BitVec.ofNat 8 (storeVal s t gr n / 256 ^ (a - x)) else Mem.read (s.mem t).cist a)
          ∧ (∀ u, u ≠ t → ∀ a, Mem.read (s'.mem u).cist a = Mem.read (s.mem u).cist a)
          ∧ (∀ a, Mem.read s'.wells a = Mem.read s.wells a)
          ∧ (∀ r, s'.g t r = s.g t r) ∧ s'.pc t = s.pc t + 4))

/-- R357, R56, R208, R254: in space 1, under a translation the sequencer holds, a store to a home well enters the store
buffer of its tile and no well changes yet; a load that the buffer holds whole is served from it. No snoop is
outstanding for the line, no step guard covers the address, and the buffer has room. -/
def Sys2Proof.Claims.WellStoresEnterTheBuffer : Prop :=
  ∀ (t w : Tile) (p : Part) (o : Nat) (gr ga : GReg) (size : BitVec 2) (sx : Bool) (imm : BitVec 9) (e : XEnt) (s : State),
    Ready s t → partOf s t = some p → (s.seq t).xl = some e →
    let n := sizeBytes size
    let va := addr48 s t ga imm n
    e.covers p va = true → va % n = 0 → placeOf (e.dpa va) = .well w o → o % 64 + n ≤ 64 → (snoopGate s t w o true).1 = true →
    (snoopGate s t w o false).1 = true →
      (ldstIllegal true gr ga size sx 1 = false → e.w = true → guardHit s t va n = false → (s.mem t).sb.length < 64 →
        Completes (.store t gr ga size sx 1 imm) s (fun s' =>
          sbHolds s' t (homeDpa w o / 64) (o % 64) n = true
          ∧ (∃ b, sbFind s' t (homeDpa w o / 64) = some b ∧ b.written = false)
          ∧ s'.wells = s.wells ∧ SameMemory s s' ∧ (∀ r, s'.g t r = s.g t r) ∧ s'.pc t = s.pc t + 4))
      ∧ (ldstIllegal false gr ga size sx 1 = false → e.r = true → sbHolds s t (homeDpa w o / 64) (o % 64) n = true →
        Completes (.load t gr ga size sx 1 imm) s (fun s' =>
          (∀ r, s'.g t r = loaded s t gr n sx (lineLe (sbOver s t (homeDpa w o / 64) 0) (o % 64) n) r)
          ∧ s'.pc t = s.pc t + 4 ∧ SameMemory s s'))

/-- R357, R113: where load and store complete: a legal form in space 0, its offset aligned and inside the tile's cistern, and
for a load bytes without an error into which no transfer is due. -/
def Sys2Proof.Claims.LoadAndStoreComplete : Prop :=
  ∀ (t : Tile) (gr ga : GReg) (size : BitVec 2) (sx : Bool) (imm : BitVec 9) (x : Nat) (s : State), Ready s t →
    let n := sizeBytes size
    cistOff s t ga imm n = x → x + n ≤ cistSize → x % n = 0 → cistBad s t x n = false →
      (ldstIllegal false gr ga size sx 0 = false → owes s t (s.mem t).launch x n = false →
        ∃ s', Sys2Proof.Machine.exec (.load t gr ga size sx 0 imm) s = .next s' ∧ s'.pc t = s.pc t + 4
          ∧ s'.g t gr = loaded s t gr n sx (Mem.readLe (s.mem t).cist x n) gr)
      ∧ (ldstIllegal true gr ga size sx 0 = false →
        ∃ s', Sys2Proof.Machine.exec (.store t gr ga size sx 0 imm) s = .next s' ∧ s'.pc t = s.pc t + 4
          ∧ Mem.readLe (s'.mem t).cist x n = storeVal s t gr n % 256 ^ n)

/-- LOAD and STORE in the cistern and into the store buffer: CisternLoadStore and WellStoresEnterTheBuffer and
LoadAndStoreComplete. -/
def Obligations.LoadsAndStores : Prop :=
  Sys2Proof.Claims.CisternLoadStore ∧ Sys2Proof.Claims.WellStoresEnterTheBuffer ∧ Sys2Proof.Claims.LoadAndStoreComplete

/-- R357, R38: what LOAD and STORE trap on: an illegal form at issue with code 2, a misaligned or outlying cistern offset
with code 3, a misaligned virtual address with code 3. The program counter stays at the instruction, and no register and
no byte of memory changes. -/
def Sys2Proof.Claims.LoadStoreTraps : Prop :=
  ∀ (st : Bool) (t : Tile) (gr ga : GReg) (size : BitVec 2) (sx : Bool) (space : BitVec 2) (imm : BitVec 9) (s : State),
    Ready s t →
    let n := sizeBytes size
    let c : Instr := if st then .store t gr ga size sx space imm else .load t gr ga size sx space imm
    let traps := fun (code : Nat) (s' : State) => (s'.seq t).trap = true ∧ s'.reg (trapCause t) = BitVec.ofNat 32 code
      ∧ s'.reg (trapPc t) = BitVec.ofNat 32 (s.pc t) ∧ s'.pc t = s.pc t ∧ (∀ r, s'.g t r = s.g t r) ∧ SameMemory s s'
    (ldstIllegal st gr ga size sx space = true → Completes c s (traps 2))
    ∧ (ldstIllegal st gr ga size sx space = false → space = 0 →
        (cistOff s t ga imm n < 0 ∨ (cistSize : Int) < cistOff s t ga imm n + n ∨ cistOff s t ga imm n % n ≠ 0) →
        Completes c s (traps 3))
    ∧ (ldstIllegal st gr ga size sx space = false → space = 1 → addr48 s t ga imm n % n ≠ 0 → Completes c s (traps 3))

/-- R56: the oldest granule of the store buffer, bound for its tile's own well, leaves in a store slot: its valid bytes
reach the well and no other byte of any well changes. The well is awake, no refresh runs in the bank (R142), and it is
neither fostered, twinned nor being decanted, its granule is no lost one, and nothing else waits at the tile. -/
def Sys2Proof.Claims.StoreBufferDrains : Prop :=
  ∀ (t : Tile) (g : BitVec 48) (o : Nat) (b : SbEntry) (s : State),
    sbFind s t g.toNat = some b → b.written = false → sbOldest s t g.toNat = true → fieldRuns s (tileField t) = true →
    placeOf (g.toNat * 64) = .well t o → (s.fld (tileField t)).selfRefresh = false → bankRefreshes s t o = false → fostered s t = false →
    twinOf s t o = none → decantCopy s t = none → s.wellUe.contains (wellGran (homeShaft s t) o) = false →
    (s.seq t).stall = none → (s.arr t).queue = [] → hasSlot s t 5 = true →
      Completes (.storeBufferDrain t g) s (fun s' =>
        ∀ a, Mem.read s'.wells a =
          (let i := a - wellAt (homeShaft s t) (o / 64 * 64)
           if wellAt (homeShaft s t) (o / 64 * 64) ≤ a ∧ i < 64 ∧ b.mask.getLsbD i = true
           then BitVec.ofNat 8 (b.data.toNat / 256 ^ i) else Mem.read s.wells a))

/-- R118: the write-back of a corrected quarter clears its error and changes no byte. -/
def Sys2Proof.Claims.CisternWriteBack : Prop :=
  ∀ (t : Tile) (q : Nat) (s : State), (s.mem t).writeBack.contains q = true →
    Completes (.eccWriteBack t q) s (fun s' =>
      (s'.mem t).writeBack.contains q = false ∧ (s'.mem t).cistCe.contains q = false ∧ SameMemory s s' ∧ SameRegs [] s s')

/-- R36: the fill of the next half from a code range leaves that half complete, or poisoned where a granule of the range
cannot be read; the active half and the program counter stay. Nothing else waits at the tile. -/
def Sys2Proof.Claims.InstructionFill : Prop :=
  ∀ (t : Tile) (src : BitVec 48) (s : State), dmaLive s t = true → (s.seq t).stall = none → (s.arr t).queue = [] →
    Completes (.ibufFillComplete t src) s (fun s' =>
      (halfOf s' t (!activeHalf s t) = .complete ∨ halfOf s' t (!activeHalf s t) = .poisoned)
      ∧ halfOf s' t (activeHalf s t) = halfOf s t (activeHalf s t) ∧ s'.pc t = s.pc t ∧ activeHalf s' t = activeHalf s t)

/-- Store buffer drains, corrections written back, halves filled: StoreBufferDrains and CisternWriteBack and
InstructionFill. -/
def Obligations.StoreBufferAndFills : Prop :=
  Sys2Proof.Claims.StoreBufferDrains ∧ Sys2Proof.Claims.CisternWriteBack ∧ Sys2Proof.Claims.InstructionFill

/-! ## Weirs, steps and the contract -/

/-- R202, R203: ARRIVE adds to the weir and hands gd the epoch before the addition; below the threshold nothing else
happens, and at the threshold the weir releases: the threshold leaves the count, the epoch advances by 1, and every tile
standing at a WAIT there is freed. -/
def Sys2Proof.Claims.ArriveAndRelease : Prop :=
  ∀ (t : Tile) (h : BitVec 10) (gn gd : GReg) (p : Part) (id : Nat) (s : State), Ready s t → sbEmpty s t = true →
    weirFor s t h.toNat = some (p, id) →
    let n := if gn = 0 then 1 else (Machine.fld (s.g t gn) 0 16).toNat
    let w := s.weir id
    (n ≠ 0 → w.count.toNat + n < 2 ^ 32 → (w.count.toNat + n < w.thr.toNat ∨ w.thr = 0) →
      Completes (.arrive t h gn gd) s (fun s' =>
        (s'.weir id).count = w.count + BitVec.ofNat 32 n ∧ (s'.weir id).epoch = w.epoch
        ∧ (∀ k, k ≠ id → s'.weir k = s.weir k)
        ∧ (∀ r, s'.g t r = if r = gd ∧ gd ≠ 0 then w.epoch.setWidth 32 else s.g t r) ∧ s'.pc t = s.pc t + 4 ∧ SameMemory s s'))
    ∧ (n ≠ 0 → w.count.toNat + n < 2 ^ 32 → w.thr.toNat ≤ w.count.toNat + n → w.thr ≠ 0 → mayRelease s p = true →
      closingHandle s p ≠ some h.toNat →
      Completes (.arrive t h gn gd) s (fun s' =>
        (s'.weir id).count = w.count + BitVec.ofNat 32 n - w.thr ∧ (s'.weir id).epoch = w.epoch + 1
        ∧ (s'.weir id).waiters = [] ∧ (∀ k, k ≠ id → s'.weir k = s.weir k)
        ∧ (∀ u ∈ w.waiters, u ≠ t → (∃ u' h' g', (s.seq u).stall = some (.wait u' h' g')) → (s'.seq u).stall = none)
        ∧ (∀ r, s'.g t r = if r = gd ∧ gd ≠ 0 then w.epoch.setWidth 32 else s.g t r) ∧ SameMemory s s'))

/-- R202, R203, R50: FENCE, WAIT, ARRIVE.STEP and RESET. FENCE goes on once the store buffer is empty and stands until then;
WAIT goes on while the epoch differs from gs and else stands among
the waiters; ARRIVE.STEP names the closing weir alone, and below the threshold only counts; RESET empties the count and
releases nobody. -/
def Sys2Proof.Claims.WeirInstructions : Prop :=
  ∀ (t : Tile) (h : BitVec 10) (gs gd : GReg) (s : State), Ready s t →
    (sbEmpty s t = true → Completes (.fence t) s (fun s' => s'.pc t = s.pc t + 4 ∧ RegisterFrame t [] s s'))
    ∧ (sbEmpty s t = false → Completes (.fence t) s (fun s' =>
        (s'.seq t).stall = some (.fence t) ∧ s'.pc t = s.pc t ∧ RegisterFrame t [] s s'))
    ∧ (∀ p id, weirFor s t h.toNat = some (p, id) →
        ((s.weir id).epoch ≠ Machine.fld (s.g t gs) 0 16 →
          Completes (.wait t h gs) s (fun s' => s'.pc t = s.pc t + 4 ∧ RegisterFrame t [] s s'))
        ∧ ((s.weir id).epoch = Machine.fld (s.g t gs) 0 16 →
          Completes (.wait t h gs) s (fun s' => (s'.seq t).stall = some (.wait t h gs) ∧ t ∈ (s'.weir id).waiters
            ∧ (s'.weir id).count = (s.weir id).count ∧ s'.pc t = s.pc t ∧ SameMemory s s'))
        ∧ Completes (.weirReset t h) s (fun s' => (s'.weir id).count = 0 ∧ (s'.weir id).epoch = (s.weir id).epoch
            ∧ (s'.weir id).waiters = (s.weir id).waiters ∧ (∀ k, k ≠ id → s'.weir k = s.weir k) ∧ s'.pc t = s.pc t + 4)
        ∧ ((partOf s t).bind (closingHandle s) = some h.toNat → sbEmpty s t = true → (s.seq t).unabsorbed = none →
            (s.weir id).count.toNat + 1 < 2 ^ 32 →
            ((s.weir id).count.toNat + 1 < (s.weir id).thr.toNat ∨ (s.weir id).thr = 0) →
            Completes (.arriveStep t h gd) s (fun s' => (s'.weir id).count = (s.weir id).count + 1
              ∧ (s'.weir id).epoch = (s.weir id).epoch ∧ s'.pc t = s.pc t + 4
              ∧ ∀ r, s'.g t r = if r = gd ∧ gd ≠ 0 then (s.weir id).epoch.setWidth 32 else s.g t r)))

/-- ARRIVE, ARRIVE.STEP, WAIT, RESET and FENCE at a weir: ArriveAndRelease and WeirInstructions. -/
def Obligations.WeirOperations : Prop :=
  Sys2Proof.Claims.ArriveAndRelease ∧ Sys2Proof.Claims.WeirInstructions

/-- R50, R202, R201: ARRIVE.STEP with another handle than the closing weir's is illegal; a handle with no valid entry, or
of a weir of another field, is an access trap in ARRIVE, WAIT and RESET alike. -/
def Sys2Proof.Claims.WeirTraps : Prop :=
  ∀ (t : Tile) (h : BitVec 10) (gs gd : GReg) (s : State), Ready s t →
    let traps := fun (code : Nat) (s' : State) => (s'.seq t).trap = true ∧ s'.reg (trapCause t) = BitVec.ofNat 32 code
      ∧ s'.reg (trapPc t) = BitVec.ofNat 32 (s.pc t) ∧ s'.pc t = s.pc t ∧ (∀ r, s'.g t r = s.g t r) ∧ SameMemory s s'
    ((partOf s t).bind (closingHandle s) ≠ some h.toNat → Completes (.arriveStep t h gd) s (traps 2))
    ∧ (weirFor s t h.toNat = none → Completes (.arrive t h gs gd) s (traps 3) ∧ Completes (.wait t h gs) s (traps 3)
        ∧ Completes (.weirReset t h) s (traps 3))

/-- Where loads, stores and weir operations trap: LoadStoreTraps and WeirTraps. -/
def Obligations.SequencerTraps : Prop :=
  Sys2Proof.Claims.LoadStoreTraps ∧ Sys2Proof.Claims.WeirTraps

/-- R201, R196, R257: the weir map of an IDLE partition takes an entry its rules accept from a physical function or the
service processor, and both its words show it; a refused entry sets EVT_STS.weir_reject, and a virtual function or a tile
is turned away and counted in HUB_OWN_REJ. -/
def Sys2Proof.Claims.WeirMapWrites : Prop :=
  ∀ (m : Master) (p : Part) (h : BitVec 10) (thr : Bool) (v : BitVec 32) (s : State),
    let w0 := if thr then s.reg (weirEnt p h.toNat 0) else v &&& 0x80003FFF
    let w1 := if thr then v else s.reg (weirEnt p h.toNat 1)
    ((∀ q n, m ≠ .vf q n) → (∀ u, m ≠ .tile u) →
      (pstate s p = 1 → weirEntryOk s p h.toNat w0 w1 = true → Completes (.weirMapWrite m p h thr v) s (fun s' =>
        s'.reg (weirEnt p h.toNat 0) = w0 ∧ s'.reg (weirEnt p h.toNat 1) = w1 ∧ SameMemory s s'))
      ∧ ((pstate s p ≠ 1 ∨ weirEntryOk s p h.toNat w0 w1 = false) → Completes (.weirMapWrite m p h thr v) s (fun s' =>
        s'.rbit (partPage p 0 + 0x010) 6 = true ∧ s'.reg (weirEnt p h.toNat 0) = s.reg (weirEnt p h.toNat 0)
        ∧ s'.reg (weirEnt p h.toNat 1) = s.reg (weirEnt p h.toNat 1) ∧ s'.weirs = s.weirs)))
    ∧ (((∃ q n, m = .vf q n) ∨ ∃ u, m = .tile u) → Completes (.weirMapWrite m p h thr v) s (fun s' =>
        s'.reg (hubPage 0 + 0x044) = satAdd (s.reg (hubPage 0 + 0x044)) 1 ∧ s'.weirs = s.weirs
        ∧ s'.reg (weirEnt p h.toNat 0) = s.reg (weirEnt p h.toNat 0)
        ∧ s'.reg (weirEnt p h.toNat 1) = s.reg (weirEnt p h.toNat 1)))

/-- R50, R36: an arrival that brings the closing weir to its threshold in a step that is not the image's last commits it:
STEP_NO of every tile of the partition advances by 1, and every tile whose next half is filled goes to offset 0 of that
half. No pre-emption waits, and no tile waits to return to service. -/
def Sys2Proof.Claims.ClosingWeirCommitsTheStep : Prop :=
  ∀ (t : Tile) (h : BitVec 10) (gd : GReg) (p : Part) (id : Nat) (r : RunImage) (s : State), Ready s t → sbEmpty s t = true →
    weirFor s t h.toNat = some (p, id) → (s.prt p).image = some r → closingHandle s p = some h.toNat →
    (s.seq t).unabsorbed = none → r.committed + 1 < r.body.steps → (s.prt p).pend = none → (s.prt p).returns = [] →
    (s.weir id).count.toNat + 1 < 2 ^ 32 → (s.weir id).thr.toNat ≤ (s.weir id).count.toNat + 1 → (s.weir id).thr ≠ 0 →
    mayRelease s p = true →
      Completes (.arriveStep t h gd) s (fun s' =>
        (∀ u ∈ partTiles s p, stepNo s' u = (stepNo s u + 1) % 2 ^ 64)
        ∧ (∀ u ∈ partTiles s p, nextReady s u = true → activeHalf s' u = (!activeHalf s u) ∧ s'.pc u = 0)
        ∧ ((s'.prt p).image.map fun x => x.committed) = some (r.committed + 1)
        ∧ (s'.weir id).epoch = (s.weir id).epoch + 1 ∧ SameMemory s s')

/-- The weir map, and the commit of a step by its closing weir: WeirMapWrites and ClosingWeirCommitsTheStep. -/
def Obligations.WeirMapAndCommit : Prop :=
  Sys2Proof.Claims.WeirMapWrites ∧ Sys2Proof.Claims.ClosingWeirCommitsTheStep

/-! ## Vector unit -/

/-- What a vector instruction leaves: every vector register but the listed ones, the general registers, the rest of its
tile, every other tile, every register page but FSTAT, and all else the module holds. -/
structure Sys2Proof.Claims.VectorFrame (t : Tile) (l : List VReg) (s s' : State) : Prop where
  pc : s'.pc t = s.pc t + 4
  vregs : ∀ r, r ∉ l → s'.v t r = s.v t r
  gregs : ∀ r, s'.g t r = s.g t r
  array : s'.arr t = s.arr t
  stores : s'.mem t = s.mem t
  tiles : ∀ u, u ≠ t → s'.core u = s.core u
  regs : SameRegs (fstatAddr t :: debugRegs t) s s'
  rest : SameRest s s'

/-- A lane by lane result: every lane i of vd holds the value of g i, each flag of FSTAT is set that was set or that a
lane raises, and nothing else changes. -/
def Sys2Proof.Claims.LaneResult (t : Tile) (o : VOp) (g : Nat → Nat × Nat) (s s' : State) : Prop :=
  (∀ i, i < vcount o.prec → lane (s'.v t o.vd) (vwidth o.prec) i = (g i).1 % 2 ^ vwidth o.prec)
  ∧ (∀ j, j < 5 → (s'.rbit (fstatAddr t) j = true ↔
      s.rbit (fstatAddr t) j = true ∨ ∃ i, i < vcount o.prec ∧ (g i).2.testBit j = true))
  ∧ VectorFrame t [o.vd] s s'

/-- R97, R98, R100: the lane arithmetic of both precisions, under the instruction's own rounding direction or FMODE.rm:
every operation is one rounding of the exact result of IEEE 754 on each lane, with its status flags gathered in FSTAT. -/
def Sys2Proof.Claims.VectorArithmetic : Prop :=
  ∀ (t : Tile) (o : VOp) (s : State), Ready s t → o.rm ≠ 5 → o.rm ≠ 6 →
    let f := vfmt o.prec
    let rm := rmOf s t o.rm
    let a := vel s t o.va o.prec
    let b := vel s t o.vb o.prec
    let c := vel s t o.vc o.prec
    Completes (.vAdd t o) s (LaneResult t o (fun i => fAdd f rm (a i) (b i)) s)
    ∧ Completes (.vSub t o) s (LaneResult t o (fun i => fSub f rm (a i) (b i)) s)
    ∧ Completes (.vMul t o) s (LaneResult t o (fun i => fMul f rm (a i) (b i)) s)
    ∧ Completes (.vDiv t o) s (LaneResult t o (fun i => fDiv f rm (a i) (b i)) s)
    ∧ Completes (.vSqrt t o) s (LaneResult t o (fun i => fSqrt f rm (a i)) s)
    ∧ Completes (.vRint t o) s (LaneResult t o (fun i => fRint f rm (a i)) s)
    ∧ Completes (.vLogb t o) s (LaneResult t o (fun i => fLogb f (a i)) s)
    ∧ Completes (.fma t o) s (LaneResult t o (fun i => fFma f rm false false (a i) (b i) (c i)) s)
    ∧ Completes (.fms t o) s (LaneResult t o (fun i => fFma f rm false true (a i) (b i) (c i)) s)
    ∧ Completes (.nfma t o) s (LaneResult t o (fun i => fFma f rm true false (a i) (b i) (c i)) s)
    ∧ Completes (.nfms t o) s (LaneResult t o (fun i => fFma f rm true true (a i) (b i) (c i)) s)
    ∧ Completes (.vScaleb t o) s (LaneResult t o (fun i =>
        fScaleb f rm (a i) (b i) (lane (Config.freeBits s.freeCtr) (vwidth o.prec) i)) s)

/-- R98, Table 4.5: ABS clears the sign bit of every lane, NEG inverts it, CPSGN takes it from vb; MIN, MAX and their
number forms give one operand where neither is NaN: the smaller or larger, −0 below +0. None of the first three raises a
flag. -/
def Sys2Proof.Claims.VectorSignsAndExtremes : Prop :=
  ∀ (t : Tile) (o : VOp) (s : State), Ready s t → o.rm ≠ 5 → o.rm ≠ 6 →
    let f := vfmt o.prec
    let w := vwidth o.prec
    let a := vel s t o.va o.prec
    let b := vel s t o.vb o.prec
    Completes (.vAbs t o) s (LaneResult t o (fun i => (a i % 2 ^ (w - 1), 0)) s)
    ∧ Completes (.vNeg t o) s (LaneResult t o (fun i => ((a i + 2 ^ (w - 1)) % 2 ^ w, 0)) s)
    ∧ Completes (.vCpsgn t o) s (LaneResult t o (fun i => (a i % 2 ^ (w - 1) + b i / 2 ^ (w - 1) * 2 ^ (w - 1), 0)) s)
    ∧ Completes (.vMin t o) s (LaneResult t o (fun i => fMinMax f false false (a i) (b i)) s)
    ∧ Completes (.vMax t o) s (LaneResult t o (fun i => fMinMax f true false (a i) (b i)) s)
    ∧ Completes (.vMinnum t o) s (LaneResult t o (fun i => fMinMax f false true (a i) (b i)) s)
    ∧ Completes (.vMaxnum t o) s (LaneResult t o (fun i => fMinMax f true true (a i) (b i)) s)
    ∧ ∀ x y, (f.dec x).isNan = false → (f.dec y).isNan = false →
        (∀ num, fMinMax f false num x y = (if fKey f x ≤ fKey f y then x else y, 0))
        ∧ ∀ num, fMinMax f true num x y = (if fKey f x ≤ fKey f y then y else x, 0)

/-- Vector arithmetic, signs and extremes, lane by lane: VectorArithmetic and VectorSignsAndExtremes. -/
def Obligations.VectorResults : Prop :=
  Sys2Proof.Claims.VectorArithmetic ∧ Sys2Proof.Claims.VectorSignsAndExtremes

/-- R98, Table 4.5: a comparison writes all ones to a true lane and zero to a false one; a NaN makes every relation but
UN false; CLASS writes one set bit. -/
def Sys2Proof.Claims.VectorComparisons : Prop :=
  ∀ (t : Tile) (o : VOp) (s : State), Ready s t → o.rm ≠ 5 → o.rm ≠ 6 →
    let f := vfmt o.prec
    let w := vwidth o.prec
    let a := vel s t o.va o.prec
    let b := vel s t o.vb o.prec
    let nan := fun i => (f.dec (a i)).isNan || (f.dec (b i)).isNan
    let snan := fun i => f.snan (a i) || f.snan (b i)
    let res := fun (sig : Bool) (r : Nat → Bool) (i : Nat) =>
      (if r i then 2 ^ w - 1 else 0, if nan i && (sig || snan i) then flNv else 0)
    let num := fun (p : Int → Bool) (i : Nat) => !nan i && p (fCmp f (a i) (b i))
    Completes (.vcmpEq t o) s (LaneResult t o (res false (num (· == 0))) s)
    ∧ Completes (.vcmpLt t o) s (LaneResult t o (res false (num (decide <| · < 0))) s)
    ∧ Completes (.vcmpLe t o) s (LaneResult t o (res false (num (decide <| · ≤ 0))) s)
    ∧ Completes (.vcmpUn t o) s (LaneResult t o (res false nan) s)
    ∧ Completes (.vcmpSlt t o) s (LaneResult t o (res true (num (decide <| · < 0))) s)
    ∧ Completes (.vcmpSle t o) s (LaneResult t o (res true (num (decide <| · ≤ 0))) s)
    ∧ Completes (.vcmpClass t o) s (LaneResult t o (fun i => (2 ^ (Config.classBit (fClass f (a i))).val, 0)) s)

/-- R94, R98, R101: CVT converts as many elements as the precision has lanes and both registers hold; CVT.MX writes 32
elements and their scale code into the top byte; CVT.I writes 32-bit integers where vc is even, with a free value in a
lane that has none, and takes them where vc is odd. -/
def Sys2Proof.Claims.VectorConversions : Prop :=
  ∀ (t : Tile) (s : State), Ready s t →
    (∀ (vd va : VReg) (src dst : BitVec 4) (prec : Bool) (rm : BitVec 3), rm ≠ 5 → rm ≠ 6 → cvtCode src = true → cvtCode dst = true →
      Completes (.cvt t vd va src dst prec rm) s (fun s' =>
        (∀ i, i < min (vcount prec) (2048 / max (fmtWidth src.toNat) (fmtWidth dst.toNat)) →
          lane (s'.v t vd) (fmtWidth dst.toNat) i =
            (let v := codeVal src.toNat (lane (s.v t va) (fmtWidth src.toNat) i)
             (toCode dst.toNat (if dst.toNat = 10 ∨ dst.toNat = 11 then rmOf s t rm else 0) (ovfSat s t dst.toNat) v.2 v.1).1)
              % 2 ^ fmtWidth dst.toNat)
        ∧ VectorFrame t [vd] s s'))
    ∧ (∀ (vd va : VReg) (dst : BitVec 4) (rm : BitVec 3), rm ≠ 5 → rm ≠ 6 → 1 ≤ dst.toNat → dst.toNat ≤ 5 →
      Completes (.cvtMx t vd va dst true rm) s (fun s' =>
        VectorFrame t [vd] s s'
        ∧ ((∃ i, i < 32 ∧ (f32.dec (lane (s.v t va) 32 i)).isNan = true) → lane (s'.v t vd) 8 255 = 0xFF)
        ∧ ((∀ i, i < 32 → lane (s.v t va) 32 i % 2 ^ 31 = 0) → lane (s'.v t vd) 8 255 = 0)))
    ∧ (∀ o : VOp, o.rm ≠ 5 → o.rm ≠ 6 → Completes (.cvtI t o) s (fun s' =>
        VectorFrame t [o.vd] s s'
        ∧ (o.vc.val % 2 = 0 → ∀ i, i < vcount o.prec →
            (∀ v, (fToInt (vfmt o.prec) (rmOf s t o.rm) (vel s t o.va o.prec i)).1 = some v →
              lane (s'.v t o.vd) 32 i = (BitVec.ofInt 32 v).toNat)
            ∧ ((fToInt (vfmt o.prec) (rmOf s t o.rm) (vel s t o.va o.prec i)).1 = none →
              lane (s'.v t o.vd) 32 i = lane (Config.freeBits s.freeCtr) 32 i))
        ∧ (o.vc.val % 2 = 1 → ∀ i, i < vcount o.prec → lane (s'.v t o.vd) (vwidth o.prec) i =
            (roundInt (vfmt o.prec) (rmOf s t o.rm) (sext 32 (lane (s.v t o.va) 32 i)) 0 false).1 % 2 ^ vwidth o.prec)))

/-- Vector comparisons and conversions, lane by lane: VectorComparisons and VectorConversions. -/
def Obligations.VectorComparesAndConverts : Prop :=
  Sys2Proof.Claims.VectorComparisons ∧ Sys2Proof.Claims.VectorConversions

/-- R102, R103: a compensated pair holds hi in an even register and lo in the next. PADD adds va to nearest and gathers
the exact error in lo; PFIN rounds hi + lo once; PRED and the reductions write lane 0 alone, by one fixed tree. -/
def Sys2Proof.Claims.PairsAndReductions : Prop :=
  ∀ (t : Tile) (o : VOp) (s : State), Ready s t → o.rm ≠ 5 → o.rm ≠ 6 →
    let f := vfmt o.prec
    let w := vwidth o.prec
    let n := vcount o.prec
    let hi := vel s t o.vd o.prec
    let lo := vel s t (pairLo o.vd) o.prec
    let red := fun (op : Nat → Nat → Nat × Nat) (s' : State) =>
      (∃ r, treeRed (fun x y => ((op x.1 y.1).1, x.2 ||| y.2 ||| (op x.1 y.1).2)) 6
          ((List.range n).map fun i => (vel s t o.va o.prec i, 0)) = [r]
        ∧ lane (s'.v t o.vd) w 0 = r.1 % 2 ^ w)
      ∧ (∀ i, 0 < i → i < n → lane (s'.v t o.vd) w i = hi i) ∧ VectorFrame t [o.vd] s s'
    (pairOk o.vd = true →
      Completes (.padd t o) s (fun s' =>
        (∀ i, i < n →
          lane (s'.v t o.vd) w i = (fAdd f 0 (hi i) (vel s t o.va o.prec i)).1 % 2 ^ w
          ∧ lane (s'.v t (pairLo o.vd)) w i =
            (fAdd f 0 (lo i) (fErr f (hi i) (vel s t o.va o.prec i) (fAdd f 0 (hi i) (vel s t o.va o.prec i)).1)).1 % 2 ^ w)
        ∧ VectorFrame t [o.vd, pairLo o.vd] s s')
      ∧ Completes (.pfin t o) s (LaneResult t o (fun i => fAdd f (rmOf s t o.rm) (hi i) (lo i)) s)
      ∧ Completes (.pred t o) s (fun s' =>
          (∃ r, treeRed (predNode f) 6 ((List.range n).map fun i => (hi i, lo i, 0)) = [r]
            ∧ lane (s'.v t o.vd) w 0 = r.1 % 2 ^ w ∧ lane (s'.v t (pairLo o.vd)) w 0 = r.2.1 % 2 ^ w)
          ∧ (∀ i, 0 < i → i < n → lane (s'.v t o.vd) w i = hi i ∧ lane (s'.v t (pairLo o.vd)) w i = lo i)
          ∧ VectorFrame t [o.vd, pairLo o.vd] s s'))
    ∧ Completes (.vredSum t o) s (red (fAdd f (rmOf s t o.rm)))
    ∧ Completes (.vredMax t o) s (red (fMinMax f true false))
    ∧ Completes (.vredMin t o) s (red (fMinMax f false false))

/-- R100: a rounding direction of 5 or 6 is illegal in every vector instruction, and so are an odd pair, a conversion to
or from a code outside Table 4.1, and CVT.MX in double precision or to another code than 1 … 5. -/
def Sys2Proof.Claims.IllegalVectorForms : Prop :=
  ∀ (t : Tile) (o : VOp) (va : VReg) (src dst : BitVec 4) (prec : Bool) (rm : BitVec 3) (s : State), Ready s t →
    let traps := fun (s' : State) => (s'.seq t).trap = true ∧ s'.reg (trapCause t) = 2 ∧ s'.reg (trapPc t) = BitVec.ofNat 32 (s.pc t)
      ∧ s'.pc t = s.pc t ∧ (∀ r, s'.v t r = s.v t r) ∧ (∀ r, s'.g t r = s.g t r) ∧ SameMemory s s'
    ((o.rm = 5 ∨ o.rm = 6) → ∀ c ∈ [Instr.vAdd t o, .vSub t o, .vMul t o, .vDiv t o, .vSqrt t o, .vMin t o, .vMax t o,
        .vMinnum t o, .vMaxnum t o, .vAbs t o, .vNeg t o, .vCpsgn t o, .vRint t o, .vScaleb t o, .vLogb t o, .fma t o, .fms t o,
        .nfma t o, .nfms t o, .cvtI t o, .vcmpEq t o, .vcmpLt t o, .vcmpLe t o, .vcmpUn t o, .vcmpSlt t o, .vcmpSle t o,
        .vcmpClass t o, .padd t o, .pred t o, .pfin t o, .vredSum t o, .vredMax t o, .vredMin t o], Completes c s traps)
    ∧ (o.vd.val % 2 = 1 → ∀ c ∈ [Instr.padd t o, .pred t o, .pfin t o], Completes c s traps)
    ∧ ((rm = 5 ∨ rm = 6 ∨ src = 0 ∨ 11 < src.toNat ∨ dst = 0 ∨ 11 < dst.toNat) →
        Completes (.cvt t o.vd va src dst prec rm) s traps)
    ∧ ((rm = 5 ∨ rm = 6 ∨ prec = false ∨ dst = 0 ∨ 5 < dst.toNat) → Completes (.cvtMx t o.vd va dst prec rm) s traps)

/-- R97, R113, R357: VLD and VST move 256 bytes at an aligned cistern offset; misaligned or outlying they trap with code 3
and move nothing. -/
def Sys2Proof.Claims.VectorMemory : Prop :=
  ∀ (t : Tile) (r : VReg) (ga : GReg) (s : State), Ready s t →
    let x := (s.g t ga).toNat
    (x % 256 = 0 → x + 256 ≤ cistSize →
      (cistBad s t x 256 = false → owes s t (s.mem t).launch x 256 = false → Completes (.vld t r ga) s (fun s' =>
        s'.v t r = BitVec.ofNat 2048 (Mem.readLe (s.mem t).cist x 256) ∧ (∀ q, q ≠ r → s'.v t q = s.v t q)
        ∧ s'.pc t = s.pc t + 4 ∧ (∀ q, s'.g t q = s.g t q) ∧ SameMemory s s'))
      ∧ Completes (.vst t r ga) s (fun s' =>
        (∀ a, Mem.read (s'.mem t).cist a = if x ≤ a ∧ a < x + 256
            then BitVec.ofNat 8 ((s.v t r).toNat / 256 ^ (a - x)) else Mem.read (s.mem t).cist a)
        ∧ (∀ u, u ≠ t → s'.core u = s.core u) ∧ (∀ a, Mem.read s'.wells a = Mem.read s.wells a)
        ∧ (∀ q, s'.v t q = s.v t q) ∧ (∀ q, s'.g t q = s.g t q) ∧ s'.pc t = s.pc t + 4))
    ∧ ((x % 256 ≠ 0 ∨ cistSize < x + 256) → ∀ c ∈ [Instr.vld t r ga, .vst t r ga], Completes c s (fun s' =>
        (s'.seq t).trap = true ∧ s'.reg (trapCause t) = 3 ∧ s'.reg (trapAddrLo t) = BitVec.ofNat 32 x ∧ s'.pc t = s.pc t
        ∧ (∀ q, s'.v t q = s.v t q) ∧ SameMemory s s'))

/-- Pairs, reductions, vector loads and stores, and the forms that trap: PairsAndReductions and IllegalVectorForms and
VectorMemory. -/
def Obligations.VectorPairsMemoryAndTraps : Prop :=
  Sys2Proof.Claims.PairsAndReductions ∧ Sys2Proof.Claims.IllegalVectorForms ∧ Sys2Proof.Claims.VectorMemory

/-! ## Plumb sampling and FMODE -/

/-- R95, R106, R257: FMODE and PLB_CTL take their fields from a master that may write, and reject a reserved rounding
direction or interval as a whole with EVT_STS.ctl_reject; an accepted write of PLB_CTL restarts the counter, and its clr
empties the histogram. -/
def Sys2Proof.Claims.VectorControlWrites : Prop :=
  ∀ (m : Master) (t : Tile) (v : BitVec 32) (s : State), mayWrite s m (tilePage t 3) = true →
    (Machine.fld v 0 3 < 5 → Completes (.fmodeWrite m t v) s (fun s' =>
      s'.reg (fmodeAddr t) = v &&& 0x1F ∧ SameRegs [fmodeAddr t] s s' ∧ s'.cores = s.cores ∧ SameRest s s'))
    ∧ (5 ≤ Machine.fld v 0 3 → Completes (.fmodeWrite m t v) s (fun s' =>
      s'.reg (fmodeAddr t) = s.reg (fmodeAddr t) ∧ s'.rbit (tilePage t 3 + 0x010) 2 = true ∧ s'.cores = s.cores))
    ∧ (Machine.fld v 1 4 < 13 → Completes (.plbCtlWrite m t v) s (fun s' =>
      s'.reg (plbCtl t) = v &&& 0xFF ∧ SameRegs [plbCtl t] s s' ∧ (s'.vec t).sample = 0
      ∧ (s'.vec t).hist = (if bit v 8 then [] else (s.vec t).hist) ∧ (s'.vec t).captures = (s.vec t).captures ∧ SameRest s s'))
    ∧ (13 ≤ Machine.fld v 1 4 → Completes (.plbCtlWrite m t v) s (fun s' =>
      s'.reg (plbCtl t) = s.reg (plbCtl t) ∧ s'.rbit (tilePage t 3 + 0x010) 2 = true ∧ s'.cores = s.cores))
    ∧ Completes (.plbClr m t) s (fun s' =>
      (s'.vec t).hist = [] ∧ (s'.vec t).sample = 0 ∧ (s'.vec t).captures = (s.vec t).captures ∧ (∀ a, s'.reg a = s.reg a)
      ∧ SameRest s s')

/-- R108, R109, R110: a finished recompute takes the oldest capture, counts it in PLB_CNT and in one bucket of its phase's
histogram, a counter that saturates at 0xFFFF, and raises the alarm where the bucket reaches a threshold that is not 0. -/
def Sys2Proof.Claims.PlumbRecompute : Prop :=
  ∀ (t : Tile) (c : Capture) (rest : List Capture) (s : State), (s.vec t).captures = c :: rest →
    Completes (.plumbRecomputeDone t) s (fun s' =>
      (s'.vec t).captures = rest ∧ s'.reg (tilePage t 3 + 0x058) = satAdd (s.reg (tilePage t 3 + 0x058)) 1
      ∧ (∃ b, b < 8
        ∧ SMap.get zeroN (s'.vec t).hist (c.phase.toNat * 8 + b) = min 0xFFFF (SMap.get zeroN (s.vec t).hist (c.phase.toNat * 8 + b) + 1)
        ∧ (∀ k, k ≠ c.phase.toNat * 8 + b → SMap.get zeroN (s'.vec t).hist k = SMap.get zeroN (s.vec t).hist k)
        ∧ (let thr := (Machine.fld (s.reg (plbCtl t)) 5 3).toNat
           (thr ≠ 0 ∧ thr ≤ b → s'.rbit (plbSts t) 0 = true ∧ s'.rbit (tilePage t 3 + 0x010) 0 = true)
           ∧ (thr = 0 ∨ b < thr → s'.reg (plbSts t) = s.reg (plbSts t))))
      ∧ SameMemory s s' ∧ ∀ r, s'.v t r = s.v t r)

/-- FMODE, FSTAT, plumb control and the recomputation of a sample: VectorControlWrites and PlumbRecompute. -/
def Obligations.VectorControl : Prop :=
  Sys2Proof.Claims.VectorControlWrites ∧ Sys2Proof.Claims.PlumbRecompute

/-! ## Matrix array -/

/-- The shape, and the compute instruction of each shape (R77). -/
def Sys2Proof.Claims.compute (sh : Shape) (t : Tile) (passes : BitVec 2) (acc : Bool) (ga gm gd : GReg) (afmt : BitVec 4) : Instr :=
  match sh with
  | .full => .mmFull t passes acc ga gm gd afmt
  | .half => .mmHalf t passes acc ga gm gd afmt
  | .quad => .mmQuad t passes acc ga gm gd afmt
  | .narrow => .mmNarrow t passes acc ga gm gd afmt

/-- The cycles per element of a compute under the B format set at the tile: CPP × passes. -/
def Sys2Proof.Claims.passCycles (s : State) (t : Tile) (passes : BitVec 2) : Nat := fmtCpp (s.arr t).curFmt.toNat * passes.toNat

/-- R77, Table 3.5: a compute form that the array accepts: passes, a format pair, the shape of the B in use, and M. -/
def Sys2Proof.Claims.computeLegal (s : State) (t : Tile) (sh : Shape) (passes : BitVec 2) (gm : GReg) (afmt : BitVec 4) : Prop :=
  passes ≠ 0 ∧ pairFmtOk afmt.toNat (s.arr t).curFmt.toNat = true ∧ sh = (s.arr t).curShape
  ∧ 1 ≤ (Machine.fld (s.g t gm) 0 11).toNat
  ∧ (Machine.fld (s.g t gm) 0 11).toNat ≤ maxM sh (intMode afmt.toNat (s.arr t).curFmt.toNat)

/-- R69 … R72, R77: a float-mode compute of any shape, at an idle array whose B is complete, writes exactly its output
elements: element (i, c) of every quadrant becomes the FP32 of the joined blocks, added to what stood there where acc is
1; every other word of the store stays. No word of the store and no quarter of the stream is uncorrectable, and no
transfer is due into the stream. -/
def Sys2Proof.Claims.ComputeWritesItsOutput : Prop :=
  ∀ (sh : Shape) (t : Tile) (passes : BitVec 2) (acc : Bool) (ga gm gd : GReg) (afmt : BitVec 4) (img : BImage) (s : State),
    Ready s t → saving s t = false → computeLegal s t sh passes gm afmt →
    intMode afmt.toNat (s.arr t).curFmt.toNat = false →
    let a := (s.g t ga).toNat
    let m := (Machine.fld (s.g t gm) 0 11).toNat
    let d := (Machine.fld (s.g t gd) 0 10).toNat
    let last := streamEnd sh a m (passCycles s t passes) (fmtWidth afmt.toNat)
    a % 256 = 0 → last ≤ cistSize → d + outRows sh m ≤ 1024 → (s.arr t).queue = [] → arrFrozen s t = false →
    (((s.arr t).shadow = none ∧ (s.arr t).b = img)
      ∨ ∃ x, (s.arr t).shadow = some x ∧ x.img = some img ∧ x.ord ≤ (s.mem t).launch ∧ badRows img = []) →
    owes s t (s.mem t).launch a (last - a) = false → cistBad s t a (last - a) = false → (s.arr t).accUe = [] →
    img.n ≤ 256 →
      let j := jobOf sh passes a m afmt (s.arr t).curFmt (fmode s t)
      Completes (compute sh t passes acc ga gm gd afmt) s (fun s' =>
        (∀ x ∈ quadrants sh img.n, ∀ i, i < m → ∀ c, c < x.2.2.1 →
          let key := (d + x.2.2.2.2 * m + i) * 256 + (x.2.1 + c)
          SMap.get zeroW (s'.arr t).accum key =
            drainFloat acc (SMap.get zeroW (s.arr t).accum key)
              (joinFloat j img (aRow (s.mem t).cist j x.1 i) x.2.2.2.1 (x.2.1 + c)))
        ∧ (∀ r c, c < 256 → (r < d ∨ d + outRows sh m ≤ r ∨ shapeCols sh img.n ≤ c) →
          SMap.get zeroW (s'.arr t).accum (r * 256 + c) = SMap.get zeroW (s.arr t).accum (r * 256 + c))
        ∧ s'.pc t = s.pc t + 4 ∧ (∀ r, s'.g t r = s.g t r) ∧ (∀ r, s'.v t r = s.v t r) ∧ SameMemory s s')

/-- R77, R79: a compute with illegal fields traps with code 2 and one that leaves the cistern or the store, or is
misaligned, with code 3; with four entries queued it stands; and while the array is frozen it waits in the queue. -/
def Sys2Proof.Claims.ComputeIssue : Prop :=
  ∀ (sh : Shape) (t : Tile) (passes : BitVec 2) (acc : Bool) (ga gm gd : GReg) (afmt : BitVec 4) (s : State), Ready s t →
    let a := (s.g t ga).toNat
    let m := (Machine.fld (s.g t gm) 0 11).toNat
    let d := (Machine.fld (s.g t gd) 0 10).toNat
    let int := intMode afmt.toNat (s.arr t).curFmt.toNat
    let fits := a % 256 = 0 ∧ streamEnd sh a m (passCycles s t passes) (fmtWidth afmt.toNat) ≤ cistSize
      ∧ d + outRows sh m ≤ (if int = true then 512 else 1024)
    let c := compute sh t passes acc ga gm gd afmt
    let traps := fun (code : Nat) (s' : State) => (s'.seq t).trap = true ∧ s'.reg (trapCause t) = BitVec.ofNat 32 code
      ∧ s'.pc t = s.pc t ∧ s'.arr t = s.arr t ∧ (∀ r, s'.g t r = s.g t r) ∧ SameMemory s s'
    (¬ computeLegal s t sh passes gm afmt → Completes c s (traps 2))
    ∧ (computeLegal s t sh passes gm afmt → ¬ fits → Completes c s (traps 3))
    ∧ (computeLegal s t sh passes gm afmt → fits → 4 ≤ (s.arr t).queue.length → Completes c s (fun s' =>
        (s'.seq t).stall = some c ∧ s'.pc t = s.pc t ∧ s'.arr t = s.arr t ∧ SameMemory s s'))
    ∧ (computeLegal s t sh passes gm afmt → fits → (s.arr t).queue = [] → arrFrozen s t = true → Completes c s (fun s' =>
        (s'.arr t).queue.length = 1 ∧ (s'.arr t).accum = (s.arr t).accum ∧ s'.pc t = s.pc t + 4 ∧ SameMemory s s'))

/-- The conditions under which a compute runs at once (ComputeWritesItsOutput), with no shadow load under way. -/
def Sys2Proof.Claims.computeRuns (s : State) (t : Tile) (sh : Shape) (passes : BitVec 2) (ga gm gd : GReg) (afmt : BitVec 4) : Prop :=
  let a := (s.g t ga).toNat
  let m := (Machine.fld (s.g t gm) 0 11).toNat
  let last := streamEnd sh a m (passCycles s t passes) (fmtWidth afmt.toNat)
  Ready s t ∧ saving s t = false ∧ computeLegal s t sh passes gm afmt ∧ intMode afmt.toNat (s.arr t).curFmt.toNat = false
  ∧ a % 256 = 0 ∧ last ≤ cistSize ∧ (Machine.fld (s.g t gd) 0 10).toNat + outRows sh m ≤ 1024 ∧ (s.arr t).queue = []
  ∧ arrFrozen s t = false ∧ (s.arr t).shadow = none ∧ owes s t (s.mem t).launch a (last - a) = false
  ∧ cistBad s t a (last - a) = false ∧ (s.arr t).accUe = [] ∧ (s.arr t).b.n ≤ 256

/-- A compute has run: the sequencer goes on, its output elements are the drained sums of the joined blocks, and no byte
changes. -/
def Sys2Proof.Claims.computeRan (s : State) (t : Tile) (sh : Shape) (passes : BitVec 2) (acc : Bool) (ga gm gd : GReg)
    (afmt : BitVec 4) (s' : State) : Prop :=
  let m := (Machine.fld (s.g t gm) 0 11).toNat
  let d := (Machine.fld (s.g t gd) 0 10).toNat
  let j := jobOf sh passes (s.g t ga).toNat m afmt (s.arr t).curFmt (fmode s t)
  s'.pc t = s.pc t + 4 ∧ SameMemory s s'
  ∧ ∀ x ∈ quadrants sh (s.arr t).b.n, ∀ i, i < m → ∀ c, c < x.2.2.1 →
      SMap.get zeroW (s'.arr t).accum ((d + x.2.2.2.2 * m + i) * 256 + (x.2.1 + c)) =
        drainFloat acc (SMap.get zeroW (s.arr t).accum ((d + x.2.2.2.2 * m + i) * 256 + (x.2.1 + c)))
          (joinFloat j (s.arr t).b (aRow (s.mem t).cist j x.1 i) x.2.2.2.1 (x.2.1 + c))

/-- R69, R77, R79: mmFull, mmHalf, mmQuad and mmNarrow each complete where computeRuns holds of their shape. -/
def Sys2Proof.Claims.EachComputeCompletes : Prop :=
  ∀ (t : Tile) (passes : BitVec 2) (acc : Bool) (ga gm gd : GReg) (afmt : BitVec 4) (s : State),
    let runs := fun sh => computeRuns s t sh passes ga gm gd afmt
    let ran := fun sh => computeRan s t sh passes acc ga gm gd afmt
    (runs .full → ∃ s', Sys2Proof.Machine.exec (.mmFull t passes acc ga gm gd afmt) s = .next s' ∧ ran .full s')
    ∧ (runs .half → ∃ s', Sys2Proof.Machine.exec (.mmHalf t passes acc ga gm gd afmt) s = .next s' ∧ ran .half s')
    ∧ (runs .quad → ∃ s', Sys2Proof.Machine.exec (.mmQuad t passes acc ga gm gd afmt) s = .next s' ∧ ran .quad s')
    ∧ (runs .narrow → ∃ s', Sys2Proof.Machine.exec (.mmNarrow t passes acc ga gm gd afmt) s = .next s' ∧ ran .narrow s')

/-- Computes enter the array queue and add to the store of the array: ComputeWritesItsOutput and ComputeIssue and
EachComputeCompletes. -/
def Obligations.ArrayCompute : Prop :=
  Sys2Proof.Claims.ComputeWritesItsOutput ∧ Sys2Proof.Claims.ComputeIssue ∧ Sys2Proof.Claims.EachComputeCompletes

/-- R60, R64, R65: MM.LDB at an idle array opens a shadow load of its shape, format and source, and the B in use stays;
the load completes with the image its bytes spell, and the tile's next compute takes it. MM.WAIT goes on at an empty
queue and stands at another. -/
def Sys2Proof.Claims.ShadowLoad : Prop :=
  ∀ (t : Tile) (s : State),
    (∀ (sh : Shape) (bfmt : BitVec 4) (gb gn : GReg), Ready s t → saving s t = false →
      let n := if sh = .narrow then (Machine.fld (s.g t gn) 0 6).toNat else shapeCols sh 0
      let b := (s.g t gb).toNat
      bfmt.toNat ≤ 10 → n ≠ 0 → (sh = .narrow → n ≤ 32) → b % 256 = 0 → b + imageSize sh (fmtWidth bfmt.toNat) ≤ cistSize →
      (s.arr t).queue = [] → Completes (.mmLdb t sh bfmt gb gn) s (fun s' =>
        (∃ x, (s'.arr t).shadow = some x ∧ x.shape = sh ∧ x.fmt = bfmt ∧ x.n = n ∧ x.src = b ∧ x.fmode = fmode s t ∧ x.img = none)
        ∧ (s'.arr t).b = (s.arr t).b ∧ (s'.arr t).accum = (s.arr t).accum ∧ (s'.arr t).curShape = sh ∧ (s'.arr t).curFmt = bfmt
        ∧ s'.pc t = s.pc t + 4 ∧ (∀ r, s'.g t r = s.g t r) ∧ SameMemory s s'))
    ∧ (∀ x : Shadow, dmaLive s t = true → (s.arr t).shadow = some x → x.img = none → (s.arr t).queue = [] → (s.seq t).stall = none →
      owes s t x.ord x.src (imageSize x.shape (fmtWidth x.fmt.toNat)) = false →
      cistBad s t x.src (imageSize x.shape (fmtWidth x.fmt.toNat)) = false →
      let l := loadImage (s.mem t).cist x.shape x.fmt x.n x.src (bit x.fmode 3)
      Completes (.bLoadComplete t) s (fun s' =>
        (s'.arr t).shadow = some { x with img := some (l.img.keep (s.arr t).other) } ∧ (s'.arr t).b = (s.arr t).b
        ∧ (s'.arr t).accum = (s.arr t).accum ∧ (l.hdr ≠ 0 → s'.rbit (tilePage t 2 + 0x010) 0 = true)
        ∧ s'.pc t = s.pc t ∧ SameMemory s s'))
    ∧ (Ready s t →
        ((s.arr t).queue = [] → Completes (.mmWait t) s (fun s' => s'.pc t = s.pc t + 4 ∧ RegisterFrame t [] s s'))
        ∧ ((s.arr t).queue ≠ [] → Completes (.mmWait t) s (fun s' =>
          (s'.seq t).stall = some (.mmWait t) ∧ s'.pc t = s.pc t ∧ RegisterFrame t [] s s')))

/-- R74, R94, R105: a readout at an idle array writes each of its rows, in order, at its pitch in the cistern: 256 results
packed in the output format, each the stored value times the scale. With clr the rows read are left zero. No word it
reads is uncorrectable. -/
def Sys2Proof.Claims.ReadoutWritesRows : Prop :=
  ∀ (t : Tile) (gs gc : GReg) (ofmt : BitVec 4) (gk : GReg) (clr int : Bool) (s : State), Ready s t → saving s t = false →
    let first := (Machine.fld (s.g t gs) 0 10).toNat
    let count := (Machine.fld (s.g t gs) 16 11).toNat
    let c := (s.g t gc).toNat
    let w := fmtWidth ofmt.toNat
    let scale := f32.dec (if gk = 0 then 0x3F800000 else (s.g t gk).toNat)
    let val := fun i n => if int = true then intFVal (acc64 (s.arr t) i n)
      else f32.dec (SMap.get zeroW (s.arr t).accum (i * 256 + n)).toNat
    1 ≤ count → first + count ≤ (if int = true then 512 else 1024) → ofmt ≠ 0 → ofmt.toNat ≤ 10 → c % 256 = 0 →
    c + (count - 1) * rdoutPitch ofmt.toNat + 32 * w ≤ cistSize → (s.arr t).queue = [] → (s.arr t).accUe = [] →
      Completes (.mmRdout t gs gc ofmt gk clr int) s (fun s' =>
        (∀ j, j < count → Mem.readN (s'.mem t).cist (c + j * rdoutPitch ofmt.toNat) (32 * w) =
          packBytes w ((List.range 256).map fun n =>
            (rdoutOne ofmt.toNat (s.rbit (fmodeAddr t) 3) (s.rbit (fmodeAddr t) 4) (mulVal (val (first + j) n) scale)).1))
        ∧ (∀ a, (∀ j, j < count → a < c + j * rdoutPitch ofmt.toNat ∨ c + j * rdoutPitch ofmt.toNat + 32 * w ≤ a) →
          Mem.read (s'.mem t).cist a = Mem.read (s.mem t).cist a)
        ∧ (clr = true → int = false → ∀ i n, first ≤ i → i < first + count → n < 256 →
          SMap.get zeroW (s'.arr t).accum (i * 256 + n) = 0)
        ∧ (clr = false → (s'.arr t).accum = (s.arr t).accum)
        ∧ (∀ a, Mem.read s'.wells a = Mem.read s.wells a) ∧ s'.pc t = s.pc t + 4 ∧ ∀ r, s'.g t r = s.g t r)

/-- The shadow load and the readout of rows: ShadowLoad and ReadoutWritesRows. -/
def Obligations.ArrayLoadsAndReadout : Prop :=
  Sys2Proof.Claims.ShadowLoad ∧ Sys2Proof.Claims.ReadoutWritesRows

/-- R75, R323: a parity check of a cell row of the active B finds nothing and changes nothing, or counts the error, sets
EVT_STS.b_parity and fences the tile.
A clause that leaves the state as it is states the model's choice of log 1, for a command that nothing enables. -/
def Sys2Proof.Claims.ParityCheck : Prop :=
  ∀ (t : Tile) (row : Fin 256) (s : State),
    let cell := fun n => SMap.get cellD (s.arr t).b.cells (row.val * 256 + n)
    ((∀ n, n < 256 → (cell n).parity = cellParity (cell n)) → Completes (.bParityCheck t row) s (fun s' => s' = s))
    ∧ ((∃ n, n < 256 ∧ (cell n).parity ≠ cellParity (cell n)) → Completes (.bParityCheck t row) s (fun s' =>
        (s'.seq t).fenced = true ∧ s'.rbit (tilePage t 2 + 0x010) 1 = true
        ∧ s'.reg (tilePage t 2 + 0x024) = satAdd (s.reg (tilePage t 2 + 0x024)) 1
        ∧ (s'.mem t).sb = [] ∧ SameMemory s s'))

/-- R61: ARR_SPARE is the service processor's alone; it takes 0 … 32 or 63 in every group while the array is idle, and
rejects anything else as a whole with EVT_STS.spare_reject. -/
def Sys2Proof.Claims.ArraySpares : Prop :=
  ∀ (m : Master) (t : Tile) (hi : Bool) (v : BitVec 32) (s : State),
    let a := tilePage t 2 + (if hi = true then 0x04C else 0x048)
    let ok := (∀ g, g < 4 → (Machine.fld v (8 * g) 6).toNat ≤ 32 ∨ (Machine.fld v (8 * g) 6).toNat = 63) ∧ (s.arr t).queue = []
    (m = .svp → ok → Completes (.arrSpareWrite m t hi v) s (fun s' =>
      s'.reg a = v &&& 0x3F3F3F3F ∧ SameRegs [a] s s' ∧ SameRest s s'
        ∧ (∀ u, s'.seq u = s.seq u ∧ s'.vec u = s.vec u ∧ s'.mem u = s.mem u ∧ (u ≠ t → s'.arr u = s.arr u))
        ∧ (s'.arr t).queue = (s.arr t).queue ∧ (s'.arr t).accum = (s.arr t).accum
        ∧ (s'.arr t).b = { (s.arr t).b with cells := moveCells (spareMap s t) (spareMap s' t) (s.arr t).b.cells }))
    ∧ (m = .svp → ¬ ok → Completes (.arrSpareWrite m t hi v) s (fun s' =>
      s'.rbit (tilePage t 2 + 0x010) 4 = true ∧ s'.reg a = s.reg a ∧ s'.cores = s.cores))
    ∧ (m ≠ .svp → Completes (.arrSpareWrite m t hi v) s (fun s' =>
      s'.reg (hubPage 0 + 0x044) = satAdd (s.reg (hubPage 0 + 0x044)) 1 ∧ s'.reg a = s.reg a ∧ s'.cores = s.cores))

/-- Row parity and spare cell rows: ParityCheck and ArraySpares. -/
def Obligations.ArrayParityAndSpares : Prop :=
  Sys2Proof.Claims.ParityCheck ∧ Sys2Proof.Claims.ArraySpares

/-! ## DMA -/

/-- Nothing else at the tile moves on by itself: no instruction stands, and the array queue is empty. -/
def Sys2Proof.Claims.quiet (s : State) (t : Tile) : Prop := (s.seq t).stall = none ∧ (s.arr t).queue = []

/-- No quarter of the tile's cistern holds an error. -/
def Sys2Proof.Claims.cleanCistern (s : State) (t : Tile) : Prop := (s.mem t).cistUe = [] ∧ (s.mem t).cistCe = []

/-- R122, R123: DMA.GO reads a 64-byte descriptor at an aligned cistern offset and queues it with its tag, traps on any
other offset, and stands while eight are queued. DMA.WAIT with all waits for the queue to be empty and else for its tag,
and reads the status; DMA.PROG reads the granules done. No transfer of the tile is due into the descriptor. -/
def Sys2Proof.Claims.DmaInstructions : Prop :=
  ∀ (t : Tile) (ch : Chan) (gr gd : GReg) (tag : BitVec 8) (s : State), Ready s t →
    let x := (s.g t gr).toNat
    let q := (s.dma t ch).queue
    let waits := fun (c : Instr) (s' : State) => (s'.seq t).stall = some c ∧ s'.pc t = s.pc t ∧ RegisterFrame t [] s s'
    (x % 64 = 0 → x + 64 ≤ cistSize →
      (q.length < 8 → cleanCistern s t → owes s t (s.mem t).launch x 64 = false → Completes (.dmaGo t ch gr tag) s (fun s' =>
        (∃ d, (s'.dma t ch).queue = q ++ [d] ∧ d.off = x ∧ d.tag = tag ∧ d.ord = (s.mem t).launch
          ∧ d.w = bytesLine (Mem.readN (s.mem t).cist x 64))
        ∧ (s'.mem t).launch = (s.mem t).launch + 1 ∧ s'.reg (dmaSts t ch) = s.reg (dmaSts t ch)
        ∧ s'.pc t = s.pc t + 4 ∧ (∀ r, s'.g t r = s.g t r) ∧ SameMemory s s'))
      ∧ (8 ≤ q.length → Completes (.dmaGo t ch gr tag) s (waits (.dmaGo t ch gr tag))))
    ∧ ((x % 64 ≠ 0 ∨ cistSize < x + 64) → Completes (.dmaGo t ch gr tag) s (fun s' =>
        (s'.seq t).trap = true ∧ s'.reg (trapCause t) = 3 ∧ s'.reg (trapAddrLo t) = BitVec.ofNat 32 x ∧ s'.pc t = s.pc t
        ∧ s'.mem t = s.mem t))
    ∧ (q = [] → Completes (.dmaWait t ch true gd tag) s (WritesReg t gd ((s.dma t ch).lastEnded.setWidth 32) s))
    ∧ (q ≠ [] → Completes (.dmaWait t ch true gd tag) s (waits (.dmaWait t ch true gd tag)))
    ∧ (tagOut s t ch tag = false → Completes (.dmaWait t ch false gd tag) s
        (WritesReg t gd ((SMap.get tag0 (s.dma t ch).tags tag.toNat).setWidth 32) s))
    ∧ (tagOut s t ch tag = true → Completes (.dmaWait t ch false gd tag) s (waits (.dmaWait t ch false gd tag)))
    ∧ Completes (.dmaProg t ch gd) s (WritesReg t gd (if (s.dma t ch).started = true then BitVec.ofNat 32 (s.dma t ch).done
        else s.reg (dmaPage t ch + 0x048)) s)

/-- The command that starts a descriptor, by its mode (R124). -/
def Sys2Proof.Claims.startOf (d : DmaDesc) (t : Tile) (ch : Chan) : Instr :=
  match dMode d with
  | 0 => .dmaLinear t ch
  | 1 => .dmaStrided t ch
  | 2 => if isScatter d then .dmaScatter t ch else .dmaGather t ch
  | 3 => .dmaSkew t ch
  | 4 => .dmaTranspose t ch
  | 5 => .dmaRaggedWalk t ch
  | 6 => .dmaEngineCommandList t ch
  | 7 => .dmaCisternFill t ch
  | 8 => .dmaCisternCopy t ch
  | _ => .dmaModeUndefined t ch

/-- R124, R126, R132: an idle channel starts the descriptor at its head in whichever of the modes it names: it is running,
DMA_STS shows its tag, DMA_DESC its offset, and nothing has moved. A descriptor that a check of R126 rejects, of an
undefined mode among others, halts the channel with EVT_STS.halt_desc and status 2 of its tag. -/
def Sys2Proof.Claims.DmaStarts : Prop :=
  ∀ (t : Tile) (ch : Chan) (d : DmaDesc) (rest : List DmaDesc) (s : State),
    dmaLive s t = true → quiet s t → (s.dma t ch).queue = d :: rest → (s.dma t ch).started = false → dmaState s t ch = 0 →
      (dmaValid d = true → 0 < dmaCount (s.mem t).cist d → Completes (startOf d t ch) s (fun s' =>
        dmaState s' t ch = 1 ∧ (s'.dma t ch).started = true ∧ (s'.dma t ch).done = 0 ∧ (s'.dma t ch).queue = d :: rest
        ∧ Machine.fld (s'.reg (dmaSts t ch)) 7 8 = d.tag ∧ s'.reg (dmaPage t ch + 0x060) = BitVec.ofNat 32 d.off
        ∧ SameMemory s s' ∧ ∀ r, s'.g t r = s.g t r))
      ∧ (dmaValid d = false → Completes (startOf d t ch) s (fun s' =>
        dmaState s' t ch = 4 ∧ s'.rbit (dmaPage t ch + 0x010) 3 = true
        ∧ SMap.get tag0 (s'.dma t ch).tags d.tag.toNat = 2 ∧ (s'.dma t ch).queue = d :: rest))
      ∧ (9 ≤ dMode d → dmaValid d = false)

/-- R124, R126, R132: where each start of a descriptor completes, by the mode of the descriptor at the head of an idle
channel's queue: dmaLinear, dmaStrided, dmaGather, dmaScatter, dmaSkew, dmaTranspose, dmaRaggedWalk, dmaEngineCommandList,
dmaCisternFill and dmaCisternCopy start it where it passes its checks; dmaModeUndefined halts the channel with status 2 of
the tag. -/
def Sys2Proof.Claims.EachModeStarts : Prop :=
  ∀ (t : Tile) (ch : Chan) (d : DmaDesc) (rest : List DmaDesc) (s : State),
    dmaLive s t = true → quiet s t → (s.dma t ch).queue = d :: rest → (s.dma t ch).started = false → dmaState s t ch = 0 →
    let started := fun (s' : State) =>
      dmaState s' t ch = 1 ∧ (s'.dma t ch).started = true ∧ (s'.dma t ch).done = 0 ∧ (s'.dma t ch).queue = d :: rest ∧ SameMemory s s'
    (dmaValid d = true → 0 < dmaCount (s.mem t).cist d →
      (dMode d = 0 → ∃ s', Sys2Proof.Machine.exec (.dmaLinear t ch) s = .next s' ∧ started s')
      ∧ (dMode d = 1 → ∃ s', Sys2Proof.Machine.exec (.dmaStrided t ch) s = .next s' ∧ started s')
      ∧ (dMode d = 2 → isScatter d = false → ∃ s', Sys2Proof.Machine.exec (.dmaGather t ch) s = .next s' ∧ started s')
      ∧ (dMode d = 2 → isScatter d = true → ∃ s', Sys2Proof.Machine.exec (.dmaScatter t ch) s = .next s' ∧ started s')
      ∧ (dMode d = 3 → ∃ s', Sys2Proof.Machine.exec (.dmaSkew t ch) s = .next s' ∧ started s')
      ∧ (dMode d = 4 → ∃ s', Sys2Proof.Machine.exec (.dmaTranspose t ch) s = .next s' ∧ started s')
      ∧ (dMode d = 5 → ∃ s', Sys2Proof.Machine.exec (.dmaRaggedWalk t ch) s = .next s' ∧ started s')
      ∧ (dMode d = 6 → ∃ s', Sys2Proof.Machine.exec (.dmaEngineCommandList t ch) s = .next s' ∧ started s')
      ∧ (dMode d = 7 → ∃ s', Sys2Proof.Machine.exec (.dmaCisternFill t ch) s = .next s' ∧ started s')
      ∧ (dMode d = 8 → ∃ s', Sys2Proof.Machine.exec (.dmaCisternCopy t ch) s = .next s' ∧ started s'))
    ∧ (9 ≤ dMode d → ∃ s', Sys2Proof.Machine.exec (.dmaModeUndefined t ch) s = .next s' ∧ dmaState s' t ch = 4
        ∧ s'.rbit (dmaPage t ch + 0x010) 3 = true ∧ SMap.get tag0 (s'.dma t ch).tags d.tag.toNat = 2)

/-- DMA instructions, and the start of a transfer: DmaInstructions and DmaStarts and EachModeStarts. -/
def Obligations.DmaIssue : Prop :=
  Sys2Proof.Claims.DmaInstructions ∧ Sys2Proof.Claims.DmaStarts ∧ Sys2Proof.Claims.EachModeStarts

/-- R124, R132: the next granule of a running descriptor that reads and writes the own cistern writes exactly the bytes
its walk plans there, out of the source granules that the channel holds or that it reads as they stand, and counts itself
done; the descriptor keeps what its table said. More granules are left, no
transfer is due into what it reads, and the store buffer holds no more than its 64 entries. -/
def Sys2Proof.Claims.DmaGranuleMoves : Prop :=
  ∀ (t : Tile) (ch : Chan) (d : DmaDesc) (rest : List DmaDesc) (g : Gran) (s : State),
    dmaLive s t = true → quiet s t → (s.dma t ch).queue = d :: rest → (s.dma t ch).started = true → dmaState s t ch = 1 →
    dMode d ≠ 6 → dSsp d = false → dDsp d = false → cleanCistern s t → (s.mem t).sb.length ≤ 64 →
    dmaAt (s.mem t).cist d (s.dma t ch).done (Config.freeBits s.freeCtr).toNat = some g → g.bad = false →
    (∀ x ∈ g.tabs, owes s t d.ord x.1 x.2 = false) → (∀ x ∈ g.srcs, owes s t d.ord x 64 = false) →
    let k := if dMode d = 7 ∨ dMode d = 8 then g.len / 64 else 1
    let held := fun x => (s.dma t ch).buf.any (·.1 == x)
    let src := fun x => if held x = true then SMap.get line0 (s.dma t ch).buf x else bytesLine (Mem.readN (s.mem t).cist x 64)
    let bs := (g.data (readByte (g.srcs.map fun x => (x, src x)))).take g.len
    let d1 := { d with ents := entsAt (s.mem t).cist d (s.dma t ch).done }
    let moved := fun (cist : List Host.Cell) => ∀ a, Mem.read cist a =
      if g.dst ≤ a ∧ a < g.dst + bs.length then bs.getD (a - g.dst) 0 else Mem.read (s.mem t).cist a
    (∀ cist, moved cist → (s.dma t ch).done + k < dmaCount cist d1) →
      Completes (.dmaGranule t ch) s (fun s' =>
        moved (s'.mem t).cist
        ∧ (s'.dma t ch).done = (s.dma t ch).done + k ∧ (s'.dma t ch).queue = d1 :: rest ∧ dmaState s' t ch = 1
        ∧ s'.reg (dmaPage t ch + 0x05C) = satAdd (s.reg (dmaPage t ch + 0x05C)) k
        ∧ (∀ u, u ≠ t → s'.core u = s.core u) ∧ (∀ a, Mem.read s'.wells a = Mem.read s.wells a) ∧ ∀ r, s'.g t r = s.g t r)

/-- R124, R131: what the walk of a linear move, a fill and a copy plans at granule i, of a descriptor that passed its
checks: 64 bytes of a linear move, 256 of a fill by its 8-byte pattern, 256 or the last 64 of a copy. -/
def Sys2Proof.Claims.WalksOfPlainModes : Prop :=
  ∀ (cist : List Host.Cell) (d : DmaDesc) (i free : Nat) (mem : Nat → Byte), i < dmaCount cist d → dSsp d = false → dDsp d = false →
    dmaValid d = true →
    (dMode d = 0 → ∃ g, dmaAt cist d i free = some g ∧ g.dst = dDst d + 64 * i ∧ g.len = 64 ∧ g.srcs = [dSrc d + 64 * i]
      ∧ g.bad = false ∧ g.data mem = (List.range 64).map fun j => mem (dSrc d + 64 * i + j))
    ∧ (dMode d = 7 → ∃ g, dmaAt cist d i free = some g ∧ g.dst = dDst d + 64 * i ∧ g.len = 256 ∧ g.srcs = []
      ∧ ∀ j, j < 256 → (g.data mem).getD j 0 = BitVec.ofNat 8 (dword d 4 / 256 ^ (j % 8)))
    ∧ (dMode d = 8 → ∃ g, dmaAt cist d i free = some g ∧ g.dst = dDst d + 64 * i
      ∧ g.len = (if (i + 4) * 64 ≤ dPar d 3 0 22 then 256 else 64) ∧ g.bad = false
      ∧ g.data mem = (List.range g.len).map fun j => mem (dSrc d + 64 * i + j))

/-- A DMA transfer moves its granules in the order of its walk: DmaGranuleMoves and WalksOfPlainModes. -/
def Obligations.DmaTransfers : Prop :=
  Sys2Proof.Claims.DmaGranuleMoves ∧ Sys2Proof.Claims.WalksOfPlainModes

/-- R133, R208: a granule whose source address a tile of no enabled partition cannot translate puts its channel in fault
hold, with the address in DMA_FADDR and EVT_STS.fault; nothing moves, and the granule count stands. -/
def Sys2Proof.Claims.DmaFaultHold : Prop :=
  ∀ (t : Tile) (ch : Chan) (d : DmaDesc) (rest : List DmaDesc) (s : State),
    dmaLive s t = true → quiet s t → (s.dma t ch).queue = d :: rest → (s.dma t ch).started = true → dmaState s t ch = 1 →
    dMode d = 0 → dSsp d = true → (dDsp d = true ∨ dDst d + dPar d 3 0 32 ≤ cistSize) → dSrc d % 64 = 0 → partOf s t = none → (s.dma t ch).done < dmaCount (s.mem t).cist d →
      Completes (.dmaGranule t ch) s (fun s' =>
        let a := (dSrc d + 64 * (s.dma t ch).done) % 2 ^ 48
        dmaState s' t ch = 2 ∧ s'.rbit (dmaPage t ch + 0x010) 1 = true ∧ (s'.dma t ch).done = (s.dma t ch).done
        ∧ s'.reg (dmaPage t ch + 0x050) = BitVec.ofNat 32 a ∧ s'.reg (dmaPage t ch + 0x054) = BitVec.ofNat 32 (a / 2 ^ 32)
        ∧ (s'.dma t ch).queue = d :: rest ∧ ∀ x, Mem.read s'.wells x = Mem.read s.wells x)

/-- R135, Table 5.8, R257: resume takes a channel out of fault hold, clear ends a halted descriptor, abort discards the
queue and gives every outstanding tag status 3: ordered by the tile's own instruction, or through DMA_CTL by a master
that may write. In another state resume and clear change nothing. -/
def Sys2Proof.Claims.DmaActions : Prop :=
  ∀ (who : DmaOrder) (t : Tile) (ch : Chan) (s : State),
    (match who with | .instr => Ready s t | .reg m => mayWrite s m (dmaPage t ch) = true) → quiet s t →
    let st := dmaState s t ch
    let q := (s.dma t ch).queue
    let pcMoves := fun (s' : State) => s'.pc t = if who = .instr then s.pc t + 4 else s.pc t
    Completes (.dmaResume who t ch) s (fun s' =>
      dmaState s' t ch = (if st = 2 then 1 else st) ∧ (s'.dma t ch) = s.dma t ch ∧ pcMoves s' ∧ SameMemory s s')
    ∧ Completes (.dmaClear who t ch) s (fun s' =>
      dmaState s' t ch = (if st = 3 ∨ st = 4 then 0 else st)
      ∧ (s'.dma t ch).queue = (if st = 3 ∨ st = 4 then q.drop 1 else q) ∧ (s'.dma t ch).tags = (s.dma t ch).tags
      ∧ pcMoves s' ∧ SameMemory s s')
    ∧ Completes (.dmaAbort who t ch) s (fun s' =>
      (s'.dma t ch).queue = [] ∧ (q ≠ [] → dmaState s' t ch = 0 ∧ (s'.dma t ch).lastEnded = 3)
      ∧ (∀ d ∈ (if 3 ≤ st then q.drop 1 else q), SMap.get tag0 (s'.dma t ch).tags d.tag.toNat = 3) ∧ pcMoves s')

/-- A DMA fault holds the channel until it is acted on: DmaFaultHold and DmaActions. -/
def Obligations.DmaFaults : Prop :=
  Sys2Proof.Claims.DmaFaultHold ∧ Sys2Proof.Claims.DmaActions

/-! ## Well engines -/

/-- R150, R151: an entry that passes every check, all its operands in pages of one bank that translations the engine holds
give, is accepted and, with room there, stands in the queue of its bank: the tile's own instruction goes on, and an entry
presented to the controller changes nothing else. The controller queue is empty, and no store of the tile to the bank
waits. -/
def Sys2Proof.Claims.EngineAccepts : Prop :=
  ∀ (t : Tile) (e : BitVec 128) (zs xs ys : List Nat) (b : Nat) (s : State),
    let s0 := noteIssue s t
    let cmd : EngCmd :=
      { entry := e, tile := t, z := zs.map (· % wellSize), x := xs.map (· % wellSize), y := ys.map (· % wellSize)
        list := none, scrub := false, ord := (s.mem t).launch }
    let k := bankKey s t (cmdBank cmd)
    let free := fun (s : State) => eReason e = none ∧ engXlate s t e = (.ok (zs, xs, ys), s) ∧ oneBank t (zs ++ xs ++ ys) = some b
      ∧ (eWrites e && zs.any (pageTwinned s t) && !(xs ++ ys).all (pageTwinned s t)) = false
      ∧ (eWrites e && guardHit s t (eZ e) (64 * eZlen e)) = false ∧ (s.mem t).engQ = [] ∧ bankStores s t b = false
      ∧ (s.bank k).queue.length < 4
    (fieldRuns s (tileField t) = true → free s → Completes (.engEntryAccept t e) s (fun s' =>
      (s'.bank k).queue = (s.bank k).queue ++ [cmd] ∧ (s'.bank k).running = (s.bank k).running ∧ (∀ j, j ≠ k → s'.bank j = s.bank j)
      ∧ (s'.mem t).launch = (s.mem t).launch + 1 ∧ (s'.mem t).engQ = [] ∧ SameMemory s s' ∧ SameRegs [] s s'))
    ∧ (∀ gr : GReg, Ready s t → cleanCistern s t → (s.g t gr).toNat % 16 = 0 → (s.g t gr).toNat + 16 ≤ cistSize →
        owes s t (s.mem t).launch (s.g t gr).toNat 16 = false → BitVec.ofNat 128 (Mem.readLe (s.mem t).cist (s.g t gr).toNat 16) = e →
        free s0 → Completes (.engIssue t gr) s (fun s' =>
          (s'.bank k).queue = (s.bank k).queue ++ [cmd] ∧ (∀ j, j ≠ k → s'.bank j = s.bank j) ∧ s'.pc t = s.pc t + 4
          ∧ (∀ r, s'.g t r = s.g t r) ∧ SameMemory s s'))

/-- R150: an entry that its own fields condemn is rejected: EVT_STS.eng_reject, ENG_ERR keeps the first reason, and
no queue takes it. An undefined sub-op or a length of 0 is reason 1. -/
def Sys2Proof.Claims.EngineRejects : Prop :=
  ∀ (t : Tile) (e : BitVec 128) (n : Nat) (s : State), eReason e = some n → fieldRuns s (tileField t) = true →
    Completes (.engEntryAccept t e) s (fun s' =>
      s'.rbit (tilePage t 9 + 0x010) 1 = true ∧ s'.banks = s.banks ∧ s'.cores = s.cores
      ∧ s'.reg (tilePage t 9 + 0x070) =
        if Machine.fld (s.reg (tilePage t 9 + 0x070)) 0 4 = 0 then BitVec.ofNat 32 n else s.reg (tilePage t 9 + 0x070))
    ∧ ((n = 1 ∨ n = 2 ∨ n = 5) ∧ (eOp e = 0 ∨ 8 < eOp e ∨ eLen e = 0 → n = 1))

/-- R151: ENG.WAIT goes on when every command of the tile launched before it has completed, with 1 in gd where one has
met an uncorrectable operand, and stands until then. -/
def Sys2Proof.Claims.EngineWait : Prop :=
  ∀ (t : Tile) (gd : GReg) (s : State), Ready s t →
    let due := (s.mem t).engQ.any (cmdBefore t (s.mem t).launch) || s.banks.any fun b => b.2.queue.any (cmdBefore t (s.mem t).launch)
    (due = false → Completes (.engWait t gd) s (WritesReg t gd (if (s.mem t).engErr = true then 1 else 0) s))
    ∧ (due = true → Completes (.engWait t gd) s (fun s' =>
        (s'.seq t).stall = some (.engWait t gd) ∧ s'.pc t = s.pc t ∧ RegisterFrame t [] s s'))

/-- Engine commands are accepted, rejected and waited for: EngineAccepts and EngineRejects and EngineWait. -/
def Obligations.EngineQueues : Prop :=
  Sys2Proof.Claims.EngineAccepts ∧ Sys2Proof.Claims.EngineRejects ∧ Sys2Proof.Claims.EngineWait

/-- The command that starts each sub-op of Table 6.3. -/
def Sys2Proof.Claims.engStarts (t : Tile) (bank : Fin 32) : List (Nat × Instr) :=
  [(1, .wadd t bank), (2, .wscale t bank), (3, .waxpy t bank), (4, .wreduce t bank), (5, .wfill t bank), (6, .wcopy t bank),
   (7, .wxpnd t bank), (8, .wscrub t bank)]

/-- R148, R152, R161: a bank's engine starts the command at the head of its queue, of the sub-op named, where the field's
clock runs, the well is awake and the bank's layer is not excluded: it is executing, and its queue, every other bank and
every byte stay. A head of another sub-op is not started.
A clause that leaves the state as it is states the model's choice of log 1, for a command that nothing enables. -/
def Sys2Proof.Claims.EngineStarts : Prop :=
  ∀ (t : Tile) (bank : Fin 32) (c : EngCmd) (rest : List EngCmd) (x : Nat × Instr) (s : State), x ∈ engStarts t bank →
    let k := bankKey s t bank.val
    (s.bank k).queue = c :: rest →
      (eOp c.entry = x.1 → c.tile = t → (s.bank k).running = false → engAwake s t = true → bankExcluded s k = false →
        Completes x.2 s (fun s' =>
          (s'.bank k).running = true ∧ (s'.bank k).queue = c :: rest ∧ (∀ j, j ≠ k → s'.bank j = s.bank j)
          ∧ SameMemory s s' ∧ SameRegs [] s s' ∧ s'.cores = s.cores))
      ∧ ((eOp c.entry ≠ x.1 ∨ bankExcluded s k = true ∨ engAwake s t = false) → Completes x.2 s (fun s' => s' = s))

/-- The home well of a tile has no twin, no decant link copies it, and no granule of it holds an error. -/
def Sys2Proof.Claims.plainPages (s : State) (t : Tile) : Prop :=
  (∀ o, twinOf s t o = none) ∧ decantCopy s t = none ∧ (∀ o, s.wellUe.contains (wellGran (homeShaft s t) o) = false)
  ∧ ∀ o, SMap.get zeroN s.wellCe (wellGran (homeShaft s t) o) = 0

/-- R148, R152, R154: a completed command leaves its bank, whose engine is free again. WFILL and WCOPY of any length write
their z granules and nothing else: every granule of z holds the pattern, or what x held before where z and x lie apart.
The well is neither twinned nor being decanted and holds no error, and nothing else waits at the tile. -/
def Sys2Proof.Claims.EngineFillAndCopy : Prop :=
  ∀ (t : Tile) (bank : Fin 32) (c : EngCmd) (rest : List EngCmd) (s : State),
    let k := bankKey s t bank.val
    let sh := homeShaft s t
    let z := fun i => opOff c.z (eZ c.entry) i / 64 * 64
    let x := fun i => opOff c.x (eX c.entry).toNat i / 64 * 64
    let n := eLen c.entry
    (s.bank k).queue = c :: rest → (s.bank k).running = true → c.tile = t → engAwake s t = true → bankExcluded s k = false →
    c.scrub = false → c.list = none → eEvt c.entry = false → quiet s t → (s.mem t).engQ = [] → plainPages s t →
    (∀ i j, i < n → j < n → z i = z j → i = j) →
      ((eOp c.entry = 5 ∨ (eOp c.entry = 6 ∧ eWbuf c.entry = false ∧ ∀ i j, i < n → j < n → x i ≠ z j)) →
        Completes (.engCommandComplete t bank) s (fun s' =>
          (∀ i, i < n → Mem.readN s'.wells (wellAt sh (z i)) 64 =
            if eOp c.entry = 5 then (List.range 16).flatMap fun _ => toLe 4 (eK c.entry) else Mem.readN s.wells (wellAt sh (x i)) 64)
          ∧ (∀ a, (∀ i, i < n → a < wellAt sh (z i) ∨ wellAt sh (z i) + 64 ≤ a) → Mem.read s'.wells a = Mem.read s.wells a)
          ∧ (s'.bank k).queue = rest ∧ (s'.bank k).running = false ∧ (∀ u a, Mem.read (s'.mem u).cist a = Mem.read (s.mem u).cist a)
          ∧ (s'.mem t).engErr = (s.mem t).engErr ∧ ∀ r, s'.g t r = s.g t r))

/-- R148, R94: the arithmetic of a granule: WADD sums in binary32 and rounds into the format, WSCALE multiplies by s,
WAXPY adds s times x to z with one rounding before the format's own, element by element. For a command of one granule in
a well without errors or twins that is what its z granule then holds. -/
def Sys2Proof.Claims.EngineArithmetic : Prop :=
  ∀ (t : Tile) (bank : Fin 32) (c : EngCmd) (rest : List EngCmd) (s : State),
    let k := bankKey s t bank.val
    let sh := homeShaft s t
    let f := eFmt c.entry
    let w := fmtWidth f
    let z := opOff c.z (eZ c.entry) 0
    let ex := granElems (shaftLine s sh (opOff c.x (eX c.entry).toNat 0)) w
    let ey := granElems (shaftLine s sh (opOff c.y (eY c.entry).toNat 0)) w
    let ez := granElems (shaftLine s sh z) w
    (s.bank k).queue = c :: rest → (s.bank k).running = true → c.tile = t → engAwake s t = true → bankExcluded s k = false →
    c.scrub = false → c.list = none → eEvt c.entry = false → quiet s t → (s.mem t).engQ = [] → plainPages s t →
    eLen c.entry = 1 → (f = 8 ∨ f = 9 ∨ f = 10) → 1 ≤ eOp c.entry → eOp c.entry ≤ 3 →
      Completes (.engCommandComplete t bank) s (fun s' =>
        (∀ i, i < 512 / w → nbits (shaftLine s' sh z).toNat (w * i) w =
          (match eOp c.entry with
            | 1 => fromF32 f (add32 (toF32 f (ex.getD i 0)) (toF32 f (ey.getD i 0)))
            | 2 => fromF32 f (mul32 (eS c.entry) (toF32 f (ex.getD i 0)))
            | _ => fromF32 f (fma32 (eS c.entry) (toF32 f (ex.getD i 0)) (toF32 f (ez.getD i 0)))) % 2 ^ w)
        ∧ (∀ a, (a < wellAt sh (z / 64 * 64) ∨ wellAt sh (z / 64 * 64) + 64 ≤ a) → Mem.read s'.wells a = Mem.read s.wells a)
        ∧ (s'.bank k).queue = rest ∧ (s'.mem t).engErr = (s.mem t).engErr)

/-- R159, R257: SCRUB_START.go starts a scrub where none runs and the range lies in the well: a WSCRUB stands at every
bank concerned whose queue of 4 has room; else EVT_STS.scrub_reject. When every bank has done its share the scrub ends
with its counts shown and EVT_STS.scrub_done. -/
def Sys2Proof.Claims.Scrub : Prop :=
  ∀ (m : Master) (t : Tile) (v : BitVec 32) (s : State),
    let a := (Machine.fld v 0 23).toNat
    let n := (Machine.fld (s.reg (scrubLenReg t)) 0 24).toNat
    let ok := (s.mem t).scrub = none ∧ n ≠ 0 ∧ a + n ≤ 0x800000
    (mayWrite s m (tilePage t 9) = true → bit v 31 = true →
      (ok → Completes (.scrubStart m t v) s (fun s' =>
        (∃ x, (s'.mem t).scrub = some x ∧ x.start = a ∧ x.len = n ∧ x.ce = 0 ∧ x.ue = 0 ∧ x.first = none
          ∧ ∀ b : Fin 32, b ∈ x.banks ↔ (scrubShare a n b.val).isSome = true)
        ∧ (∀ b : Fin 32, (s'.bank (bankKey s t b.val)).queue.length =
            (s.bank (bankKey s t b.val)).queue.length
              + if (scrubShare a n b.val).isSome = true ∧ (s.bank (bankKey s t b.val)).queue.length < 4 then 1 else 0)
        ∧ SameMemory s s'))
      ∧ (¬ ok → Completes (.scrubStart m t v) s (fun s' =>
        s'.rbit (tilePage t 9 + 0x010) 6 = true ∧ s'.cores = s.cores ∧ s'.banks = s.banks)))
    ∧ (∀ x, (s.mem t).scrub = some x → x.banks = [] → Completes (.scrubDone t) s (fun s' =>
        (s'.mem t).scrub = none ∧ s'.rbit (tilePage t 9 + 0x010) 5 = true
        ∧ s'.reg (tilePage t 9 + 0x07C) = BitVec.ofNat 32 x.ce ∧ s'.reg (tilePage t 9 + 0x080) = BitVec.ofNat 32 x.ue
        ∧ s'.reg (tilePage t 9 + 0x084) = (match x.first with | some g => BitVec.ofNat 32 (0x80000000 + g) | none => 0)
        ∧ SameMemory s s'))

/-- R148, R152: wadd, wscale, waxpy, wreduce, wfill, wcopy, wxpnd and wscrub each complete where the head of the bank's
queue is a command of the tile of that sub-op, the engine is free, the well awake and the layer not excluded. -/
def Sys2Proof.Claims.EachSubOpStarts : Prop :=
  ∀ (t : Tile) (bank : Fin 32) (c : EngCmd) (rest : List EngCmd) (s : State),
    let k := bankKey s t bank.val
    (s.bank k).queue = c :: rest → c.tile = t → (s.bank k).running = false → engAwake s t = true → bankExcluded s k = false →
    let going := fun (s' : State) => (s'.bank k).running = true ∧ (s'.bank k).queue = c :: rest ∧ SameMemory s s'
    (eOp c.entry = 1 → ∃ s', Sys2Proof.Machine.exec (.wadd t bank) s = .next s' ∧ going s')
    ∧ (eOp c.entry = 2 → ∃ s', Sys2Proof.Machine.exec (.wscale t bank) s = .next s' ∧ going s')
    ∧ (eOp c.entry = 3 → ∃ s', Sys2Proof.Machine.exec (.waxpy t bank) s = .next s' ∧ going s')
    ∧ (eOp c.entry = 4 → ∃ s', Sys2Proof.Machine.exec (.wreduce t bank) s = .next s' ∧ going s')
    ∧ (eOp c.entry = 5 → ∃ s', Sys2Proof.Machine.exec (.wfill t bank) s = .next s' ∧ going s')
    ∧ (eOp c.entry = 6 → ∃ s', Sys2Proof.Machine.exec (.wcopy t bank) s = .next s' ∧ going s')
    ∧ (eOp c.entry = 7 → ∃ s', Sys2Proof.Machine.exec (.wxpnd t bank) s = .next s' ∧ going s')
    ∧ (eOp c.entry = 8 → ∃ s', Sys2Proof.Machine.exec (.wscrub t bank) s = .next s' ∧ going s')

/-- What the engine commands and a scrub pass write: EngineStarts and EngineFillAndCopy and EngineArithmetic and Scrub and
EachSubOpStarts. -/
def Obligations.EngineResults : Prop :=
  Sys2Proof.Claims.EngineStarts ∧ Sys2Proof.Claims.EngineFillAndCopy ∧ Sys2Proof.Claims.EngineArithmetic ∧ Sys2Proof.Claims.Scrub ∧ Sys2Proof.Claims.EachSubOpStarts

/-! ## Wells, twins and field maps -/

/-- R146, R147: the mirror of a granule that has landed in its well reaches the twin's well, with the bytes of the
primary, once the fabric lets it through, and the entry retires; it waits while the twin's wells do not answer; where the
twin's field is dark the entry of the table is broken with EVT_STS.twin_broken and the twin stays. The retry of a lost
granule takes the twin's good copy, repairs the primary with it and counts it. Wells without a decant link. -/
def Sys2Proof.Claims.TwinWrites : Prop :=
  ∀ (t t' : Tile) (o e : Nat) (g : BitVec 48) (s : State), placeOf (g.toNat * 64) = .well t o → twinOf s t o = some (e, t') →
    let sh := homeShaft s t
    let sh' := homeShaft s t'
    (∀ b : SbEntry, fieldRuns s (tileField t) = true → quiet s t → sbFind s t g.toNat = some b → b.written = true → b.mirrored = false →
      b.mask = fullMask →
      (fieldDark s (tileField t') = false → fieldRuns s (tileField t') = true → (s.fld (tileField t')).selfRefresh = false →
        bankRefreshes s t' o = false → s.wellUe.contains (wellGran sh o) = false → (fabricGate s (.mirror t) t [mirrorLeg s t t' o]).1 = .go →
        decantCopy s t' = none → Completes (.twinMirror t g) s (fun s' =>
          (∀ a, Mem.read s'.wells a = if wellAt sh' (o / 64 * 64) ≤ a ∧ a < wellAt sh' (o / 64 * 64) + 64
            then Mem.read s.wells (wellAt sh (o / 64 * 64) + (a - wellAt sh' (o / 64 * 64))) else Mem.read s.wells a)
          ∧ sbFind s' t g.toNat = none))
      ∧ (wellsHeld s (tileField t') = true → Completes (.twinMirror t g) s (fun s' =>
          sbFind s' t g.toNat = some b ∧ ∀ a, Mem.read s'.wells a = Mem.read s.wells a))
      ∧ (fieldDark s (tileField t') = true → Completes (.twinMirror t g) s (fun s' =>
          s'.rbit (twinWord t e 3) 1 = true ∧ s'.rbit (tilePage t 9 + 0x010) 3 = true
          ∧ ∀ a, Mem.read s'.wells a = Mem.read s.wells a)))
    ∧ (∀ u : Tile, s.wellUe.contains (wellGran sh o) = true → fieldRuns s (tileField t) = true → (s.mem t).resync.contains e = false →
        fieldDark s (tileField t') = false → twinHeld s t o = false → s.wellUe.contains (wellGran sh' o) = false →
        Completes (.twinRetry u g) s (fun s' =>
          (∀ i, i < 64 → Mem.read s'.wells (wellAt sh (o / 64 * 64) + i) = Mem.read s.wells (wellAt sh' (o / 64 * 64) + i))
          ∧ s'.wellUe.contains (wellGran sh o) = false ∧ s'.reg (tilePage t 9 + 0x08C) = satAdd (s.reg (tilePage t 9 + 0x08C)) 1
          ∧ s'.rbit (tilePage t 9 + 0x010) 2 = true))

/-- R46, R145, R257: VSLOT and TWIN take a write while the tile is halted. VSLOT rejects the codes 0x9 … 0xF as a whole
with EVT_STS.vslot_reject and keeps 0x8 in slot 63; a TWIN entry left invalid is taken as written, and one that would be
valid against the rules is dropped with EVT_STS.twin_reject.
A clause that leaves the state as it is states the model's choice of log 1, for a command that nothing enables. -/
def Sys2Proof.Claims.SlotAndTwinTables : Prop :=
  ∀ (m : Master) (t : Tile) (v : BitVec 32) (s : State), mayWrite s m (tilePage t 9) = true →
    (∀ w : Fin 8,
      let a := tilePage t 9 + 0x040 + 4 * w.val
      let ok := halted s t = true ∧ ∀ i, i < 8 → (Machine.fld v (4 * i) 4).toNat ≤ 8
      (ok → Completes (.vslotWrite m t w v) s (fun s' =>
        s'.reg a = (if w.val = 7 then setFld v 28 (8 : BitVec 4) else v) ∧ SameRegs [a] s s' ∧ s'.cores = s.cores ∧ SameRest s s'))
      ∧ (¬ ok → Completes (.vslotWrite m t w v) s (fun s' =>
        s'.reg a = s.reg a ∧ s'.rbit (tilePage t 9 + 0x010) 10 = true
        ∧ s'.reg (tilePage t 9 + 0x024) = satAdd (s.reg (tilePage t 9 + 0x024)) 1 ∧ s'.cores = s.cores)))
    ∧ (∀ (e : Fin 8) (word : Fin 4),
      let a := twinWord t e.val word.val
      let mask : Word := match word with | 0 => 0xFF | 1 => 0x1FF | 2 => 0x1FFF | 3 => 1
      let s1 := s.setReg a (v &&& mask)
      let bad := twinBad s1 t e.val (Machine.fld (s1.reg (twinWord t e.val 0)) 0 8).toNat
        (Machine.fld (s1.reg (twinWord t e.val 1)) 0 9).toNat (Machine.fld (s1.reg (twinWord t e.val 2)) 0 13).toNat
      (halted s t = false → Completes (.twinWrite m t e word v) s (fun s' => s' = s))
      ∧ (halted s t = true → s1.rbit (twinWord t e.val 3) 0 = false → Completes (.twinWrite m t e word v) s (fun s' =>
        s'.reg a = v &&& mask ∧ SameRegs [a] s s' ∧ SameMemory s s'))
      ∧ (halted s t = true → s1.rbit (twinWord t e.val 3) 0 = true → bad = false → Completes (.twinWrite m t e word v) s (fun s' =>
        (∀ i, i < 3 → s'.reg (twinWord t e.val i) = s1.reg (twinWord t e.val i)) ∧ twinLive s' t e.val = true ∧ SameMemory s s'))
      ∧ (halted s t = true → s1.rbit (twinWord t e.val 3) 0 = true → bad = true → Completes (.twinWrite m t e word v) s (fun s' =>
        s'.reg a = s.reg a ∧ s'.rbit (tilePage t 9 + 0x010) 4 = true ∧ s'.cores = s.cores)))

/-- Twins, the slot table and the twin table: TwinWrites and SlotAndTwinTables. -/
def Obligations.WellTables : Prop :=
  Sys2Proof.Claims.TwinWrites ∧ Sys2Proof.Claims.SlotAndTwinTables

/-- R23, R141: a refresh moves a running field's frame counter on, and changes no byte; a field in self-refresh, or whose
clock stands, is not refreshed. The wells leave self-refresh once the clock has run for 1 µs, and not before.
A clause that leaves the state as it is states the model's choice of log 1, for a command that nothing enables. -/
def Sys2Proof.Claims.RefreshAndSelfRefresh : Prop :=
  ∀ (f : Field) (s : State),
    (fieldRuns s f = true → (s.fld f).selfRefresh = false → Completes (.refresh f) s (fun s' =>
      (s'.fld f).frame = (s.fld f).frame + 1 ∧ (∀ h, h ≠ f → s'.fld h = s.fld h) ∧ SameMemory s s' ∧ SameRegs [] s s'))
    ∧ ((fieldRuns s f = false ∨ (s.fld f).selfRefresh = true) → Completes (.refresh f) s (fun s' => s' = s))
    ∧ ((s.fld f).selfRefresh = true → fieldRuns s f = true → (s.fld f).fclkSince + 1000 ≤ s.tsclk → s.hub.held = [] → (∀ u, quiet s u) →
        Completes (.selfRefreshExit f) s (fun s' =>
          (s'.fld f).selfRefresh = false ∧ (s'.fld f).supply = (s.fld f).supply ∧ SameMemory s s'))
    ∧ (s.tsclk < (s.fld f).fclkSince + 1000 → Completes (.selfRefreshExit f) s (fun s' => s' = s))

/-- The remap or the well map of a field (R15, R18). -/
def Sys2Proof.Claims.mapWrite (wells : Bool) (m : Master) (f : Field) (v : BitVec 32) : Instr :=
  if wells = true then .fldWmapWrite m f v else .fldRemapWrite m f v

/-- R15, R17, R257: FLD_REMAP and FLD_WMAP are the service processor's alone. A value is taken whole where every segment
that changes goes between 15 and one position and all its tile ports are drained; it is else dropped whole, with
EVT_STS.map_reject. A remap keeps the state of every physical tile: the cores of a segment stay where they are under the
new map. -/
def Sys2Proof.Claims.FieldMaps : Prop :=
  ∀ (wells : Bool) (m : Master) (f : Field) (v : BitVec 32) (s : State),
    let a := if wells = true then fldWmap f else fldRemap f
    (m = .svp → mapOk s f (s.reg a) v = true → Completes (mapWrite wells m f v) s (fun s' =>
      s'.reg a = v ∧ SameRegs [a] s s' ∧ SameRest s s'
      ∧ (∀ seg j, seg < 8 → j < 12 → (physCore s' f seg j).mem = (physCore s f seg j).mem
          ∧ (physCore s' f seg j).arr = (physCore s f seg j).arr ∧ (physCore s' f seg j).vec = (physCore s f seg j).vec)))
    ∧ (m = .svp → mapOk s f (s.reg a) v = false → Completes (mapWrite wells m f v) s (fun s' =>
      s'.reg a = s.reg a ∧ s'.rbit (fieldPage f 0 + 0x010) 0 = true ∧ s'.cores = s.cores ∧ s'.spares = s.spares))
    ∧ (m ≠ .svp → Completes (mapWrite wells m f v) s (fun s' =>
      s'.reg a = s.reg a ∧ s'.reg (hubPage 0 + 0x044) = satAdd (s.reg (hubPage 0 + 0x044)) 1 ∧ s'.cores = s.cores
      ∧ s'.spares = s.spares))

/-- R25, R28: LTRIM is written by the service processor while the field's clock stands or the tile above is fenced, and is
dropped and logged else; transfers held at an adapter leave it once the field beyond runs or is absent, and stay while it
neither runs nor is absent.
A clause that leaves the state as it is states the model's choice of log 1, for a command that nothing enables. -/
def Sys2Proof.Claims.TrimAndHeldTransfers : Prop :=
  ∀ (f : Field) (s : State),
    (∀ (m : Master) (sh : Fin 96) (v : BitVec 32),
      let ok := m = .svp ∧ ((s.fld f).fclkRun = false ∨ (physCore s f (sh.val / 12) (sh.val % 12)).seq.fenced = true)
      (ok → Completes (.ltrimWrite m f sh v) s (fun s' =>
        s'.reg (ltrim f sh.val) = v &&& 0x3FFFFFFF ∧ SameRegs [ltrim f sh.val] s s' ∧ SameRest s s'))
      ∧ (¬ ok → Completes (.ltrimWrite m f sh v) s (fun s' =>
        (∀ a, s'.reg a = s.reg a) ∧ s'.svc.logSeq = s.svc.logSeq + 1)))
    ∧ (∀ (ad : Adapter) (b : Field), neighbour f ad = some b →
      ((fieldRuns s b = false ∧ (s.fld b).absent = false) → Completes (.seamHeldRelease f ad) s (fun s' => s' = s))
      ∧ ((fieldRuns s b = true ∨ (s.fld b).absent = true) → (∀ x ∈ (s.fld f).held, x.adapter = ad → quiet s x.tile) →
        Completes (.seamHeldRelease f ad) s (fun s' =>
          (s'.fld f).held = (s.fld f).held.filter (fun x => x.adapter != ad) ∧ SameMemory s s' ∧ s'.cores = s.cores)))

/-- R15, R17, R257: fldRemapWrite and fldWmapWrite each complete for the service processor, with a value that changes only
segments whose ports are drained, between 15 and one position: the register takes it whole. -/
def Sys2Proof.Claims.MapWritesComplete : Prop :=
  ∀ (f : Field) (v : BitVec 32) (s : State),
    (mapOk s f (s.reg (fldRemap f)) v = true →
      ∃ s', Sys2Proof.Machine.exec (.fldRemapWrite .svp f v) s = .next s' ∧ s'.reg (fldRemap f) = v ∧ SameRegs [fldRemap f] s s')
    ∧ (mapOk s f (s.reg (fldWmap f)) v = true →
      ∃ s', Sys2Proof.Machine.exec (.fldWmapWrite .svp f v) s = .next s' ∧ s'.reg (fldWmap f) = v ∧ SameRegs [fldWmap f] s s')

/-- Refresh, the field maps, trim writes and held transfers: RefreshAndSelfRefresh and FieldMaps and TrimAndHeldTransfers
and MapWritesComplete. -/
def Obligations.WellUpkeep : Prop :=
  Sys2Proof.Claims.RefreshAndSelfRefresh ∧ Sys2Proof.Claims.FieldMaps ∧ Sys2Proof.Claims.TrimAndHeldTransfers ∧ Sys2Proof.Claims.MapWritesComplete

/-! ## Fabric, pages, bus -/

/-- R184, R187: of the requests it can see, a decision grants one of the lowest class rank, and only one of those. -/
def Sys2Proof.Claims.ArbitersGrantTheLowestClass : Prop :=
  ∀ a : Arb, (visible a = [] → pick a (visible a) = none)
    ∧ (visible a ≠ [] → ∃ r, pick a (visible a) = some r ∧ r ∈ a.reqs ∧ r.backing = false
        ∧ ∀ x ∈ a.reqs, x.backing = false → r.cls ≤ x.cls)

/-- R185: a grant counts in ARB_GNT, moves the pointer of its class to its port and takes the request away; every other
unscheduled request that was visible has its notice and backs off. -/
def Sys2Proof.Claims.GrantsAndLosses : Prop :=
  ∀ (s : State) (pp : PortPage) (r : ArbReq),
    let pg := portPageAddr pp
    let s' := arbGrant s pg r
    r ∈ visible (s.arb pg) →
      s'.reg (pg + 0x048) = satAdd (s.reg (pg + 0x048)) 1
      ∧ SMap.get zeroN (s'.arb pg).ptr r.cls = r.port
      ∧ (s'.arb pg).reqs.length + 1 = (s.arb pg).reqs.length
      ∧ ∀ x ∈ visible (s.arb pg), x ≠ r → x.cls = 4 →
          ∃ y ∈ (s'.arb pg).reqs, y.who = x.who ∧ y.port = x.port ∧ y.backing = true

/-- R185, R188, R189: a back-off whose cycles are over raises the request again; a freeze sets BLK_CTL.freeze and nothing
else, and does nothing at the page of an absent adapter or attach; a frozen port with nothing in flight reports drained
once, with EVT_STS.drained, unless it is an adapter whose peer is stopped; a release clears both bits where nothing is
held at the hub or at a tile.
A clause that leaves the state as it is states the model's choice of log 1, for a command that nothing enables. -/
def Sys2Proof.Claims.PortsFreezeAndDrain : Prop :=
  ∀ (m : Master) (pp : PortPage) (s : State),
    let pg := portPageAddr pp
    (∀ n, Completes (.backoffExpiry pp n) s (fun s' =>
      (s'.arb pg).reqs = (s.arb pg).reqs.map (fun r => if r.port = n ∧ r.raise ≤ arbCyc s pg then { r with backing := false } else r)
      ∧ (s'.arb pg).k = (s.arb pg).k ∧ SameRegs [] s s' ∧ s'.cores = s.cores))
    ∧ (pageExists pg = true → mayWrite s m pg = true → Completes (.portFreeze m pp) s (fun s' =>
      portFrozen s' pg = true ∧ SameRegs [pg + 0x008] s s' ∧ s'.arbs = s.arbs ∧ SameRest s s'))
    ∧ (pageExists pg = false → Completes (.portFreeze m pp) s (fun s' => s'.arbs = s.arbs ∧ s'.cores = s.cores ∧ s'.wells = s.wells))
    ∧ ((portFrozen s pg = true ∧ s.rbit (pg + 0x00C) 2 = false ∧ peerStopped s pp = false ∧ portIdle s pp = true) →
        Completes (.portDrained pp) s (fun s' =>
          s'.rbit (pg + 0x00C) 2 = true ∧ s'.rbit (pg + 0x010) 1 = true ∧ s'.arbs = s.arbs ∧ s'.cores = s.cores))
    ∧ ((portFrozen s pg = false ∨ s.rbit (pg + 0x00C) 2 = true ∨ peerStopped s pp = true ∨ portIdle s pp = false) →
        Completes (.portDrained pp) s (fun s' => s' = s))
    ∧ (pageExists pg = true → mayWrite s m pg = true → (∀ u, quiet s u) → s.hub.held = [] →
        (portFrozen s pg = false ∨ safeRecent s (pg + 0x008) m = false) → Completes (.portRelease m pp) s (fun s' =>
          portFrozen s' pg = false ∧ s'.rbit (pg + 0x00C) 2 = false ∧ SameRegs [pg + 0x008, pg + 0x00C] s s' ∧ SameMemory s s'))

/-- R190, R192, R257: ARB_CTL takes a back-off cap up to 8 and drops a larger one with EVT_STS.ctl_reject; SEAM_CTL is the
service processor's, opens an adapter at any time, and closes only a drained one. An adapter at the module edge does not
exist. No instruction stands at a tile. -/
def Sys2Proof.Claims.FabricControls : Prop :=
  ∀ (m : Master) (v : BitVec 32) (s : State),
    (∀ pp : PortPage, pageExists (portPageAddr pp) = true → mayWrite s m (portPageAddr pp) = true →
      let a := portPageAddr pp + 0x040
      (Machine.fld v 0 4 < 9 → Completes (.arbCtlWrite m pp v) s (fun s' => s'.reg a = v &&& 0xF ∧ SameRegs [a] s s' ∧ SameRest s s'))
      ∧ (9 ≤ Machine.fld v 0 4 → Completes (.arbCtlWrite m pp v) s (fun s' =>
          s'.reg a = s.reg a ∧ s'.rbit (portPageAddr pp + 0x010) 2 = true)))
    ∧ (∀ (f : Field) (ad : Adapter), (∀ u, quiet s u) →
      let a := seamPage f ad + 0x080
      (m = .svp → adapterExists f ad = true → (bit v 0 = true ∨ s.rbit a 0 = false ∨ s.rbit (seamPage f ad + 0x00C) 2 = true) →
        Completes (.seamCtlWrite m f ad v) s (fun s' => s'.reg a = v &&& 1 ∧ SameRegs [a] s s' ∧ SameMemory s s'))
      ∧ (m = .svp → adapterExists f ad = true → bit v 0 = false → s.rbit a 0 = true → s.rbit (seamPage f ad + 0x00C) 2 = false →
        Completes (.seamCtlWrite m f ad v) s (fun s' => s'.reg a = s.reg a ∧ s'.rbit (seamPage f ad + 0x010) 2 = true))
      ∧ ((m ≠ .svp ∨ adapterExists f ad = false) → Completes (.seamCtlWrite m f ad v) s (fun s' =>
        s'.reg a = s.reg a ∧ s'.cores = s.cores ∧ s'.svc.logSeq = s.svc.logSeq + 1)))

/-- Arbiters, port freezes and the fabric controls: ArbitersGrantTheLowestClass and GrantsAndLosses and
PortsFreezeAndDrain and FabricControls. -/
def Obligations.FieldFabric : Prop :=
  Sys2Proof.Claims.ArbitersGrantTheLowestClass ∧ Sys2Proof.Claims.GrantsAndLosses ∧ Sys2Proof.Claims.PortsFreezeAndDrain ∧ Sys2Proof.Claims.FabricControls

/-- R253, R256: EVT_EN takes the page's event bits, and enabling one that is set raises one event; EVT_INJ sets its bits.
Both by a master that may write a page that exists and has a header. -/
def Sys2Proof.Claims.EventRegisters : Prop :=
  ∀ (m : Master) (page : BitVec 48) (v : BitVec 32) (s : State),
    let p := pageBase page.toNat
    bufferPage p = false → pageExists p = true → mayWrite s m p = true →
      Completes (.evtEnWrite m page v) s (fun s' =>
        s'.reg (p + 0x014) = v &&& evtMask p ∧ SameRegs [p + 0x014, hubPage 0 + 0x04C] s s' ∧ s'.cores = s.cores ∧ SameRest s s'
        ∧ (v &&& evtMask p &&& ~~~(s.reg (p + 0x014)) &&& s.reg (p + 0x010) = 0 → s'.out = s.out ∧ SameRegs [p + 0x014] s s'))
      ∧ Completes (.evtInj m page v) s (fun s' =>
        s'.reg (p + 0x010) = s.reg (p + 0x010) ||| (v &&& evtMask p) ∧ SameRegs [p + 0x010, hubPage 0 + 0x04C] s s'
        ∧ s'.cores = s.cores ∧ SameRest s s')

/-- R257: OWNER is written by the service processor at any time and by a physical function while the page is not locked; a
lock is set by a master that may write and cleared by the service processor alone; anything else is dropped and counted
in HUB_OWN_REJ. -/
def Sys2Proof.Claims.OwnerAndLock : Prop :=
  ∀ (m : Master) (page : BitVec 48) (v : BitVec 32) (s : State),
    let p := pageBase page.toNat
    let rejected := fun (s' : State) => s'.reg (hubPage 0 + 0x044) = satAdd (s.reg (hubPage 0 + 0x044)) 1
      ∧ SameRegs [hubPage 0 + 0x044] s s' ∧ s'.cores = s.cores ∧ s'.svc.logSeq = s.svc.logSeq + 1
    let owns := m = .svp ∨ ((∃ h, m = .pf h) ∧ s.rbit (p + 0x02C) 0 = false)
    bufferPage p = false → pageExists p = true →
      (owns → Completes (.ownerWrite m page v) s (fun s' =>
        s'.reg (p + 0x028) = v &&& 0x3F ∧ SameRegs [p + 0x028] s s' ∧ s'.cores = s.cores))
      ∧ (¬ owns → Completes (.ownerWrite m page v) s rejected)
      ∧ (bit v 0 = true → mayWrite s m p = true → Completes (.lockWrite m page v) s (fun s' =>
        s'.reg (p + 0x02C) = 1 ∧ SameRegs [p + 0x02C] s s' ∧ s'.cores = s.cores))
      ∧ (bit v 0 = false → m = .svp → Completes (.lockWrite m page v) s (fun s' =>
        s'.reg (p + 0x02C) = 0 ∧ SameRegs [p + 0x02C] s s' ∧ s'.cores = s.cores))
      ∧ (((bit v 0 = true ∧ mayWrite s m p = false) ∨ (bit v 0 = false ∧ m ≠ .svp ∧ s.rbit (p + 0x02C) 0 = true)) →
        Completes (.lockWrite m page v) s rejected)

/-- R256: a soft reset of a tile page returns its RW bits to their reset values, clears its counters, and leaves OWNER,
LOCK, every other page, and the bytes of the module. -/
def Sys2Proof.Claims.SoftResetOfATilePage : Prop :=
  ∀ (m : Master) (page : BitVec 48) (t : Tile) (n : Nat) (s : State),
    let p := pageBase page.toNat
    pageOf p = .tile t n → n < 14 → mayWrite s m p = true →
      Completes (.softReset m page) s (fun s' =>
        (∀ a r, pageBase a = p → rowOf a = some r → a % 0x1000 ≠ 0x028 → a % 0x1000 ≠ 0x02C → s'.reg a = softWord r (s.reg a))
        ∧ s'.reg (p + 0x028) = s.reg (p + 0x028) ∧ s'.reg (p + 0x02C) = s.reg (p + 0x02C)
        ∧ (∀ a, pageBase a ≠ p → s'.reg a = s.reg a) ∧ SameMemory s s' ∧ ∀ u r, s'.g u r = s.g u r)

/-- R32, R257, R258: a write of a plain register of a tile page takes its RW bits and leaves the others, from a master that
may write; another master's is dropped and counted, and a write of an address that nothing maps is counted as an
uncorrectable error of the block that decodes it. The plain registers here: TVEC, STEP_LIMIT, SCRUB_LEN, CTR_CTL and the
guard table. -/
def Sys2Proof.Claims.RegisterWrites : Prop :=
  ∀ (m : Master) (addr : BitVec 48) (v : BitVec 32) (s : State),
    let a := addr.toNat / 4 * 4
    (∀ (t : Tile) (n o : Nat) (r : RegRow), a = tilePage t n + o →
      ((n = 0 ∧ (o = 0x058 ∨ o = 0x068)) ∨ (n = 9 ∧ o = 0x078) ∨ (n = 13 ∧ (o = 0x040 ∨ (0x080 ≤ o ∧ o < 0x180)))) →
      rowOf a = some r →
      (mayWrite s m (tilePage t n) = true → Completes (.registerWrite m addr v) s (fun s' =>
        s'.reg a = (s.reg a &&& ~~~(BitVec.ofNat 32 r.rw)) ||| (v &&& BitVec.ofNat 32 r.rw)
        ∧ SameRegs [a] s s' ∧ s'.cores = s.cores ∧ SameRest s s'))
      ∧ (mayWrite s m (tilePage t n) = false → Completes (.registerWrite m addr v) s (fun s' =>
        s'.reg (hubPage 0 + 0x044) = satAdd (s.reg (hubPage 0 + 0x044)) 1 ∧ s'.reg a = s.reg a ∧ s'.cores = s.cores)))
    ∧ (placeOf a = .nowhere → Completes (.registerWrite m addr v) s (fun s' =>
        s'.reg (decodePage a m + 0x024) = satAdd (s.reg (decodePage a m + 0x024)) 1
        ∧ SameRegs [decodePage a m + 0x024] s s' ∧ SameMemory s s' ∧ s'.cores = s.cores))

/-- R9, R30: a read of a register gives its reader what the register shows and clears the bits that a read clears; every
other register, and every byte, stays. -/
def Sys2Proof.Claims.RegisterReads : Prop :=
  ∀ (m : Master) (addr : BitVec 48) (s : State),
    let a := addr.toNat / 4 * 4
    pageOf a ≠ .none → readSpecial s m a = none →
      Completes (.readToClear m addr) s (fun s' =>
        s'.out = s.out ++ [.value m (regView s a)] ∧ s'.reg a = s.reg a &&& ~~~(rcMask a) ∧ SameRegs [a] s s'
        ∧ s'.cores = s.cores ∧ s'.wells = s.wells ∧ SameRest s s')

/-- Reads, writes and the soft reset of registers: SoftResetOfATilePage and RegisterWrites and RegisterReads. -/
def Obligations.RegisterAccesses : Prop :=
  Sys2Proof.Claims.SoftResetOfATilePage ∧ Sys2Proof.Claims.RegisterWrites ∧ Sys2Proof.Claims.RegisterReads

/-- R246, R248: on a port whose link is up, a host reads and writes the bytes of a cistern through its function's window;
an access that no base address register maps is an Unsupported Request for a read and dropped for a write; with the link
down nothing happens. The cistern holds no error.
A clause that leaves the state as it is states the model's choice of log 1, for a command that nothing enables. -/
def Sys2Proof.Claims.HostCisternAccess : Prop :=
  ∀ (h : HostPort) (x : HostAddr) (n : Nat) (own : Bool) (bs : Bytes) (s : State),
    (hostUp s h = false → Completes (.hostMemoryRead h x n own) s (fun s' => s' = s) ∧ Completes (.hostMemoryWrite h x bs) s (fun s' => s' = s))
    ∧ (hostUp s h = true → hostEnd s h x n = .none → Completes (.hostMemoryRead h x n own) s (fun s' =>
        (∃ l, s'.out = l ++ [.host h .unsupported]) ∧ SameMemory s s' ∧ s'.cores = s.cores))
    ∧ (∀ (t : Tile) (o : Nat), hostUp s h = true → hostEnd s h x n = .cist t o → hostGate s h (.cist t) = .go → cleanCistern s t →
        Completes (.hostMemoryRead h x n own) s (fun s' =>
          s'.out = s.out ++ [.host h (.data (Mem.readN (s.mem t).cist o n))] ∧ SameMemory s s' ∧ s'.cores = s.cores))
    ∧ (∀ (t : Tile) (o : Nat), hostUp s h = true → hostEnd s h x bs.length = .cist t o → hostGate s h (.cist t) = .go → cleanCistern s t →
        Completes (.hostMemoryWrite h x bs) s (fun s' =>
          (∀ a, Mem.read (s'.mem t).cist a = if o ≤ a ∧ a < o + bs.length then bs.getD (a - o) 0 else Mem.read (s.mem t).cist a)
          ∧ (∀ u, u ≠ t → s'.core u = s.core u) ∧ ∀ a, Mem.read s'.wells a = Mem.read s.wells a))

/-- R156, R248, R254: an access within one line of a partition's window reaches the well that the window's 256-byte
interleave names: a read gives its bytes and the line is granted, a write stores exactly its bytes. No merge entry is open
in the field, nobody holds the line, its filter set has room, and the well has no twin, no decant link and no error. -/
def Sys2Proof.Claims.HostWindowAccess : Prop :=
  ∀ (h : HostPort) (x : HostAddr) (p : Part) (off n : Nat) (own : Bool) (bs : Bytes) (t : Tile) (o : Nat) (s : State),
    hostUp s h = true → hostEnd s h x n = .win p off → 0 < n → off % 64 + n ≤ 64 → bs.length = n →
    windowPlace s p off = some (t, o) → hostGate s h (.well t o) = .go → plainPages s t → (s.fld (tileField t)).merge = [] → snooping s p (off / 64) = false →
    sfFind s p (off / 64) = none → (sfSet s p (off / 64)).length < 16 →
    let a := wellAt (homeShaft s t) o
    (windowBars s p false (t, o, n) = false → Completes (.hostMemoryRead h x n own) s (fun s' =>
        s'.out = s.out ++ [.host h (.data (Mem.readN s.wells a n))] ∧ SameMemory s s' ∧ s'.cores = s.cores
        ∧ ∃ e, sfFind s' p (off / 64) = some e ∧ holders e = [h] ∧ (own = true ↔ e.owner = some h)))
      ∧ (windowBars s p true (t, o, n) = false → Completes (.hostMemoryWrite h x bs) s (fun s' =>
        (∀ b, Mem.read s'.wells b = if a ≤ b ∧ b < a + n then bs.getD (b - a) 0 else Mem.read s.wells b) ∧ s'.cores = s.cores))
      ∧ (windowBars s p true (t, o, n) = true → Completes (.hostMemoryWrite h x bs) s (fun s' => SameMemory s s' ∧ s'.cores = s.cores))

/-- Host reads and writes of cisterns and of the window: HostCisternAccess and HostWindowAccess. -/
def Obligations.HostAccesses : Prop :=
  Sys2Proof.Claims.HostCisternAccess ∧ Sys2Proof.Claims.HostWindowAccess

/-! ## Partitions -/

/-- A physical function or the service processor: the masters outside a partition. -/
def Sys2Proof.Claims.far (m : Master) : Prop := m = .svp ∨ ∃ h, m = .pf h

/-- A rejected partition command: its reason in PART_STS, EVT_STS.cmd_reject, and the run state, the image and the record
as they were (R196). -/
def Sys2Proof.Claims.Rejected (p : Part) (reason : Nat) (s s' : State) : Prop :=
  (Machine.fld (s'.reg (partSts p)) 8 4).toNat = reason ∧ s'.rbit (partPage p 0 + 0x010) 1 = true ∧ pstate s' p = pstate s p
  ∧ (s'.prt p).image = (s.prt p).image ∧ (s'.prt p).record = (s.prt p).record ∧ s'.cores = s.cores ∧ SameMemory s s'

/-- A write turned away by ownership: counted in HUB_OWN_REJ, and nothing of the partition changes (R257). -/
def Sys2Proof.Claims.TurnedAway (p : Part) (s s' : State) : Prop :=
  s'.reg (hubPage 0 + 0x044) = satAdd (s.reg (hubPage 0 + 0x044)) 1 ∧ SameRegs [hubPage 0 + 0x044] s s' ∧ s'.parts = s.parts
  ∧ s'.cores = s.cores ∧ pstate s' p = pstate s p

/-- R193, R194, R196: PART_CFG is written from outside while the partition is FREE. Enable makes a FREE partition IDLE, owns
its tiles' pages for it, opens the seams inside its rectangle and closes those at its edge; disable makes an IDLE one
without a record FREE and closes its seams. Each is rejected with the reason that holds, and turned away from a master of
the partition itself. -/
def Sys2Proof.Claims.PartitionsAreConfigured : Prop :=
  ∀ (m : Master) (p : Part) (v : BitVec 32) (s : State),
    let fs := partFields s p
    (far m → pstate s p = 0 → Completes (.partCfgWrite m p v) s (fun s' =>
      s'.reg (partCfg p) = v &&& 0x1FFF ∧ SameRegs [partCfg p] s s' ∧ s'.parts = s.parts))
    ∧ (far m → pstate s p ≠ 0 → Completes (.partCfgWrite m p v) s (fun s' =>
      s'.reg (partCfg p) = s.reg (partCfg p) ∧ s'.rbit (partPage p 0 + 0x010) 2 = true ∧ s'.parts = s.parts))
    ∧ (far m → pstate s p = 0 → s.rbit (govPage 7 + 0x044) 4 = false →
        (enableReason s p = none → Completes (.enable m p) s (fun s' =>
          pstate s' p = 1 ∧ s'.rbit (partPage p 0 + 0x010) 0 = true
          ∧ (∀ t ∈ partTiles s p, ∀ n, n < 14 → s'.reg (tilePage t n + 0x028) = BitVec.ofNat 32 (3 + 4 * p.val))
          ∧ (∀ f ∈ fs, ∀ a g, neighbour f a = some g → s'.reg (seamPage f a + 0x080) = if fs.contains g then 1 else 0)))
        ∧ (∀ n, enableReason s p = some n → n < 16 → Completes (.enable m p) s (Rejected p n s)))
    ∧ (far m → pstate s p ≠ 0 → Completes (.enable m p) s (Rejected p 1 s))
    ∧ (far m → pstate s p = 1 → partSaved s p = false → Completes (.disable m p) s (fun s' =>
        pstate s' p = 0 ∧ s'.rbit (partPage p 0 + 0x010) 0 = true
        ∧ (∀ f ∈ fs, ∀ a, adapterExists f a = true → s'.reg (seamPage f a + 0x080) = 0)))
    ∧ (far m → pstate s p = 1 → partSaved s p = true → Completes (.disable m p) s (Rejected p 6 s))
    ∧ (far m → pstate s p ≠ 1 → Completes (.disable m p) s (Rejected p 1 s))
    ∧ (¬ far m → Completes (.enable m p) s (TurnedAway p s) ∧ Completes (.disable m p) s (TurnedAway p s)
        ∧ Completes (.partCfgWrite m p v) s (TurnedAway p s))

/-- R195, R196, R210, R211: a step pre-emption of a RUNNING partition without a record waits for the commit; an immediate
one makes it PREEMPTING at once, where it has a save area, with every tile that runs at its trap. Neither is accepted in
another state than RUNNING or HELD, or over a record; in HELD both wait for the repair. -/
def Sys2Proof.Claims.Preemption : Prop :=
  ∀ (m : Master) (p : Part) (s : State), mayWrite s m (partPage p 0) = true →
    let st := pstate s p
    ((st = 2 ∨ st = 3) → partSaved s p = false →
      Completes (.stepPreemption m p) s (fun s' => pstate s' p = st ∧ s'.rbit (partSts p) 6 = true
        ∧ (s'.prt p).pend = some (if st = 3 then 4 else 3) ∧ (s'.prt p).image = (s.prt p).image ∧ s'.cores = s.cores ∧ SameMemory s s')
      ∧ (st = 3 → Completes (.immediatePreemption m p) s (fun s' => pstate s' p = 3 ∧ (s'.prt p).pend = some 4 ∧ s'.cores = s.cores))
      ∧ (st = 2 → s.rbit (partCfg p) 12 = true → Completes (.immediatePreemption m p) s (fun s' => pstate s' p = 4
          ∧ (∀ t ∈ partTiles s p, halted s t = false → (s'.seq t).trap = true ∧ (s'.seq t).stall = none ∧ s'.pc t = s.pc t)
          ∧ (∀ t r, s'.g t r = s.g t r) ∧ (s'.prt p).image = (s.prt p).image ∧ SameMemory s s'))
      ∧ (st = 2 → s.rbit (partCfg p) 12 = false → Completes (.immediatePreemption m p) s (Rejected p 5 s)))
    ∧ (∀ c ∈ [Instr.stepPreemption m p, .immediatePreemption m p],
        (st ≠ 2 → st ≠ 3 → Completes c s (Rejected p 1 s))
        ∧ ((st = 2 ∨ st = 3) → partSaved s p = true → Completes c s (Rejected p 6 s)))

/-- R211, R213, R214: an immediate save ends once every drain has ended and no tile fault stands: the partition is IDLE with
a record of kind 1 that holds the step, the weirs, and every tile's registers, its tiles are halted, and no byte of
memory has changed. No START and no graceful reset waits. -/
def Sys2Proof.Claims.SavesComplete : Prop :=
  ∀ (p : Part) (r : RunImage) (s : State), (s.prt p).image = some r → pstate s p = 4 → (s.prt p).faulty = [] → partGeom s p = r.body.geometryId →
    saveDrained s p = true →
    (s.prt p).starts = [] → (s.prt p).gracefulPending = false →
      Completes (.saveComplete p) s (fun s' =>
        pstate s' p = 1 ∧ (s'.prt p).image = none ∧ s'.rbit (partSts p) 3 = true
        ∧ (∃ x, (s'.prt p).record = some x ∧ x.kind = 1 ∧ x.img = r ∧ x.stepNo = stepNo s (r.body.tiles.headD 0)
          ∧ x.geometry = partGeom s p ∧ x.weirs = fullRecords s p
          ∧ x.tiles.map (·.tile) = partTiles s p
          ∧ ∀ y ∈ x.tiles, y.core.seq.g = (s.seq y.tile).g ∧ y.core.seq.pc = (s.seq y.tile).pc ∧ y.core.vec = { s.vec y.tile with hist := [] }
              ∧ y.core.arr.accum = (s.arr y.tile).accum ∧ y.core.mem = s.mem y.tile)
        ∧ (∀ t ∈ partTiles s p, halted s' t = true) ∧ SameMemory s s')

/-- R195, R213: restore is accepted in IDLE with a record of the present geometry whose weirs no other partition owns, and
makes the partition RESTORING; it is rejected with reason 1, 7, 8 or 9 else. Discard drops the record at once, and is
rejected in FREE, PREEMPTING and RESTORING. -/
def Sys2Proof.Claims.RestoreAndDiscard : Prop :=
  ∀ (m : Master) (p : Part) (s : State), mayWrite s m (partPage p 0) = true →
    let st := pstate s p
    (st ≠ 1 → Completes (.restore m p) s (Rejected p 1 s))
    ∧ (st = 1 → (s.prt p).record = none → Completes (.restore m p) s (Rejected p 7 s))
    ∧ (∀ r, st = 1 → (s.prt p).record = some r →
        (restoreReason s p r = none → Completes (.restore m p) s (fun s' =>
          pstate s' p = 5 ∧ (s'.prt p).record = some r ∧ s'.cores = s.cores ∧ SameMemory s s'))
        ∧ (∀ n, restoreReason s p r = some n → (n = 8 ∨ n = 9) ∧ Completes (.restore m p) s (Rejected p n s)))
    ∧ ((st = 0 ∨ st = 4 ∨ st = 5) → Completes (.discardRecord m p) s (Rejected p 1 s))
    ∧ ((st ≠ 0 ∧ st ≠ 4 ∧ st ≠ 5) → Completes (.discardRecord m p) s (fun s' =>
        (s'.prt p).record = none ∧ s'.rbit (partSts p) 3 = false ∧ pstate s' p = st ∧ s'.rbit (partPage p 0 + 0x010) 0 = true
        ∧ s'.cores = s.cores ∧ SameMemory s s'))

/-- Pre-emption, its record, restore and discard: Preemption and SavesComplete and RestoreAndDiscard. -/
def Obligations.PreemptionAndRestore : Prop :=
  Sys2Proof.Claims.Preemption ∧ Sys2Proof.Claims.SavesComplete ∧ Sys2Proof.Claims.RestoreAndDiscard

/-- R196, R199: a reset of an IDLE, RUNNING or HELD partition makes it RESETTING with every tile halted, its channels
empty and nothing held for its step; an abrupt one also discards the store buffers and the arrays' stores. It is rejected
in FREE. Once the stores and the adapters inside the rectangle have drained it ends: IDLE, no image, every mapped weir at
count 0 and epoch 0. A code that names no command is rejected with reason 10.
A clause that leaves the state as it is states the model's choice of log 1, for a command that nothing enables. -/
def Sys2Proof.Claims.PartitionResets : Prop :=
  ∀ (m : Master) (p : Part) (s : State),
    let st := pstate s p
    (mayWrite s m (partPage p 0) = true →
      ((st = 1 ∨ st = 2 ∨ st = 3) →
        (∀ c ∈ [Instr.gracefulReset m p, .abruptReset m p], Completes c s (fun s' =>
          pstate s' p = 6 ∧ (s'.prt p).posts = [] ∧ (s'.prt p).latches = []
          ∧ ∀ t ∈ partTiles s p, halted s' t = true ∧ (∀ ch, (s'.dma t ch).queue = []) ∧ (s'.arr t).queue = [] ∧ (s'.mem t).engQ = []))
        ∧ Completes (.abruptReset m p) s (fun s' => ∀ t ∈ partTiles s p, (s'.mem t).sb = [] ∧ (s'.arr t).accum = []))
      ∧ (st = 0 → ∀ c ∈ [Instr.gracefulReset m p, .abruptReset m p], Completes c s (Rejected p 1 s))
      ∧ (∀ code : BitVec 4, (code = 0 ∨ 9 ≤ code) → Completes (.partCmdUndefined m p code) s (Rejected p 10 s)))
    ∧ (st = 6 → drained s p = true → seamsIdle s p = true → (s.prt p).starts = [] → Completes (.resetComplete p) s (fun s' =>
        pstate s' p = 1 ∧ (s'.prt p).image = none ∧ (s'.prt p).job = none
        ∧ (∀ e ∈ mappedHandles s p, (s'.weir e.2).count = 0 ∧ (s'.weir e.2).epoch = 0 ∧ (s'.weir e.2).waiters = []
            ∧ (s'.weir e.2).thr = (s.weir e.2).thr)
        ∧ SameMemory s s'))
    ∧ ((st ≠ 6 ∨ drained s p = false ∨ seamsIdle s p = false) → Completes (.resetComplete p) s (fun s' => s' = s))

/-- R196, R199: gracefulReset and abruptReset each complete in IDLE, RUNNING and HELD for a master that may write: the
partition is RESETTING with every tile halted; the abrupt one leaves no store and no sum. -/
def Sys2Proof.Claims.ResetsComplete : Prop :=
  ∀ (m : Master) (p : Part) (s : State), mayWrite s m (partPage p 0) = true → (pstate s p = 1 ∨ pstate s p = 2 ∨ pstate s p = 3) →
    (∃ s', Sys2Proof.Machine.exec (.gracefulReset m p) s = .next s' ∧ pstate s' p = 6 ∧ ∀ t ∈ partTiles s p, halted s' t = true)
    ∧ ∃ s', Sys2Proof.Machine.exec (.abruptReset m p) s = .next s' ∧ pstate s' p = 6
      ∧ ∀ t ∈ partTiles s p, halted s' t = true ∧ (s'.mem t).sb = [] ∧ (s'.arr t).accum = []

/-- Partitions are configured, enabled, disabled and reset: PartitionsAreConfigured and PartitionResets and ResetsComplete. -/
def Obligations.PartitionsAndResets : Prop :=
  Sys2Proof.Claims.PartitionsAreConfigured ∧ Sys2Proof.Claims.PartitionResets ∧ Sys2Proof.Claims.ResetsComplete

/-! ## Queues -/

/-- The completion of an SQ entry is written in its place of the completion queue, with the head behind the entry, the
phase bit and its message, and the queue goes on (R251). -/
def Sys2Proof.Claims.Posted (p : Part) (q : Fin 64) (cid : BitVec 16) (status result : Nat) (s s' : State) : Prop :=
  let r := (s.prt p).qp q
  let h := qpPort s p q
  let n := cqSize s p q
  let base := (s.reg (qpReg p q 0x044)).toNat + (s.reg (qpReg p q 0x048)).toNat * 2 ^ 32
  let c : Completion := { cid := cid, status := BitVec.ofNat 8 status, result := BitVec.ofNat 64 result }
  let nxt := (r.cqTail % n + 1) % n
  (∃ l, s'.out = s.out ++ l ++ [.host h (.cq (base + 16 * (r.cqTail % n)) (cqEntry (sqHead s' p q) c r.phase)),
      .host h (.msix (some p) (BitVec.ofNat 11 q.val))])
  ∧ ((s'.prt p).qp q).held = [] ∧ ((s'.prt p).qp q).cqTail = nxt ∧ ((s'.prt p).qp q).phase = (if nxt = 0 then !r.phase else r.phase)

/-- R249, R250, R251: a doorbell hands over the entries up to its tail, and one behind those handed over sets
QP_STS.db_err alone. The hub takes the entry whose turn it is: FENCE completes with status 0 behind the earlier entries of
its queue, and an opcode that names no command with status 8. A write of CQ_HEAD with nothing held only moves the head. The
completion queue has room and nothing is held. -/
def Sys2Proof.Claims.QueuesTakeTheirEntries : Prop :=
  ∀ (m : Master) (p : Part) (q : Fin 64) (tail : BitVec 6) (v : BitVec 32) (s : State),
    (mayWrite s m (partPage p (8 + q.val)) = true →
      ((((s.prt p).qp q).tail - sqHead s p q).toNat ≤ (tail - sqHead s p q).toNat →
        Completes (.sqDoorbell m p q tail) s (fun s' =>
          ((s'.prt p).qp q).tail = tail ∧ sqHead s' p q = sqHead s p q ∧ s'.regs = s.regs ∧ s'.cores = s.cores ∧ s'.out = s.out))
      ∧ ((tail - sqHead s p q).toNat < (((s.prt p).qp q).tail - sqHead s p q).toNat →
        Completes (.sqDoorbell m p q tail) s (fun s' =>
          s'.rbit (qpReg p q 0x054) 6 = true ∧ s'.parts = s.parts ∧ SameRegs [qpReg p q 0x054] s s'))
      ∧ (((s.prt p).qp q).held = [] → Completes (.cqHeadWrite m p q v) s (fun s' =>
          s'.reg (qpReg p q 0x050) = v &&& 0xFFF ∧ SameRegs [qpReg p q 0x050] s s' ∧ s'.parts = s.parts ∧ s'.out = s.out)))
    ∧ (sqTurn s p = some q → ((s.prt p).qp q).held = [] → cqFull s p q = false →
      ∀ e ∈ [(4, Instr.sqFence p q, 0), (0, .sqUndefined p q, 8)], sqOp s p q = e.1 → Completes e.2.1 s (fun s' =>
        sqHead s' p q = sqHead s p q + 1 ∧ Posted p q (sqCid s p q) e.2.2 0 s s' ∧ s'.out.length = s.out.length + 2
        ∧ SameRegs [qpReg p q 0x054] s s' ∧ s'.cores = s.cores ∧ s'.wells = s.wells))

/-- R41, R196, R207, R250, Table 11.4: a queued START runs the body of the present geometry at once on an IDLE partition
with none before it: the partition is RUNNING and each of its tiles stands at offset 0 of step 0; a geometry that no body
has ends it with status 1. A queued partition command may not enable or disable, and names one of Table 9.3; one that is
accepted waits for its end. A queued map command shows its result, or is in progress. -/
def Sys2Proof.Claims.QueuedCommands : Prop :=
  ∀ (p : Part) (q : Fin 64) (img : Image) (s : State), sqTurn s p = some q → ((s.prt p).qp q).held = [] → cqFull s p q = false →
    let cid := sqCid s p q
    let code := sqLe s p q 8 1
    let mp := sqMapArgs s p q
    (sqOp s p q = 1 → pstate s p = 1 → (s.prt p).job = none → (s.prt p).starts = [] → svcMode s = false →
        placedInside s p img.body = true →
      (img.body.geometryId = partGeom s p → img.body.weirMap = [] → (∀ h ∈ img.body.handles, (weirId s p h.toNat).isSome = true) →
        Completes (.start p q img) s (fun s' =>
          pstate s' p = 2 ∧ sqHead s' p q = sqHead s p q + 1
          ∧ (∃ r, (s'.prt p).image = some r ∧ r.body = img.body ∧ r.variants = img.variants ∧ r.cid = cid ∧ r.q = q.val ∧ r.committed = 0)
          ∧ ∀ t ∈ img.body.tiles, halted s' t = false ∧ s'.pc t = 0 ∧ (s'.seq t).stall = none ∧ stepNo s' t = 0))
      ∧ ((∀ b ∈ img.body :: img.variants, b.geometryId ≠ partGeom s p) →
        Completes (.start p q img) s (fun s' =>
          pstate s' p = 1 ∧ (s'.prt p).image = (s.prt p).image ∧ Posted p q cid 1 (partGeom s p).toNat s s')))
    ∧ (sqOp s p q = 2 →
      (code = 1 ∨ code = 2 → Completes (.pcmd p q) s (fun s' =>
          pstate s' p = pstate s p ∧ s'.reg (hubPage 0 + 0x044) = satAdd (s.reg (hubPage 0 + 0x044)) 1
          ∧ Posted p q cid 4 (Machine.fld (s.reg (partSts p)) 8 4).toNat s s'))
      ∧ (code = 0 ∨ 9 ≤ code → Completes (.pcmd p q) s (fun s' =>
          pstate s' p = pstate s p ∧ (Machine.fld (s'.reg (partSts p)) 8 4).toNat = 10 ∧ Posted p q cid 4 10 s s'))
      ∧ (code = 3 → pstate s p = 2 → partSaved s p = false → Completes (.pcmd p q) s (fun s' =>
          pstate s' p = 2 ∧ (s'.prt p).pend = some 3 ∧ (s'.prt p).job.map (·.sq) = some [(q.val, cid)] ∧ s'.out = s.out)))
    ∧ (sqOp s p q = 3 →
      (∀ n, mapJudge (sqTake s p q) p mp.1 mp.2 = n → n ≠ 0 → Completes (.sqMap p q) s (fun s' =>
          (Machine.fld (s'.reg (mapSts p)) 1 3).toNat = n ∧ mapBusy s' p = false ∧ Posted p q cid 0 n s s' ∧ s'.wells = s.wells))
      ∧ (mapJudge (sqTake s p q) p mp.1 mp.2 = 0 → Completes (.sqMap p q) s (fun s' =>
          mapBusy s' p = true ∧ sqHead s' p q = sqHead s p q + 1
          ∧ (s'.prt p).map = some { op := mp.1, args := mp.2, result := 0, sq := some (q.val, cid), old := oldPage (sqTake s p q) p mp.1 mp.2 })))

/-- R52, R252: a tile of the partition gives the hub the command ID of its posts, and its 8-byte post is held until the
step commits, with the ID latched then; nothing goes to the host before that. A tile of no enabled partition posts nothing.
A clause that leaves the state as it is states the model's choice of log 1, for a command that nothing enables. -/
def Sys2Proof.Claims.TilePostsAreHeld : Prop :=
  ∀ (t : Tile) (p : Part) (q : Fin 64) (i : BitVec 32) (v : BitVec 64) (s : State),
    (partOf s t = some p → mayWrite s (.tile t) (partPage p (8 + q.val)) = true →
      Completes (.hqPostIdWrite t q i) s (fun s' =>
        SMap.get zero16 (s'.prt p).latches t.val = Machine.fld i 0 16 ∧ (s'.prt p).posts = (s.prt p).posts ∧ s'.regs = s.regs
        ∧ (∀ u : Tile, u ≠ t → SMap.get zero16 (s'.prt p).latches u.val = SMap.get zero16 (s.prt p).latches u.val))
      ∧ Completes (.hqPost t q v) s (fun s' =>
        (s'.prt p).posts = (s.prt p).posts ++
          [{ q := q.val, tile := t, cid := SMap.get zero16 (s.prt p).latches t.val, value := v }]
        ∧ (s'.prt p).latches = (s.prt p).latches ∧ s'.out = s.out ∧ s'.reg (qpReg p q 0x058) = v.setWidth 32
        ∧ SameRegs [qpReg p q 0x058] s s'))
    ∧ (partOf s t = none → Completes (.hqPostIdWrite t q i) s (fun s' => s' = s) ∧ Completes (.hqPost t q v) s (fun s' => s' = s))

/-- R249, R250, R251: sqFence and sqUndefined each complete where the entry whose turn it is has their opcode and the
completion queue has room: the entry is taken and its completion posted, with status 0 and 8. -/
def Sys2Proof.Claims.FenceAndUndefinedComplete : Prop :=
  ∀ (p : Part) (q : Fin 64) (s : State), sqTurn s p = some q → ((s.prt p).qp q).held = [] → cqFull s p q = false →
    (sqOp s p q = 4 → ∃ s', Sys2Proof.Machine.exec (.sqFence p q) s = .next s' ∧ sqHead s' p q = sqHead s p q + 1
      ∧ Posted p q (sqCid s p q) 0 0 s s')
    ∧ (sqOp s p q = 0 → ∃ s', Sys2Proof.Machine.exec (.sqUndefined p q) s = .next s' ∧ sqHead s' p q = sqHead s p q + 1
      ∧ Posted p q (sqCid s p q) 8 0 s s')

/-- Submission queues, their commands, and posts held to the commit: QueuesTakeTheirEntries and QueuedCommands and
TilePostsAreHeld and FenceAndUndefinedComplete. -/
def Obligations.HostQueues : Prop :=
  Sys2Proof.Claims.QueuesTakeTheirEntries ∧ Sys2Proof.Claims.QueuedCommands ∧ Sys2Proof.Claims.TilePostsAreHeld ∧ Sys2Proof.Claims.FenceAndUndefinedComplete

/-! ## Host links and coherence -/

/-- R245, R247: a link that goes down holds no line and owes no answer; one that comes up gets the messages held for it, in
order; neither does anything a second time. A decoder commits only with the size of the partition's window, which no
FREE partition has, and the host is told. Nothing waits.
A clause that leaves the state as it is states the model's choice of log 1, for a command that nothing enables. -/
def Sys2Proof.Claims.HostLinksAndDecoders : Prop :=
  ∀ (h : HostPort) (p : Part) (size : BitVec 48) (s : State),
    (hostUp s h = true → (∀ u, quiet s u) → s.hub.held = [] → Completes (.hostLinkDown h) s (fun s' =>
        (∀ g, hostUp s' g = (hostUp s g && g != h)) ∧ (∀ e ∈ s'.hub.sf, h ∉ holders e) ∧ (∀ w ∈ s'.hub.snoops, w.port ≠ h)
        ∧ (∀ w ∈ s.hub.snoops, w.port ≠ h → w ∈ s'.hub.snoops) ∧ s'.regs = s.regs ∧ s'.cores = s.cores ∧ SameRest s s' ∧ s'.out = s.out))
    ∧ (hostUp s h = false → Completes (.hostLinkDown h) s (fun s' => s' = s))
    ∧ (hostUp s h = false → (∀ p q, qpPort s p q = h → ((s.prt p).qp q).held = []) → Completes (.hostLinkUp h) s (fun s' =>
        (∀ g, hostUp s' g = (hostUp s g || g == h))
        ∧ s'.out = s.out ++ (s.hub.msixPend.filter fun x => x.2.1 == h).map (fun x => .host h (.msix x.1 x.2.2))
        ∧ s'.hub.msixPend = s.hub.msixPend.filter (fun x => x.2.1 != h) ∧ s'.regs = s.regs ∧ s'.cores = s.cores ∧ SameRest s s'))
    ∧ (hostUp s h = true → Completes (.hostLinkUp h) s (fun s' => s' = s))
    ∧ (hostUp s h = true → Completes (.hdmDecoderCommit h p size) s (fun s' =>
        let n := windowSize s p
        (size.toNat = n ∧ n ≠ 0 → (h, p, n) ∈ s'.hub.decoders ∧ s'.out = s.out ++ [.host h (.decoder p true)])
        ∧ (¬ (size.toNat = n ∧ n ≠ 0) → s'.hub.decoders = s.hub.decoders ∧ s'.out = s.out ++ [.host h (.decoder p false)])
        ∧ s'.regs = s.regs ∧ s'.cores = s.cores ∧ SameRest s s'))

/-- R254, R255: a writeback of a line, or the data with which a port answers a back-invalidate, is written whole in the
line's well and nowhere else; the port holds the line no longer after a writeback or BISnpInv, and no port owns it after its
owner has answered BISnpData. A back-invalidate that is not answered in HUB_CTL.bi_timeout poisons the line. The well has no
twin, no decant link and no error, and nothing else waits.
A clause that leaves the state as it is states the model's choice of log 1, for a command that nothing enables. -/
def Sys2Proof.Claims.LinesComeBack : Prop :=
  ∀ (h : HostPort) (p : Part) (off : BitVec 48) (d : Line) (t : Tile) (o : Nat) (s : State),
    let line := off.toNat / 64
    windowPlace s p (line * 64) = some (t, o) → line * 64 < windowSize s p → plainPages s t → (∀ u, quiet s u) → s.hub.held = [] →
    let a := wellAt (homeShaft s t) o
    let stored := fun (s' : State) =>
      (∀ b, Mem.read s'.wells b = if a ≤ b ∧ b < a + 64 then (lineBytes d).getD (b - a) 0 else Mem.read s.wells b) ∧ s'.cores = s.cores
    (hostUp s h = true → windowBars s p true (t, o, 64) = false → hostGate s h (.well t o) = .go → snooping s p line = false →
        Completes (.hostWriteback h p off d) s (fun s' =>
          stored s' ∧ (∀ e, sfFind s' p line = some e → h ∉ holders e) ∧ s'.out = s.out))
    ∧ (∀ w, hostUp s h = true → windowBars s p true (t, o, 64) = false →
        s.hub.snoops.find? (fun w => w.part == p && w.line == line && w.port == h) = some w →
        Completes (.bisnpResponse h p off (some d)) s (fun s' =>
          stored s' ∧ s'.hub.snoops = s.hub.snoops.erase w
          ∧ ∀ e, sfFind s' p line = some e → e.owner ≠ some h ∧ (w.inv = true → h ∉ holders e))
        ∧ Completes (.bisnpResponse h p off none) s (fun s' =>
          s'.wells = s.wells ∧ s'.cores = s.cores ∧ s'.regs = s.regs ∧ s'.hub.snoops = s.hub.snoops.erase w
          ∧ ∀ e, sfFind s' p line = some e → e.owner ≠ some h ∧ (w.inv = true → h ∉ holders e)))
    ∧ ((∃ w ∈ snoopsOf s p line, w.at0 + biLimit s ≤ s.tsclk) → Completes (.biTimeout p off) s (fun s' =>
        s'.wellUe.contains (wellGran (homeShaft s t) o) = true ∧ snooping s' p line = false
        ∧ s'.reg (hubPage 5 + 0x04C) = satAdd (s.reg (hubPage 5 + 0x04C)) 1 ∧ s'.cores = s.cores ∧ s'.wells = s.wells
        ∧ ∀ e, sfFind s' p line = some e → ∀ w ∈ snoopsOf s p line, w.port ∉ holders e))
    ∧ ((∀ w ∈ snoopsOf s p line, s.tsclk < w.at0 + biLimit s) → Completes (.biTimeout p off) s (fun s' => s' = s))

/-- Host links, decoders, back-invalidates and writebacks: HostLinksAndDecoders and LinesComeBack. -/
def Obligations.HostLinksAndLines : Prop :=
  Sys2Proof.Claims.HostLinksAndDecoders ∧ Sys2Proof.Claims.LinesComeBack

/-! ## Translation -/

/-- No cached translation of a field of partition p covers va. -/
def Sys2Proof.Claims.Dropped (s : State) (p : Part) (va : Nat) (s' : State) : Prop :=
  ∀ f ∈ partFields s p, ∀ e ∈ (s'.fld f).xcache, e.covers p va = false

/-- A map command that is rejected or dropped: the wells and the tiles stay. -/
def Sys2Proof.Claims.NoMapping (p : Part) (s s' : State) : Prop :=
  s'.wells = s.wells ∧ s'.cores = s.cores ∧ s'.fields = s.fields ∧ (s'.prt p).map = (s.prt p).map ∧ pstate s' p = pstate s p

/-- R206, R207, R209: a map command given in the MAP registers while one is in progress is dropped with EVT_STS.map_busy;
one that R207 refuses shows its result at once; an accepted one is in progress, and the tables hold its effect: the leaf
entry of a mapped page with its target and permissions, no mapping after an unmap, the new permissions after a protect,
and no cached translation of the page after either. Its end clears busy, once every access under an entry it ended has
completed. Operation 3 gives result 3, or 6 where no command is accepted.
A clause that leaves the state as it is states the model's choice of log 1, for a command that nothing enables. -/
def Sys2Proof.Claims.MapCommands : Prop :=
  ∀ (m : Master) (p : Part) (c : MapArgs) (s : State), mayWrite s m (partPage p 1) = true → (∀ u, plainPages s u) →
    let va := c.va.toNat
    let ops : List (BitVec 2 × Instr) := [(0, .map m p c), (1, .unmap m p c), (2, .protect m p c), (3, .mapOpInvalid m p c)]
    let leaf := 3 + permBits c.r c.w
    (∀ x ∈ ops,
      (mapBusy s p = true → Completes x.2 s (fun s' => s'.rbit (partPage p 1 + 0x010) 0 = true ∧ mapBusy s' p = true ∧ NoMapping p s s'))
      ∧ (∀ n, mapBusy s p = false → mapJudge (putMapRegs s p x.1 c) p x.1 c = n → n ≠ 0 → Completes x.2 s (fun s' =>
          (Machine.fld (s'.reg (mapSts p)) 1 3).toNat = n ∧ mapBusy s' p = false ∧ NoMapping p s s'))
      ∧ (mapBusy s p = false → mapJudge (putMapRegs s p x.1 c) p x.1 c = 0 → Completes x.2 s (fun s' =>
          mapBusy s' p = true ∧ (s'.prt p).map = some { op := x.1, args := c, result := 0, sq := none, old := oldPage (putMapRegs s p x.1 c) p x.1 c } ∧ pstate s' p = pstate s p)))
    ∧ (mapBusy s p = false → Completes (.mapOpInvalid m p c) s (fun s' =>
        (Machine.fld (s'.reg (mapSts p)) 1 3).toNat = if pstate s p ∈ [0, 4, 5, 6] then 6 else 3))
    ∧ (mapBusy s p = false → mapJudge (putMapRegs s p 0 c) p 0 c = 0 →
        (c.size = true → (∃ t o, placeOf (l1Addr s p va) = .well t o) → Completes (.map m p c) s (fun s' =>
          tblPeek s' (l1Addr s p va) = leaf + c.tgt.toNat))
        ∧ (c.size = false → (l1Of s p va).testBit 0 = true → (∃ t o, placeOf (l2Addr (l1Of s p va) va) = .well t o) →
          Completes (.map m p c) s (fun s' => tblPeek s' (l2Addr (l1Of s p va) va) = leaf + c.tgt.toNat)))
    ∧ (mapBusy s p = false → mapJudge (putMapRegs s p 1 c) p 1 c = 0 → Completes (.unmap m p c) s (fun s' =>
        mapped s' p va c.size = none ∧ Dropped s p va s'))
    ∧ (∀ a v, mapBusy s p = false → mapJudge (putMapRegs s p 2 c) p 2 c = 0 → mapped s p va c.size = some (a, v) →
        Completes (.protect m p c) s (fun s' => tblPeek s' a = v / 16 * 16 + leaf ∧ Dropped s p va s'))
    ∧ (∀ j, (s.prt p).map = some j → mapCan s p j = false → Completes (.mapCommandComplete p) s (fun s' => s' = s))
    ∧ (∀ j, (s.prt p).map = some j → mapCan s p j = true → j.sq = none → Completes (.mapCommandComplete p) s (fun s' =>
        mapBusy s' p = false ∧ (Machine.fld (s'.reg (mapSts p)) 1 3) = j.result ∧ (s'.prt p).map = none ∧ SameRegs [mapSts p] s s'
        ∧ s'.wells = s.wells ∧ s'.cores = s.cores))
    ∧ ((s.prt p).map = none → Completes (.mapCommandComplete p) s (fun s' => s' = s))

/-- R206, R208: the table region is set in IDLE to units of the partition's own wells; a change zeroes the L1 table, with
MAP_STS.busy until that is done, and drops every cached translation of the partition; anything else is rejected with
EVT_STS.cfg_reject. A walk gives the sequencer and the field's unit what the tables hold; an address with no mapping, or
with no permission, traps with code 4 and the address.
A clause that leaves the state as it is states the model's choice of log 1, for a command that nothing enables. -/
def Sys2Proof.Claims.TablesAndWalks : Prop :=
  ∀ (m : Master) (p : Part) (len : Bool) (v : BitVec 32) (t : Tile) (va : BitVec 48) (wr : Bool) (s : State),
    let a := partPage p 1 + (if len = true then 0x044 else 0x040)
    let w := v &&& (if len = true then 0xFFF else 0x7FFFFFF)
    let s1 := s.setReg a w
    let legal := regionOk s p (tblBase s1 p / 0x200000) (tblLen s1 p / 0x200000)
    (mayWrite s m (partPage p 1) = true →
      (pstate s p = 1 → legal = true → s.reg a ≠ w → Completes (.tableRegionWrite m p len v) s (fun s' =>
          s'.reg a = w ∧ SameRegs [a, mapSts p] s s' ∧ (tblLen s1 p ≠ 0 → mapBusy s' p = true) ∧ (∀ f ∈ partFields s p, ∀ e ∈ (s'.fld f).xcache, e.part ≠ p)
          ∧ (tblLen s1 p ≠ 0 → ∀ i, i < 262144 → tblPeek s' (tblBase s1 p + 8 * i) = 0)))
      ∧ (pstate s p = 1 → legal = true → s.reg a = w → Completes (.tableRegionWrite m p len v) s (fun s' => s' = s))
      ∧ ((pstate s p ≠ 1 ∨ legal = false) → Completes (.tableRegionWrite m p len v) s (fun s' =>
          s'.rbit (partPage p 0 + 0x010) 2 = true ∧ s'.reg a = s.reg a ∧ s'.wells = s.wells ∧ s'.cores = s.cores)))
    ∧ (fieldRuns s (tileField t) = false → Completes (.translationWalk t va wr) s (fun s' => s' = s))
    ∧ (fieldRuns s (tileField t) = true → partOf s t = some p → (∀ u, plainPages s u) →
        (∀ e, (s.seq t).xl = some e → e.covers p va.toNat = false) →
        (∀ e ∈ (s.fld (tileField t)).xcache, e.covers p va.toNat = false) →
      (∀ size x n, mapped s p va.toNat size = some (x, n) → (if wr = true then n.testBit 3 else n.testBit 2) = true →
        (s.fld (tileField t)).xcache.length < 4096 → leafIn s p va.toNat size n ≠ none → Completes (.translationWalk t va wr) s (fun s' =>
          (s'.seq t).xl = some (leafEnt p va.toNat size n) ∧ leafEnt p va.toNat size n ∈ (s'.fld (tileField t)).xcache
          ∧ s'.reg (partPage p 1 + 0x064) = satAdd (s.reg (partPage p 1 + 0x064)) 1 ∧ SameRegs [partPage p 1 + 0x064] s s'
          ∧ s'.pc t = s.pc t ∧ SameMemory s s'))
      ∧ (canIssue s t = true →
          (∀ size, mapped s p va.toNat size = none)
            ∨ (∃ size x n, mapped s p va.toNat size = some (x, n) ∧ (if wr = true then n.testBit 3 else n.testBit 2) = false) →
        Completes (.translationWalk t va wr) s (fun s' =>
          (s'.seq t).trap = true ∧ s'.reg (trapCause t) = 4 ∧ s'.reg (trapAddrLo t) = BitVec.ofNat 32 va.toNat
          ∧ s'.reg (partPage p 1 + 0x068) = satAdd (s.reg (partPage p 1 + 0x068)) 1 ∧ s'.pc t = s.pc t ∧ SameMemory s s')))

/-- MAP commands, table registers and walks: MapCommands and TablesAndWalks. -/
def Obligations.Translation : Prop :=
  Sys2Proof.Claims.MapCommands ∧ Sys2Proof.Claims.TablesAndWalks

/-! ## Yurno links -/

/-- One idle flit has left on a subport with the header fields named, and the acknowledgement of what was received. -/
def Sys2Proof.Claims.IdleSent (y : Port) (i : Sub) (nak : Bool) (credits cvc : Nat) (s s' : State) : Prop :=
  ∃ bs, s'.out = s.out ++ [.yurno y i (.flit bs)] ∧ flitOk bs = true ∧
    flitHdr bs = { type := 0, vc := 0, seq := 0, ack := (s.sub y i).rxSeq, nak := nak, credits := credits, cvc := cvc }

/-- R222, R223, R225: a flit that fails its check is counted and asked for again; a good idle flit frees the flits it
acknowledges and brings its credits; a data or control flit next in sequence does so too, is accepted and owes a credit;
one out of sequence is discarded with all it carries, and after a gap it is asked for again once. Credits owed go back in
an idle flit. A subport that is down takes nothing. Nothing waits to be sent.
A clause that leaves the state as it is states the model's choice of log 1, for a command that nothing enables. -/
def Sys2Proof.Claims.FlitsAndCredits : Prop :=
  ∀ (y : Port) (i : Sub) (f : Flit) (vc : Fin 4) (s : State),
    let h := flitHdr f.bytes
    let u := s.sub y i
    let bad := f.fecBad = true ∨ flitOk f.bytes = false ∨ 2 < h.type
    (subUp s y i = false → Completes (.flitReceive y i f) s (fun s' => s' = s) ∧ Completes (.creditReturn y i vc) s (fun s' => s' = s))
    ∧ (subUp s y i = true → bad → Completes (.flitReceive y i f) s (fun s' =>
        s'.reg (yurnoPage y 2 + 0x044) = satAdd (s.reg (yurnoPage y 2 + 0x044)) 1 ∧ SameRegs [yurnoPage y 2 + 0x044] s s'
        ∧ IdleSent y i true 0 0 s s' ∧ s'.sub y i = { u with nakSent := true }))
    ∧ (subUp s y i = true → ¬ bad → h.nak = false → u.txq = [] →
      let r := u.replay.filter fun e => !seqLe e.1 h.ack
      (h.type ≠ 0 → h.seq ≠ u.rxSeq + 1 → seqLe h.seq (u.rxSeq + 1) = true ∨ u.nakSent = true →
        Completes (.flitReceive y i f) s (fun s' => s' = s))
      ∧ (h.type = 0 → Completes (.flitReceive y i f) s (fun s' =>
          (s'.sub y i).replay = r ∧ (s'.sub y i).rxSeq = u.rxSeq ∧ (s'.sub y i).credits h.cvc = u.credits h.cvc + h.credits
          ∧ s'.out = s.out ∧ s'.regs = s.regs))
      ∧ (h.type ≠ 0 → h.seq = u.rxSeq + 1 → u.owed h.vc < 63 → Completes (.flitReceive y i f) s (fun s' =>
          (s'.sub y i).replay = r ∧ (s'.sub y i).rxSeq = u.rxSeq + 1 ∧ (s'.sub y i).nakSent = false
          ∧ (s'.sub y i).owed h.vc = u.owed h.vc + 1 ∧ (s'.sub y i).credits h.cvc = u.credits h.cvc + h.credits ∧ s'.out = s.out
          ∧ SameRegs [yurnoPage y 2 + 0x050] s s'))
      ∧ (h.type ≠ 0 → h.seq ≠ u.rxSeq + 1 → seqLe h.seq (u.rxSeq + 1) = false → u.nakSent = false →
        Completes (.flitReceive y i f) s (fun s' =>
          IdleSent y i true 0 0 s s' ∧ s'.sub y i = { u with nakSent := true } ∧ s'.regs = s.regs)))
    ∧ (subUp s y i = true → fieldRuns s (portField y) = true → u.owed vc.val ≠ 0 →
      let n := min (u.owed vc.val) 4095
      Completes (.creditReturn y i vc) s (fun s' =>
        IdleSent y i false n vc.val s s' ∧ (s'.sub y i).owed vc.val = u.owed vc.val - n ∧ s'.regs = s.regs))

/-- A spare has taken over the bytes of lane l, which retrains with three attempts (Table 10.5). -/
def Sys2Proof.Claims.TookOver (y : Port) (l sp : Nat) (s s' : State) : Prop :=
  laneState s' y sp = 1 ∧ laneServes s' y sp = laneServes s y l ∧ laneState s' y l = 3
  ∧ SMap.get zeroN (s'.port y).retrain l = 1 ∧ ∀ k, k < 66 → k ≠ l → k ≠ sp → laneState s' y k = laneState s y k

/-- R227, R228, R229: a lane whose window counts more than YP_CTL's threshold, or that loses lock, gives its bytes to the
lowest spare that is ready, which the peer is told; the peer's own request does the same without an answer; background
retraining moves the next active lane so, and tells the peer. A lane that retrains becomes a spare, tries again, or after
its third failure is failed.
A clause that leaves the state as it is states the model's choice of log 1, for a command that nothing enables. -/
def Sys2Proof.Claims.LanesAndSpares : Prop :=
  ∀ (y : Port) (l : Lane) (uc : Nat) (s : State),
    let a := ylane y l.val
    let thr := (Machine.fld (s.reg (ypCtl y)) 2 4).toNat
    let k := SMap.get zeroN (s.port y).retrain l.val
    let n := (s.port y).nextLane % 64
    (uc ≤ thr → Completes (.laneWindow y l uc) s (fun s' =>
        (Machine.fld (s'.reg a) 16 16).toNat = min ((Machine.fld (s.reg a) 16 16).toNat + uc) 0xFFFF
        ∧ laneState s' y l.val = laneState s y l.val ∧ SameRegs [a] s s' ∧ s'.out = s.out ∧ s'.ports = s.ports))
    ∧ (∀ sp, laneState s y l.val = 1 → spareLane s y = some sp →
        (thr < uc → Completes (.laneWindow y l uc) s (fun s' => TookOver y l.val sp s s'
          ∧ s'.rbit (yurnoPage y 0 + 0x010) 0 = true ∧ .yurno y (subOfLane s y (laneServes s y l.val)) (.swap l.val) ∈ s'.out))
        ∧ Completes (.laneLossOfLock y l) s (fun s' => TookOver y l.val sp s s'
          ∧ s'.rbit (yurnoPage y 0 + 0x010) 0 = true ∧ .yurno y (subOfLane s y (laneServes s y l.val)) (.swap l.val) ∈ s'.out)
        ∧ Completes (.swapRequest y l) s (fun s' => TookOver y l.val sp s s' ∧ s'.rbit (yurnoPage y 0 + 0x010) 0 = true))
    ∧ ((spareLane s y = none ∨ laneState s y l.val ≠ 1) → Completes (.swapRequest y l) s (fun s' => s' = s))
    ∧ (laneState s y l.val = 3 → k ≠ 0 →
        Completes (.laneRetrainDone y l true) s (fun s' => laneState s' y l.val = 2 ∧ SMap.get zeroN (s'.port y).retrain l.val = 0)
        ∧ (k < 3 → Completes (.laneRetrainDone y l false) s (fun s' =>
          SMap.get zeroN (s'.port y).retrain l.val = k + 1 ∧ s'.regs = s.regs))
        ∧ (3 ≤ k → Completes (.laneRetrainDone y l false) s (fun s' =>
          laneState s' y l.val = 4 ∧ s'.rbit (yurnoPage y 0 + 0x010) 1 = true)))
    ∧ (∀ sp, Machine.fld (s.reg (ypCtl y)) 6 8 ≠ 0 → spareLane s y = some sp → subUp s y (subOfLane s y n) = true →
        carrier s y n = some l.val → Completes (.backgroundRetrain y) s (fun s' =>
          TookOver y l.val sp s s' ∧ (s'.port y).nextLane = (n + 1) % 64
          ∧ s'.out = s.out ++ [.yurno y (subOfLane s y n) (.swap l.val)]))
    ∧ ((Machine.fld (s.reg (ypCtl y)) 6 8 = 0 ∨ spareLane s y = none) → Completes (.backgroundRetrain y) s (fun s' => s' = s))

/-- R219, R225, R230: a subport that has not come back is lost: down, with EVT_STS.port_down, its buffers empty; one whose
retrain passes is up or narrowed with its replay state as it was. YP_CTL changes its split only while every subport is
down, and YP_ALT names another port of the same partition that closes no loop, or none; anything else is rejected with
EVT_STS.ctl_reject. Nothing is queued at the port, and it has no alternate.
A clause that leaves the state as it is states the model's choice of log 1, for a command that nothing enables. -/
def Sys2Proof.Claims.SubportsAndPortControls : Prop :=
  ∀ (m : Master) (y : Port) (i : Sub) (v : BitVec 32) (s : State),
    let rejected := fun (s' : State) => s'.rbit (yurnoPage y 0 + 0x010) 7 = true ∧ s'.reg (ypCtl y) = s.reg (ypCtl y)
      ∧ s'.reg (ypAlt y) = s.reg (ypAlt y) ∧ s'.ports = s.ports
    let splitOk := Machine.fld v 0 2 ≠ 3 ∧ (Machine.fld v 0 2 = Machine.fld (s.reg (ypCtl y)) 0 2 ∨ Machine.fld (s.reg (ypSts y)) 0 8 = 0)
    let n := (Machine.fld v 0 5).toNat
    let altOk := n = 31 ∨ ∃ z, portNo n = some z ∧ portPart s z = portPart s y ∧ altLoops s y 24 z = false
    (i.val < subCount s y → subState s y i = 1 → altOf s y = none → (s.port y).ops = [] →
        ((s.port y).fly.filter (·.sub == i)) = [] → unackedColl (s.sub y i) = [] → Completes (.subportLost y i) s (fun s' =>
          subState s' y i = 0 ∧ s'.rbit (yurnoPage y 0 + 0x010) 4 = true ∧ (s'.sub y i).lost = true ∧ (s'.sub y i).txq = []
          ∧ (s'.sub y i).replay = [] ∧ s'.svc.logSeq = s.svc.logSeq + 1))
    ∧ ((subCount s y ≤ i.val ∨ subState s y i ≠ 1) → Completes (.subportLost y i) s (fun s' => s' = s))
    ∧ (i.val < subCount s y → subState s y i = 1 → (s.sub y i).txq = [] → (s.port y).ops = [] →
        Completes (.subportRetrainDone y i) s (fun s' =>
          2 ≤ subState s' y i ∧ s'.sub y i = s.sub y i ∧ s'.out = s.out ∧ s'.ports = s.ports))
    ∧ ((subCount s y ≤ i.val ∨ 2 ≤ subState s y i) → Completes (.subportRetrainDone y i) s (fun s' => s' = s))
    ∧ (mayWrite s m (yurnoPage y 0) = true →
        (splitOk → Completes (.ypCtlWrite m y v) s (fun s' =>
          s'.reg (ypCtl y) = v &&& 0x3FFFFF ∧ SameRegs [ypCtl y] s s' ∧ s'.ports = s.ports))
        ∧ (¬ splitOk → Completes (.ypCtlWrite m y v) s rejected)
        ∧ (altOk → Completes (.ypAltWrite m y v) s (fun s' =>
          s'.reg (ypAlt y) = v &&& 0x1F ∧ SameRegs [ypAlt y] s s' ∧ s'.ports = s.ports))
        ∧ (¬ altOk → Completes (.ypAltWrite m y v) s rejected))

/-- Flits, credits, lanes, spares, subports and port controls: FlitsAndCredits and LanesAndSpares and
SubportsAndPortControls. -/
def Obligations.LinksAndSubports : Prop :=
  Sys2Proof.Claims.FlitsAndCredits ∧ Sys2Proof.Claims.LanesAndSpares ∧ Sys2Proof.Claims.SubportsAndPortControls

/-! ## One-sided operations -/

/-- n bytes at va lie in one page that the unit of the port's field holds a translation of, with the permissions asked, and
that page in the home well of tile t from offset o, which the fabric lets the port reach now, with no merge entry open in its
field; no well holds an error or a twin. -/
def Sys2Proof.Claims.Reaches (y : Port) (p : Part) (va n : Nat) (rd wr : Bool) (t : Tile) (o : Nat) (s : State) : Prop :=
  (∃ e, (s.fld (portField y)).xcache.find? (·.covers p va) = some e ∧ (rd = true → e.r = true) ∧ (wr = true → e.w = true)
    ∧ placeOf (e.dpa va) = .well t o)
  ∧ 0 < n ∧ va % 0x200000 + n ≤ 0x200000 ∧ o + n ≤ wellSize ∧ fieldDark s (tileField t) = false ∧ (∀ u, plainPages s u)
  ∧ portGate s y (.well t o) = .go ∧ (s.fld (tileField t)).merge = []

/-- Exactly the bytes bs are stored from offset o of a tile's home well on. -/
def Sys2Proof.Claims.StoredAt (t : Tile) (o : Nat) (bs : Bytes) (s s' : State) : Prop :=
  let a := wellAt (homeShaft s t) o
  ∀ b, Mem.read s'.wells b = if a ≤ b ∧ b < a + bs.length then bs.getD (b - a) 0 else Mem.read s.wells b

/-- The answer to a request has gone out on the port's first subport that is up (R234, Table 10.7). -/
def Sys2Proof.Claims.Answered (y : Port) (r : YReq) (status : Nat) (data : Bytes) (s s' : State) : Prop :=
  ∃ i l, firstUp s y = some i
    ∧ s'.out = s.out ++ .yurno y i (.resp r.srcModule r.srcPart r.opNo (BitVec.ofNat 3 status) data) :: l

/-- R231, R234, R303: a request is held while its field is stopped; it gets status 1 where the partition named does not
serve, and status 2 without its permission. A put stores exactly its bytes; a get answers with the bytes as they stand;
an atomic reads and writes one aligned 8-byte word, answers with the old value, and on a repeat acts no second time; a
reduction combines each element once with what the target holds. Every other byte stays.
A clause that leaves the state as it is states the model's choice of log 1, for a command that nothing enables. -/
def Sys2Proof.Claims.IncomingOperations : Prop :=
  ∀ (y : Port) (r : YReq) (a : YAtomic) (fmt : BitVec 4) (data : Bytes) (s : State),
    let va := r.rva.toNat
    let n := r.len.toNat
    let serving := portPart s y = some r.part ∧ partServes s r.part = true
    let atomics : List (Instr × (Nat → Nat)) :=
      [(.atomicAdd64 y r a, fun x => x + a.arg.toNat), (.atomicSwap64 y r a, fun _ => a.arg.toNat),
       (.atomicCas64 y r a, fun x => if x = a.cmp.toNat then a.arg.toNat else x), (.atomicFadd32 y r a, fadd32 a.arg.toNat)]
    let reduces : List (Instr × Nat) := [(.reduceSum y r fmt data, 0), (.reduceMax y r fmt data, 1), (.reduceMin y r fmt data, 2)]
    let all := (Instr.put y r data, 1) :: (.get y r, 0) :: atomics.map (fun x => (x.1, 2)) ++ reduces.map (fun x => (x.1, 1))
    (∀ x ∈ all,
      (portTakes s y = false → portUp s y = true → fieldDark s (portField y) = false → Completes x.1 s (fun s' =>
          s'.hub.held = s.hub.held ++ [x.1] ∧ s'.regs = s.regs ∧ s'.cores = s.cores ∧ SameRest s s' ∧ s'.out = s.out))
      ∧ (portUp s y = false → Completes x.1 s (fun s' => s' = s))
      ∧ (portTakes s y = true → ¬ serving → Completes x.1 s (fun s' => Answered y r 1 [] s s' ∧ SameMemory s s'))
      ∧ (portTakes s y = true → serving → peerMay s y r.srcModule r.srcPart x.2 = false →
          Completes x.1 s (fun s' => Answered y r 2 [] s s' ∧ SameMemory s s')))
    ∧ (∀ t o, portTakes s y = true → serving → r.rsv = false →
      (peerMay s y r.srcModule r.srcPart 1 = true → lenOk n = true → data.length = n → Reaches y r.part va n false true t o s →
        Completes (.put y r data) s (fun s' => Answered y r 0 [] s s' ∧ StoredAt t o data s s' ∧ s'.cores = s.cores))
      ∧ (peerMay s y r.srcModule r.srcPart 0 = true → lenOk n = true → Reaches y r.part va n true false t o s →
        Completes (.get y r) s (fun s' =>
          Answered y r 0 (Mem.readN s.wells (wellAt (homeShaft s t) o) n) s s' ∧ SameMemory s s' ∧ s'.cores = s.cores))
      ∧ (peerMay s y r.srcModule r.srcPart 2 = true → ∀ x ∈ atomics,
        (∀ e, atomSeen s r.part r = some e → Completes x.1 s (fun s' =>
          Answered y r 0 (toLe 8 e.old.toNat) s s' ∧ SameMemory s s' ∧ s'.cores = s.cores))
        ∧ (atomSeen s r.part r = none → n = 8 → va % 8 = 0 → Reaches y r.part va 8 true true t o s →
          let old := leNat (Mem.readN s.wells (wellAt (homeShaft s t) o) 8)
          Completes x.1 s (fun s' => Answered y r 0 (toLe 8 old) s s' ∧ StoredAt t o (toLe 8 (x.2 old % 2 ^ 64)) s s'
            ∧ { srcModule := r.srcModule, srcPart := r.srcPart, opNo := r.opNo, old := BitVec.ofNat 64 old } ∈ (s'.prt r.part).atoms
            ∧ s'.cores = s.cores)))
      ∧ (∀ f w, peerMay s y r.srcModule r.srcPart 1 = true → redFmt fmt.toNat = some (f, w) → lenOk n = true → data.length = n →
          Reaches y r.part va n true true t o s → ∀ x ∈ reduces,
        let held := Mem.readN s.wells (wellAt (homeShaft s t) o) n
        Completes x.1 s (fun s' => Answered y r 0 [] s s' ∧ s'.cores = s.cores
          ∧ StoredAt t o (ungroup w (List.zipWith (redElem f x.2) (groupLe w (n / w) held) (groupLe w (n / w) data))) s s')))

/-- R232, R235, R236: a doorbell from a tile of the port's partition takes the 32-byte header from the tile's cistern: an
atomic is held until its step commits, another operation is queued, and a get goes out at once where its subport is up and
nothing is before it; any other doorbell is dropped with EVT_STS.op_err. A response ends its operation: a get's bytes are
written, an error is recorded in YOP_ERR and at the tile, and the weir named gets one arrival. -/
def Sys2Proof.Claims.OperationsOfATile : Prop :=
  ∀ (t : Tile) (y : Port) (v : BitVec 32) (p : Part) (s : State),
    let off := (Machine.fld v 0 17).toNat
    let i : Sub := ⟨(Machine.fld v 17 2).toNat, (Machine.fld v 17 2).isLt⟩
    let accepted := portPart s y = some p ∧ partOf s t = some p ∧ off ≤ 0x17FFF ∧ i.val < subCount s y
      ∧ ((s.port y).ops.filter (·.sub == i)).length < 256
    let o : Yop := { tile := t, hdr := BitVec.ofNat 256 (leNat (Mem.readN (s.mem t).cist (32 * off) 32)), sub := i
                     opNo := BitVec.ofNat 32 y.val + 32 * (s.port y).nextOp }
    (mayWrite s (.tile t) (yurnoPage y 3) = true →
      (accepted → cleanCistern s t → o.ok = true →
        (o.op = 3 → Completes (.yopDoorbell t y v) s (fun s' =>
          (s'.port y).heldAtomics = (s.port y).heldAtomics ++ [o] ∧ (s'.port y).ops = (s.port y).ops ∧ SameMemory s s' ∧ s'.out = s.out))
        ∧ (o.op ≠ 3 → fieldRuns s (portField y) = false → Completes (.yopDoorbell t y v) s (fun s' =>
          (s'.port y).ops = (s.port y).ops ++ [o] ∧ SameMemory s s' ∧ s'.out = s.out))
        ∧ (o.op = 2 → fieldRuns s (portField y) = true → (s.port y).ops = [] → liveSub s y i = some (y, i) → subUp s y i = true →
            fenceHolds s y y i o = false → Completes (.yopDoorbell t y v) s (fun s' =>
          (s'.port y).ops = [] ∧ (s'.port y).fly = (s.port y).fly ++ [o] ∧ SameMemory s s'
          ∧ ∃ l, s'.out = s.out ++ .yurno y i (.op o.hdr o.opNo [] 0) :: l)))
      ∧ ((portPart s y = none ∨ portPart s y ≠ partOf s t ∨ 0x17FFF < off ∨ subCount s y ≤ i.val) →
        Completes (.yopDoorbell t y v) s (fun s' =>
          s'.rbit (yurnoPage y 0 + 0x010) 5 = true ∧ s'.ports = s.ports ∧ SameMemory s s' ∧ s'.cores = s.cores)))
    ∧ (∀ (x : Yop) (opId : Nat) (status : BitVec 3) (data : Bytes) (id : Nat), portTakes s y = true → (s.port y).ops = [] →
        (s.port y).fly.find? (fun o => o.opNo.toNat == opId) = some x → partOf s x.tile = some p → weirId s p x.handle = some id →
        (s.weir id).count.toNat + 1 < (s.weir id).thr.toNat →
      (status = 0 → x.op = 1 → Completes (.operationComplete y opId status data) s (fun s' =>
          (s'.port y).fly = (s.port y).fly.erase x ∧ (s'.weir id).count = (s.weir id).count + 1 ∧ SameMemory s s' ∧ s'.cores = s.cores
          ∧ s'.regs = s.regs))
      ∧ (∀ w a, status = 0 → x.op = 2 → data.length = x.len → Reaches y p x.lva x.len false true w a s →
          Completes (.operationComplete y opId status data) s (fun s' =>
            StoredAt w a data s s' ∧ (s'.weir id).count = (s.weir id).count + 1 ∧ (s'.port y).fly = (s.port y).fly.erase x))
      ∧ (status ≠ 0 → Completes (.operationComplete y opId status data) s (fun s' =>
          (s'.weir id).count = (s.weir id).count + 1 ∧ s'.rbit (yurnoPage y 0 + 0x010) 5 = true
          ∧ (s'.seq x.tile).unabsorbed = some ((s.seq x.tile).unabsorbed.getD (.op status)) ∧ (s'.prt p).noRelease = true
          ∧ (s.rbit (yurnoPage y 3 + 0x048) 31 = false →
              s'.reg (yurnoPage y 3 + 0x048) = BitVec.ofNat 32 (0x80000000 + status.toNat + x.tile.val * 8))
          ∧ SameMemory s s')))

/-- R231, R234: put, get, atomicAdd64, atomicSwap64, atomicCas64, atomicFadd32, reduceSum, reduceMax and reduceMin each
complete where the port takes the request, the partition named serves there, the peer has the permission and the bytes are
in reach: status 0 is answered and the bytes of the operation are stored. -/
def Sys2Proof.Claims.EachOperationCompletes : Prop :=
  ∀ (y : Port) (r : YReq) (a : YAtomic) (fmt : BitVec 4) (data : Bytes) (t : Tile) (o : Nat) (s : State),
    portTakes s y = true → portPart s y = some r.part → partServes s r.part = true → r.rsv = false →
    let va := r.rva.toNat
    let n := r.len.toNat
    let held := Mem.readN s.wells (wellAt (homeShaft s t) o) n
    let old := leNat held
    let swapped := fun (x : Nat) (s' : State) => Answered y r 0 (toLe 8 old) s s' ∧ StoredAt t o (toLe 8 (x % 2 ^ 64)) s s'
    let reduced := fun (f : FFmt) (w op : Nat) (s' : State) => Answered y r 0 [] s s'
      ∧ StoredAt t o (ungroup w (List.zipWith (redElem f op) (groupLe w (n / w) held) (groupLe w (n / w) data))) s s'
    (peerMay s y r.srcModule r.srcPart 1 = true → lenOk n = true → data.length = n → Reaches y r.part va n false true t o s →
      ∃ s', Sys2Proof.Machine.exec (.put y r data) s = .next s' ∧ Answered y r 0 [] s s' ∧ StoredAt t o data s s')
    ∧ (peerMay s y r.srcModule r.srcPart 0 = true → lenOk n = true → Reaches y r.part va n true false t o s →
      ∃ s', Sys2Proof.Machine.exec (.get y r) s = .next s' ∧ Answered y r 0 held s s')
    ∧ (peerMay s y r.srcModule r.srcPart 2 = true → atomSeen s r.part r = none → n = 8 → va % 8 = 0 → Reaches y r.part va 8 true true t o s →
      (∃ s', Sys2Proof.Machine.exec (.atomicAdd64 y r a) s = .next s' ∧ swapped (old + a.arg.toNat) s')
      ∧ (∃ s', Sys2Proof.Machine.exec (.atomicSwap64 y r a) s = .next s' ∧ swapped a.arg.toNat s')
      ∧ (∃ s', Sys2Proof.Machine.exec (.atomicCas64 y r a) s = .next s' ∧ swapped (if old = a.cmp.toNat then a.arg.toNat else old) s')
      ∧ (∃ s', Sys2Proof.Machine.exec (.atomicFadd32 y r a) s = .next s' ∧ swapped (fadd32 a.arg.toNat old) s'))
    ∧ (∀ f w, peerMay s y r.srcModule r.srcPart 1 = true → redFmt fmt.toNat = some (f, w) → lenOk n = true → data.length = n →
        Reaches y r.part va n true true t o s →
      (∃ s', Sys2Proof.Machine.exec (.reduceSum y r fmt data) s = .next s' ∧ reduced f w 0 s')
      ∧ (∃ s', Sys2Proof.Machine.exec (.reduceMax y r fmt data) s = .next s' ∧ reduced f w 1 s')
      ∧ (∃ s', Sys2Proof.Machine.exec (.reduceMin y r fmt data) s = .next s' ∧ reduced f w 2 s'))

/-- One-sided operations of a peer and of a tile: IncomingOperations and OperationsOfATile and EachOperationCompletes. -/
def Obligations.RemoteOperations : Prop :=
  Sys2Proof.Claims.IncomingOperations ∧ Sys2Proof.Claims.OperationsOfATile ∧ Sys2Proof.Claims.EachOperationCompletes

/-! ## Collectives -/

/-- A ring collective of plain elements that a port may run, of one of the three kinds. -/
def Sys2Proof.Claims.plainRing (c : Coll) : Prop := c.ok = true ∧ c.direct = false ∧ c.pairs = false

/-- The command that starts a collective of a kind. -/
def Sys2Proof.Claims.startColl (y : Port) (kind : Nat) : Instr :=
  match kind with
  | 0 => .reduceScatter y
  | 1 => .allGather y
  | _ => .reduceScatterAllGather y

/-- A chunk has gone out on subport i to a rank of the collective, first of all that goes out. -/
def Sys2Proof.Claims.ChunkSent (y : Port) (i : Sub) (c : Coll) (dest chunk : Nat) (data : Bytes) (s s' : State) : Prop :=
  ∃ l, s'.out = s.out ++ .yurno y i (.coll (peerOf s c dest) c.cid c.stepNo c.rank chunk data) :: l

/-- The same bytes are stored from offset o1 of tile t1's home well on, and then from offset o2 of tile t2's. -/
def Sys2Proof.Claims.StoredTwice (t1 : Tile) (o1 : Nat) (t2 : Tile) (o2 : Nat) (bs : Bytes) (s s' : State) : Prop :=
  let a1 := wellAt (homeShaft s t1) o1
  let a2 := wellAt (homeShaft s t2) o2
  ∀ b, Mem.read s'.wells b =
    if a2 ≤ b ∧ b < a2 + bs.length then bs.getD (b - a2) 0
    else if a1 ≤ b ∧ b < a1 + bs.length then bs.getD (b - a1) 0 else Mem.read s.wells b

/-- R237, R238, R240: a doorbell from a tile of the port's partition queues the 64-byte descriptor in the tile's cistern
with the tile's step number. The engine starts the first queued collective where fewer than four run: a ring
reduce-scatter sends the chunk before its own to the next rank and keeps it in the retention region, an all-gather writes
its own chunk in place, keeps it there too and sends it. With nothing of that kind first, with four running, or while the
field is stopped or a region of the collective cannot be reached, nothing starts.
A clause that leaves the state as it is states the model's choice of log 1, for a command that nothing enables. -/
def Sys2Proof.Claims.CollectivesStart : Prop :=
  ∀ (t : Tile) (y : Port) (v : BitVec 32) (p : Part) (s : State),
    let off := (Machine.fld v 0 16).toNat
    let c0 : Coll :=
      { tile := t, desc := bytesLine (Mem.readN (s.mem t).cist (64 * off) 64), stepNo := BitVec.ofNat 64 (stepNo s t), seen := []
        parked := [], acc := [], retained := [], peersDone := 0, peersDue := 0, committed := false, at0 := 0 }
    (mayWrite s (.tile t) (yurnoPage y 5) = true →
      (portPart s y = some p → partOf s t = some p → off < 0xC000 → (s.port y).colQ.length < 16 → cleanCistern s t → c0.ok = true →
        Completes (.ycolDoorbell t y v) s (fun s' =>
          (s'.port y).colQ = (s.port y).colQ ++ [{ c0 with peersDue := if c0.r = 2 then 1 else 2 }] ∧ SameMemory s s' ∧ s'.out = s.out))
      ∧ ((portPart s y = none ∨ portPart s y ≠ partOf s t ∨ 0xC000 ≤ off ∨ 16 ≤ (s.port y).colQ.length) →
        Completes (.ycolDoorbell t y v) s (fun s' =>
          s'.rbit (yurnoPage y 0 + 0x010) 5 = true ∧ s'.ports = s.ports ∧ SameMemory s s' ∧ s'.cores = s.cores)))
    ∧ (∀ kind, kind < 3 →
        ((s.port y).colQ = [] ∨ 4 ≤ (s.port y).colRun.length ∨ fieldRuns s (portField y) = false
          ∨ (∃ c, (s.port y).colQ.head? = some c ∧ (c.kind ≠ kind ∨ collStops s y c = true))) → Completes (startColl y kind) s (fun s' => s' = s))
    ∧ (∀ (c : Coll) (rest : List Coll) (i : Sub) (w w3 : Tile) (o o3 : Nat), (s.port y).colQ = c :: rest → plainRing c →
        (s.port y).colRun.length < 4 → (∀ e ∈ (s.port y).colRun, sameColl e c = false) → (s.port y).colEarly = [] → c.seen = [] →
        c.retained = [] → fieldRuns s (portField y) = true → firstUp s y = some i → partOf s c.tile = some p →
        collStops s y c = false → Reaches y p (c.slot 0) (c.ce * c.inW) false true w3 o3 s →
      let n := c.ce * c.inW
      (c.kind ≠ 1 → Reaches y p (c.inVa + c.prev * c.ce * c.inW) n true false w o s →
        let chunk := Mem.readN s.wells (wellAt (homeShaft s w) o) n
        Completes (startColl y c.kind) s (fun s' =>
          ChunkSent y i c c.next c.prev chunk s s' ∧ (s'.port y).colQ = rest ∧ StoredAt w3 o3 chunk s s' ∧ s'.cores = s.cores
          ∧ (s'.port y).colRun = (s.port y).colRun ++ [{ c with at0 := s.tsclk, retained := [(c.prev, [])] }]))
      ∧ (∀ w2 o2, c.kind = 1 → Reaches y p c.inVa n true false w o s →
          Reaches y p (c.outVa + c.rank * c.ce * c.outW) n false true w2 o2 s →
        let chunk := Mem.readN s.wells (wellAt (homeShaft s w) o) n
        Completes (.allGather y) s (fun s' =>
          ChunkSent y i c c.next (c.r + c.rank) chunk s s' ∧ StoredTwice w2 o2 w3 o3 chunk s s' ∧ (s'.port y).colQ = rest
          ∧ (s'.port y).colRun = (s.port y).colRun ++ [{ c with at0 := s.tsclk, retained := [(c.r + c.rank, [])] }])))

/-- R238, R240, R303: a chunk that comes for a running reduce-scatter of the ring is combined with the rank's own: the
rank's own chunk is written and the collective arrives at its weir, another is kept in the retention region and sent on. A
message for a collective whose regions cannot be reached is held. A message of a later step waits, one
of an earlier step or without permission is discarded, and while the field is stopped all are held. A collective over
its time ends with an error; a peer's HALT suspends the time.
A clause that leaves the state as it is states the model's choice of log 1, for a command that nothing enables. -/
def Sys2Proof.Claims.CollectivesGoOn : Prop :=
  ∀ (y : Port) (cid : BitVec 32) (step : BitVec 64) (rank chunk : Nat) (data : Bytes) (p : Part) (s : State),
    let msg := Instr.collectiveMessage y cid step rank chunk data
    let is := fun (c : Coll) => c.cid == cid && c.stepNo == step
    (portTakes s y = false → portUp s y = true → fieldDark s (portField y) = false → Completes msg s (fun s' =>
        s'.hub.held = s.hub.held ++ [msg] ∧ s'.ports = s.ports ∧ SameRest s s'))
    ∧ (portUp s y = false → Completes msg s (fun s' => s' = s))
    ∧ (portTakes s y = true → (s.port y).colRun.find? is = none → (s.port y).colRetained.find? is = none → portPart s y = some p →
        (step.toNat < stepNo s ((partTiles s p).headD 0) → Completes msg s (fun s' => s' = s))
        ∧ (stepNo s ((partTiles s p).headD 0) ≤ step.toNat → Completes msg s (fun s' =>
          (s'.port y).colEarly = (s.port y).colEarly ++ [{ cid := cid, stepNo := step, rank := rank, chunk := chunk, data := data }]
          ∧ SameMemory s s' ∧ s'.out = s.out)))
    ∧ (∀ c, portTakes s y = true → (s.port y).colRun.find? is = some c →
        (colMay s y c rank = false ∨ c.expects rank chunk data = false) → Completes msg s (fun s' => s' = s))
    ∧ (∀ c, portTakes s y = true → (s.port y).colRun.find? is = some c → colMay s y c rank = true → c.expects rank chunk data = true →
        collStops s y c = true → Completes msg s (fun s' => s'.hub.held = s.hub.held ++ [msg] ∧ s'.ports = s.ports ∧ SameRest s s'))
    ∧ (∀ (c : Coll) (i : Sub) (w : Tile) (o : Nat), portTakes s y = true → (s.port y).colRun.find? is = some c → plainRing c → c.kind = 0 →
        colMay s y c rank = true → c.expects rank chunk data = true → collStops s y c = false → c.seen.contains (rank, chunk) = false →
        (∀ e ∈ c.seen, e.2 ≠ c.rank) → chunk < c.r → firstUp s y = some i → partOf s c.tile = some p →
        Reaches y p (c.inVa + chunk * c.ce * c.inW) (c.ce * c.inW) true false w o s →
      let a := c.combine data (Mem.readN s.wells (wellAt (homeShaft s w) o) (c.ce * c.inW))
      (∀ w3 o3, chunk ≠ c.rank → c.retained.length < c.r - 1 →
          Reaches y p (c.slot c.retained.length) (c.ce * c.inW) false true w3 o3 s → Completes msg s (fun s' =>
            ChunkSent y i c c.next chunk a s s' ∧ StoredAt w3 o3 a s s' ∧ s'.cores = s.cores))
      ∧ (∀ w2 o2 id, chunk = c.rank → Reaches y p c.outVa (c.ce * c.outW) false true w2 o2 s → weirId s p c.handle = some id →
          (s.weir id).count.toNat + 1 < (s.weir id).thr.toNat → Completes msg s (fun s' =>
            StoredAt w2 o2 a s s' ∧ (s'.weir id).count = (s.weir id).count + 1 ∧ ∀ e ∈ (s'.port y).colRun, sameColl e c = false)))
    ∧ (∀ c id, (s.port y).colRun.find? (·.cid == cid) = some c →
        let due := c.at0 + (Machine.fld (s.reg (ypCtl y)) 14 8).toNat * 1000000
        ((s.port y).peerHalted = true ∨ s.tsclk ≤ due → Completes (.collectiveTimeout y cid) s (fun s' => s' = s))
        ∧ ((s.port y).peerHalted = false → due < s.tsclk → partOf s c.tile = some p → weirId s p c.handle = some id →
            (s.weir id).count.toNat + 1 < (s.weir id).thr.toNat → Completes (.collectiveTimeout y cid) s (fun s' =>
          s'.rbit (yurnoPage y 0 + 0x010) 6 = true ∧ (∀ e ∈ (s'.port y).colRun, sameColl e c = false)
          ∧ (s'.weir id).count = (s.weir id).count + 1 ∧ SameMemory s s'
          ∧ ∃ n, 1 ≤ n ∧ n ≤ 7
              ∧ (s'.seq c.tile).unabsorbed = some ((s.seq c.tile).unabsorbed.getD (.op (BitVec.ofNat 3 n))))))

/-- R237, R238, R240: reduceScatter, reduceScatterAllGather and collectiveMessage each complete: a ring collective of its
kind, first in the queue, is started where fewer than four run and its regions are in reach, and sends its first chunk; a
chunk that a running reduce-scatter expects and that is another rank's is combined with the rank's own and sent on. -/
def Sys2Proof.Claims.EachCollectiveCompletes : Prop :=
  ∀ (y : Port) (c : Coll) (rest : List Coll) (i : Sub) (p : Part) (w w3 : Tile) (o o3 rank chunk : Nat) (data : Bytes) (s : State),
    let n := c.ce * c.inW
    plainRing c → firstUp s y = some i → partOf s c.tile = some p → collStops s y c = false → fieldRuns s (portField y) = true →
    ((s.port y).colQ = c :: rest → (s.port y).colRun.length < 4 → (∀ e ∈ (s.port y).colRun, sameColl e c = false) →
      (s.port y).colEarly = [] → c.seen = [] → c.retained = [] → Reaches y p (c.slot 0) n false true w3 o3 s →
      Reaches y p (c.inVa + c.prev * c.ce * c.inW) n true false w o s →
      let sent := fun (s' : State) => ChunkSent y i c c.next c.prev (Mem.readN s.wells (wellAt (homeShaft s w) o) n) s s'
        ∧ (s'.port y).colQ = rest
      (c.kind = 0 → ∃ s', Sys2Proof.Machine.exec (.reduceScatter y) s = .next s' ∧ sent s')
      ∧ (c.kind = 2 → ∃ s', Sys2Proof.Machine.exec (.reduceScatterAllGather y) s = .next s' ∧ sent s'))
    ∧ (portTakes s y = true → (s.port y).colRun.find? (fun e => e.cid == c.cid && e.stepNo == c.stepNo) = some c → c.kind = 0 →
      colMay s y c rank = true → c.expects rank chunk data = true → c.seen.contains (rank, chunk) = false → (∀ e ∈ c.seen, e.2 ≠ c.rank) →
      chunk < c.r → chunk ≠ c.rank → c.retained.length < c.r - 1 → Reaches y p (c.slot c.retained.length) n false true w3 o3 s →
      Reaches y p (c.inVa + chunk * c.ce * c.inW) n true false w o s →
      ∃ s', Sys2Proof.Machine.exec (.collectiveMessage y c.cid c.stepNo rank chunk data) s = .next s'
        ∧ ChunkSent y i c c.next chunk (c.combine data (Mem.readN s.wells (wellAt (homeShaft s w) o) n)) s s')

/-- Collectives start, go on and end: CollectivesStart and CollectivesGoOn and EachCollectiveCompletes. -/
def Obligations.Collectives : Prop :=
  Sys2Proof.Claims.CollectivesStart ∧ Sys2Proof.Claims.CollectivesGoOn ∧ Sys2Proof.Claims.EachCollectiveCompletes

/-! ## The ensemble -/

/-- An ensemble message has gone out first, on the port that R241 gives. -/
def Sys2Proof.Claims.EnsSent (m : YMsg) (s s' : State) : Prop :=
  ∀ z i, ensPort s = some z → firstUp s z = some i → ∃ l, s'.out = s.out ++ .yurno z i m :: l

/-- R241, R242: a setpoint of the leader for this group is refused with EVT_STS.ens_reject where it names another group,
sender or code, or is older; a copy counts once. A newer one that comes 2 ms ahead becomes the pending setpoint, capped at the
local ceiling, and is acknowledged; a late one is acknowledged as late and leaves the pending one. At its time, unless the
module is stopped, it is in force.
A clause that leaves the state as it is states the model's choice of log 1, for a command that nothing enables. -/
def Sys2Proof.Claims.SetpointsAreTakenOnce : Prop :=
  ∀ (y : Port) (src group : BitVec 16) (seq : Nat) (code : BitVec 6) (time : BitVec 64) (s : State),
    let cmd := Instr.setpoint y src group seq code time
    let mine := group = ensGroup s ∧ src = Machine.fld (s.reg yensLeader) 0 16 ∧ code.toNat ≤ 36
    let rejected := fun (s' : State) => s'.rbit (yurnoPage y 0 + 0x010) 8 = true ∧ s'.gov = s.gov ∧ codeNow s' = codeNow s
    (portUp s y = false → Completes cmd s (fun s' => s' = s))
    ∧ (portUp s y = true → ¬ mine → Completes cmd s rejected)
    ∧ (∀ n, portUp s y = true → mine → s.gov.lastSeq = some n →
        (seq = n → Completes cmd s (fun s' => s' = s)) ∧ (seq < n → Completes cmd s rejected))
    ∧ (portUp s y = true → mine → (∀ n, s.gov.lastSeq = some n → n < seq) →
      (s.tsclk + 2000000 ≤ time.toNat → Completes cmd s (fun s' =>
          s'.gov.setpoint = some { seq := seq, code := BitVec.ofNat 6 (min code.toNat (fceil s)), time := time.toNat }
          ∧ s'.gov.lastSeq = some seq ∧ codeNow s' = codeNow s
          ∧ EnsSent (.ack (ensGroup s) seq (if fceil s < code.toNat then 2 else 0)) s s'))
      ∧ (time.toNat < s.tsclk + 2000000 → Completes cmd s (fun s' =>
          s'.gov.setpoint = s.gov.setpoint ∧ s'.gov.lastSeq = some seq ∧ s'.rbit (yurnoPage y 0 + 0x010) 8 = true
          ∧ codeNow s' = codeNow s)))
    ∧ (∀ p, s.gov.setpoint = some p →
        (p.time ≤ s.tsclk → stopped s = false → Completes .setpointApply s (fun s' =>
          codeNow s' = p.code.toNat ∧ s'.gov.setpoint = none ∧ s'.gov.forceSeq = p.seq ∧ SameMemory s s'
          ∧ SameRegs [govSts, yensSts] s s'))
        ∧ ((s.tsclk < p.time ∨ stopped s = true) → Completes .setpointApply s (fun s' => s' = s)))
    ∧ (s.gov.setpoint = none → Completes .setpointApply s (fun s' => s' = s))

/-- R241, R242, R293, R303: the leader records each member's acknowledgement and each LAG; a LAG below the setpoint in force
or pending makes the lower setpoint, 2 to 48 ms ahead. HALT suspends the timeouts for a peer until RESUME or DOWN. A port that
is down takes nothing, and another group's message is refused.
A clause that leaves the state as it is states the model's choice of log 1, for a command that nothing enables. -/
def Sys2Proof.Claims.EnsembleMessages : Prop :=
  ∀ (y : Port) (src group : BitVec 16) (seq : Nat) (code : BitVec 6) (status cause : BitVec 2) (s : State),
    (portUp s y = false → ∀ c ∈ [Instr.ack y src group seq status, .lag y src group seq code cause, .haltMessage y, .resumeMessage y,
        .downMessage y], Completes c s (fun s' => s' = s))
    ∧ (portUp s y = true →
      (group ≠ ensGroup s → ∀ c ∈ [Instr.ack y src group seq status, .lag y src group seq code cause], Completes c s (fun s' =>
          s'.rbit (yurnoPage y 0 + 0x010) 8 = true ∧ s'.gov = s.gov))
      ∧ (group = ensGroup s → leads s = false → ∀ c ∈ [Instr.ack y src group seq status, .lag y src group seq code cause],
          Completes c s (fun s' => s' = s))
      ∧ (group = ensGroup s → leads s = true →
        Completes (.ack y src group seq status) s (fun s' =>
          (src, seq, status) ∈ s'.gov.acks ∧ s'.gov.setpoint = s.gov.setpoint ∧ s'.regs = s.regs)
        ∧ (codeAhead s ≤ code.toNat → Completes (.lag y src group seq code cause) s (fun s' =>
          (src, seq, code, cause) ∈ s'.gov.lags ∧ s'.gov.setpoint = s.gov.setpoint ∧ s'.regs = s.regs))
        ∧ (code.toNat < codeAhead s → Completes (.lag y src group seq code cause) s (fun s' =>
          (src, seq, code, cause) ∈ s'.gov.lags
          ∧ ∃ t, s.tsclk + 2000000 ≤ t ∧ t ≤ s.tsclk + 48000000
              ∧ s'.gov.setpoint = some { seq := s.gov.lastSeq.getD 0 + 1, code := BitVec.ofNat 6 (min code.toNat (fceil s)), time := t }
              ∧ EnsSent (.setpoint (ensGroup s) (s.gov.lastSeq.getD 0 + 1) code t) s s')))
      ∧ Completes (.haltMessage y) s (fun s' => (s'.port y).peerHalted = true ∧ s'.regs = s.regs)
      ∧ Completes (.resumeMessage y) s (fun s' => (s'.port y).peerHalted = false ∧ s'.regs = s.regs)
      ∧ Completes (.downMessage y) s (fun s' => (s'.port y).peerHalted = false ∧ s'.regs = s.regs))

/-- R241, R242: setpoint completes for the leader's newer setpoint of this group with a code up to 36 that comes 2 ms
ahead, on a port that is up: it is the pending one, capped at the local ceiling. -/
def Sys2Proof.Claims.SetpointCompletes : Prop :=
  ∀ (y : Port) (src group : BitVec 16) (seq : Nat) (code : BitVec 6) (time : BitVec 64) (s : State),
    portUp s y = true → group = ensGroup s → src = Machine.fld (s.reg yensLeader) 0 16 → code.toNat ≤ 36 →
    (∀ n, s.gov.lastSeq = some n → n < seq) → s.tsclk + 2000000 ≤ time.toNat →
      ∃ s', Sys2Proof.Machine.exec (.setpoint y src group seq code time) s = .next s' ∧ s'.gov.lastSeq = some seq
        ∧ s'.gov.setpoint = some { seq := seq, code := BitVec.ofNat 6 (min code.toNat (fceil s)), time := time.toNat }

/-- Setpoints and the ensemble's messages: SetpointsAreTakenOnce and EnsembleMessages and SetpointCompletes. -/
def Obligations.EnsembleFrequency : Prop :=
  Sys2Proof.Claims.SetpointsAreTakenOnce ∧ Sys2Proof.Claims.EnsembleMessages ∧ Sys2Proof.Claims.SetpointCompletes

/-! ## Stops -/

/-- A stop condition is in force: its cause shows, the module is stopped, and where it ran, every powered field stands at
retention with its wells in self-refresh and FCLK gated; no byte and no tile changes (Table 13.5). -/
def Sys2Proof.Claims.StopTaken (c : Nat) (s s' : State) : Prop :=
  s'.rbit govSts c = true ∧ stopped s' = true ∧ SameMemory s s' ∧ s'.cores = s.cores
  ∧ (stopped s = false → s'.rbit (govPage 0 + 0x010) 8 = true ∧ ∀ f, (s.fld f).supply = .on →
      (s'.fld f).supply = .stopped ∧ (s'.fld f).fclkRun = false ∧ (s'.fld f).selfRefresh = ((s.fld f).fclkRun || (s.fld f).selfRefresh))

/-- A stop condition has ended: where it was the last, the module restarts its fields, whose wells stay in self-refresh; and
it stays stopped where another remains (R301, R303). -/
def Sys2Proof.Claims.StopEnded (c : Nat) (s s' : State) : Prop :=
  s'.rbit govSts c = false ∧ SameMemory s s' ∧ s'.cores = s.cores
  ∧ (stopped s = true → (∀ i, 3 ≤ i → i < 8 → i ≠ c → s.rbit govSts i = false) → stopped s' = false ∧ ∀ f, (s.fld f).supply = .stopped →
      (s'.fld f).supply = .on ∧ (s'.fld f).fclkRun = (s.fld f).selfRefresh ∧ (s'.fld f).selfRefresh = (s.fld f).selfRefresh)
  ∧ ((∃ i, 3 ≤ i ∧ i < 8 ∧ i ≠ c ∧ s.rbit govSts i = true) → stopped s' = stopped s ∧ s'.fields = s.fields)

/-- The sequenced power-down: every field off, the wells lost, every image ended, every port down, nothing held, PGOOD_OUT and
FAULT_N low, not READY (R302). -/
def Sys2Proof.Claims.PoweredDown (s s' : State) : Prop :=
  s'.svc.power = .down ∧ s'.svc.downAt = s.tsclk ∧ s'.wells = [] ∧ s'.svc.pins.pgood = false ∧ s'.svc.pins.faultN = false
  ∧ isReady s' = false ∧ s'.hub.held = [] ∧ s'.rbit (govPage 0 + 0x010) 9 = true ∧ (∀ f, (s'.fld f).supply = .off ∧ (s'.fld f).fclkRun = false)
  ∧ (∀ y, portUp s' y = false) ∧ ∀ p, pstate s p ≠ 0 → (s'.prt p).image = none

/-- R300, R301, R304, R349: each stop condition of a powered module stops it: a junction at 115 °C or more, TRAY_STOP_N, a
flow loss without a coolant trip override, a write of GOV_STOP.stop. The trip and the flow loss start the 5 s wait.
A clause that leaves the state as it is states the model's choice of log 1, for a command that nothing enables. -/
def Sys2Proof.Claims.StopConditions : Prop :=
  ∀ (f : Field) (temp : Nat) (m : Master) (s : State), s.svc.power = .on →
    let waiting := fun (s' : State) => s'.rbit govSts 8 = true ∧ (s.rbit govSts 8 = false → s'.gov.waitAt = some s.tsclk)
    (1150 ≤ temp → fieldDark s f = false → Completes (.internalThermalTrip f temp) s (fun s' =>
        StopTaken cTrip s s' ∧ waiting s' ∧ s'.svc.pins.thermTripN = false))
    ∧ ((temp < 1150 ∨ fieldDark s f = true) → Completes (.internalThermalTrip f temp) s (fun s' => s' = s))
    ∧ (s.svc.pins.trayStopN = true → Completes .trayStop s (fun s' => StopTaken cTray s s' ∧ s'.svc.pins.trayStopN = false))
    ∧ (s.svc.pins.trayStopN = false → Completes .trayStop s (fun s' => s' = s))
    ∧ (s.svc.pins.flowLossN = true → override s = false → Completes .trayFlowLoss s (fun s' => StopTaken cFlow s s' ∧ waiting s'))
    ∧ (s.svc.pins.flowLossN = true → override s = true → Completes .trayFlowLoss s (fun s' =>
        s'.svc.pins.flowLossN = false ∧ s'.regs = s.regs ∧ s'.fields = s.fields ∧ s'.cores = s.cores))
    ∧ (s.svc.pins.flowLossN = false → Completes .trayFlowLoss s (fun s' => s' = s))
    ∧ (mayWrite s m (govPage 0) = true → Completes (.govStop m) s (StopTaken cHost s))
    ∧ (mayWrite s m (govPage 0) = false → Completes (.govStop m) s (fun s' => stopped s' = stopped s ∧ s'.fields = s.fields))

/-- R301, R303, R304: the module restarts when the last of its stop conditions ends. GOV_STOP.run ends the host's stop,
and a trip where every sensor reads at most 80 °C. PPS_IN's loss and return show in GOV_STS and change no supply. No
instruction stands.
A clause that leaves the state as it is states the model's choice of log 1, for a command that nothing enables. -/
def Sys2Proof.Claims.RestartConditions : Prop :=
  ∀ (m : Master) (hottest : Nat) (s : State), (∀ u, quiet s u) →
    (s.svc.pins.trayStopN = false → Completes .trayStopRelease s (fun s' => StopEnded cTray s s' ∧ s'.svc.pins.trayStopN = true))
    ∧ (s.svc.pins.trayStopN = true → Completes .trayStopRelease s (fun s' => s' = s))
    ∧ Completes .flowRestored s (fun s' => StopEnded cFlow s s' ∧ s'.svc.pins.flowLossN = true)
    ∧ (mayWrite s m (govPage 0) = true → safeRecent s govStop m = false →
        (s.rbit govSts cTrip = false ∨ 800 < hottest → Completes (.govRun m hottest) s (StopEnded cHost s))
        ∧ (s.rbit govSts cTrip = true → hottest ≤ 800 → Completes (.govRun m hottest) s (fun s' =>
          s'.rbit govSts cTrip = false ∧ s'.rbit govSts cHost = false ∧ s'.svc.pins.thermTripN = true ∧ s'.cores = s.cores)))
    ∧ (mayWrite s m (govPage 0) = true → safeRecent s govStop m = true → Completes (.govRun m hottest) s (fun s' =>
        s'.reg govSts = s.reg govSts ∧ s'.fields = s.fields ∧ s'.reg (hubPage 0 + 0x048) = satAdd (s.reg (hubPage 0 + 0x048)) 1))
    ∧ Completes .ppsLoss s (fun s' => s'.rbit govSts 0 = true ∧ s'.svc.pins.pps = false ∧ SameRegs [govSts] s s' ∧ s'.fields = s.fields)
    ∧ Completes .ppsRestored s (fun s' => s'.rbit govSts 0 = false ∧ s'.svc.pins.pps = true ∧ SameRegs [govSts] s s' ∧ s'.fields = s.fields)

/-- R302, R304, R350, R351: PWR_EN held low, the service button held, and a wait of 5 s or a sensor at 112 °C in it each power
the module down in sequence; a module that is not powered, or a wait not over, changes nothing but the pin.
A clause that leaves the state as it is states the model's choice of log 1, for a command that nothing enables. -/
def Sys2Proof.Claims.PowerDowns : Prop :=
  ∀ (hottest : Nat) (s : State),
    (s.svc.power = .on →
      Completes .pwrEnLow s (fun s' => PoweredDown s s' ∧ s'.svc.pins.pwrEn = false)
      ∧ Completes .svcBtnHold s (PoweredDown s)
      ∧ (∀ w, s.gov.waitAt = some w → s.rbit govSts 8 = true → (w + 5000000000 ≤ s.tsclk ∨ 1120 ≤ hottest) →
          Completes (.stopWaitTimeout hottest) s (PoweredDown s)))
    ∧ (s.svc.power ≠ .on → Completes .svcBtnHold s (fun s' => s' = s)
        ∧ Completes .pwrEnLow s (fun s' => s'.svc.pins.pwrEn = false ∧ s'.regs = s.regs ∧ s'.fields = s.fields ∧ s'.wells = s.wells))
    ∧ (∀ w, s.gov.waitAt = some w → s.tsclk < w + 5000000000 → hottest < 1120 → Completes (.stopWaitTimeout hottest) s (fun s' => s' = s))
    ∧ (s.gov.waitAt = none → Completes (.stopWaitTimeout hottest) s (fun s' => s' = s))

/-- Stops, restarts and power-downs of the module: StopConditions and RestartConditions and PowerDowns. -/
def Obligations.StopsAndPowerDowns : Prop :=
  Sys2Proof.Claims.StopConditions ∧ Sys2Proof.Claims.RestartConditions ∧ Sys2Proof.Claims.PowerDowns

/-! ## Power -/

/-- A field has lost its supply, unless it had none before. -/
def Sys2Proof.Claims.FieldLost (f : Field) (s s' : State) : Prop :=
  fieldDark s' f = true
  ∧ (fieldDark s f = false → (s'.fld f).supply = .lost ∧ (s'.fld f).fclkRun = false ∧ (s'.fld f).selfRefresh = false)

/-- R261, R262, R280, R301: VIN out of range is reported; between 42 and 46 V the supply limit is 1,000 A at that voltage;
below 42 V the module stops; below 36 V, or above 60 V, every field loses its supply; from 46 V on the limit and the stop end.
A voltage outside an event's range does nothing. With VIN present the loss of VHK is an event, without it the service island
loses its log. No port is up and no instruction stands.
A clause that leaves the state as it is states the model's choice of log 1, for a command that nothing enables. -/
def Sys2Proof.Claims.InputSupply : Prop :=
  ∀ (mv : Nat) (s : State), (∀ u, quiet s u) → (∀ y, portUp s y = false) →
    let out := (46000 ≤ mv ∧ mv < 48000) ∨ (58000 < mv ∧ mv ≤ 60000)
    (out → Completes (.vinOutOfRange mv) s (fun s' =>
        s'.svc.vin = mv ∧ s'.gov.vinLimit = none ∧ s'.rbit (govPage 3 + 0x010) 0 = true ∧ s'.fields = s.fields ∧ s'.cores = s.cores))
    ∧ (¬ out → Completes (.vinOutOfRange mv) s (fun s' => s' = s))
    ∧ (42000 ≤ mv → mv < 46000 → Completes (.vinLow mv) s (fun s' =>
        s'.svc.vin = mv ∧ s'.gov.vinLimit = some mv ∧ s'.rbit (govPage 3 + 0x010) 1 = true ∧ s'.fields = s.fields ∧ s'.cores = s.cores))
    ∧ (mv < 42000 ∨ 46000 ≤ mv → Completes (.vinLow mv) s (fun s' => s' = s))
    ∧ (mv < 42000 → s.svc.power = .on → Completes (.vinUndervoltage mv) s (fun s' => StopTaken cVin s s' ∧ s'.svc.vin = mv))
    ∧ (42000 ≤ mv → Completes (.vinUndervoltage mv) s (fun s' => s' = s))
    ∧ (mv < 36000 → Completes (.vinCollapse mv) s (fun s' => s'.svc.vin = mv ∧ ∀ f, FieldLost f s s'))
    ∧ (36000 ≤ mv → Completes (.vinCollapse mv) s (fun s' => s' = s))
    ∧ (60000 < mv → Completes (.vinOvervoltage mv) s (fun s' => s'.svc.vin = mv ∧ ∀ f, FieldLost f s s'))
    ∧ (mv ≤ 60000 → Completes (.vinOvervoltage mv) s (fun s' => s' = s))
    ∧ (46000 ≤ mv → mv ≤ 60000 → Completes (.vinRecovered mv) s (fun s' =>
        StopEnded cVin s s' ∧ s'.svc.vin = mv ∧ s'.gov.vinLimit = none
        ∧ (mv < 48000 ∨ 58000 < mv → s'.rbit (govPage 3 + 0x010) 0 = true)))
    ∧ (mv < 46000 ∨ 60000 < mv → Completes (.vinRecovered mv) s (fun s' => s' = s))
    ∧ (30000 ≤ s.svc.vin → Completes .vhkLoss s (fun s' =>
        s'.svc.vhk = false ∧ s'.svc.log = s.svc.log ∧ s'.rbit (govPage 3 + 0x010) 2 = true ∧ s'.fields = s.fields))
    ∧ (s.svc.vin < 30000 → Completes .vhkLoss s (fun s' =>
        s'.svc.vhk = false ∧ s'.svc.log = [] ∧ s'.svc.up = false ∧ s'.regs = s.regs ∧ s'.fields = s.fields))

/-- The code of a tie of f, and its mirror on the other side. -/
def Sys2Proof.Claims.TieIs (f : Field) (next : Bool) (n : Nat) (s' : State) : Prop :=
  tieOf s' f next = n ∧ tieOf s' (ringOf f next) (!next) = tieMirror n
  ∧ s'.rbit (fieldPage f 240 + 0x010) 2 = true ∧ s'.rbit (fieldPage (ringOf f next) 240 + 0x010) 2 = true

/-- R265 … R269: a tie closes towards a field whose VMID is in the tie window, from a healthy converter, and shows on both
sides; one fed by one tie is capped at 50 percent, by two at 80. A converter that fails open goes on both ties where its
neighbours are healthy; one that fails short opens its ties and its field is lost. No port is up and no instruction stands.
A clause that leaves the state as it is states the model's choice of log 1, for a command that nothing enables. -/
def Sys2Proof.Claims.ConvertersAndTies : Prop :=
  ∀ (f : Field) (next feeding : Bool) (mv : Nat) (s : State), (∀ u, quiet s u) → (∀ y, portUp s y = false) →
    let g := ringOf f next
    let fed := if feeding = true then g else f
    let src := if feeding = true then f else g
    let may := tieOf s f next = 0 ∧ healthy s src = true ∧ 1400 ≤ mv ∧ mv ≤ 1700
    (may → Completes (.tieClose f next feeding mv) s (fun s' =>
        TieIs f next (if feeding = true then 2 else 1) s' ∧ s'.fields = s.fields ∧ s'.cores = s.cores
        ∧ (convOf s fed = 0 → fieldCap s' fed = fieldCap s fed)
        ∧ (convOf s fed ≠ 0 → fieldCap s' fed = if feeds s' fed = 2 then 80 else 50)))
    ∧ (¬ may → Completes (.tieClose f next feeding mv) s (fun s' => s' = s))
    ∧ (tieOf s f next = 1 → (convOf s f = 0 ∨ tieOf s f (!next) = 1) → Completes (.tieOpen f next) s (fun s' =>
        TieIs f next 0 s' ∧ s'.fields = s.fields ∧ s'.cores = s.cores ∧ (convOf s f ≠ 0 → fieldCap s' f = 50)))
    ∧ ((tieOf s f next = 0 ∨ tieOf s f next = 3) → Completes (.tieOpen f next) s (fun s' => s' = s))
    ∧ (healthy s f = true → (∀ n, tieOf s f n = 0 ∧ healthy s (ringOf f n) = true) → Completes (.converterFailOpen f) s (fun s' =>
        convOf s' f = 1 ∧ (∀ n, TieIs f n 1 s') ∧ fieldCap s' f = 80 ∧ s'.rbit (fieldPage f 240 + 0x010) 0 = true
        ∧ s'.fields = s.fields ∧ s'.cores = s.cores))
    ∧ (healthy s f = false → Completes (.converterFailOpen f) s (fun s' => s' = s))
    ∧ (convOf s f ≠ 2 → fieldDark s f = false → Completes (.converterFailShort f) s (fun s' =>
        convOf s' f = 2 ∧ FieldLost f s s' ∧ s'.rbit (fieldPage f 240 + 0x010) 1 = true
        ∧ ∀ n, tieOf s f n ≠ 3 → tieOf s' f n = 0))
    ∧ ((convOf s f = 2 ∨ fieldDark s f = true) → Completes (.converterFailShort f) s (fun s' => s' = s))

/-- R272, R274 … R278: the first failed phase of a tile lowers its current limit, the second darkens the tile above the place.
A sample below the lowest since the last read is kept with its time and current, and a read of the entry gives it, copies it
to RAIL_SNAP and clears it. A path whose drop stays above its ratio for its time is reported; a point without a path is not.
A clause that leaves the state as it is states the model's choice of log 1, for a command that nothing enables. -/
def Sys2Proof.Claims.RegulatorsAndRails : Prop :=
  ∀ (f : Field) (shaft : Fin 96) (m : Master) (p : RailPoint) (mv amps i drop expected ms : Nat) (s : State),
    let pg := fieldPage f 240
    let a := railEntry p
    let c := s.reg (pg + 0x060)
    (phaseFails s f shaft.val = 0 → Completes (.ivrPhaseFail f shaft) s (fun s' =>
        phaseFails s' f shaft.val = 1 ∧ s'.rbit (pg + 0x010) 3 = true ∧ s'.cores = s.cores ∧ SameMemory s s'
        ∧ ∀ t, tileField t = f → shaftPlace (tileShaft s t) = shaft.val → tgovCap s t = 400 ∧ tgovCap s' t = 350))
    ∧ (∀ t, phaseFails s f shaft.val = 1 → tileAbove s (placeShaft f shaft.val) = some t → Completes (.ivrPhaseFail f shaft) s (fun s' =>
        phaseFails s' f shaft.val = 2 ∧ s'.rbit (pg + 0x010) 4 = true ∧ (s'.seq t).dark = true ∧ (s'.seq t).fenced = true
        ∧ (s'.mem t).sb = []))
    ∧ (2 ≤ phaseFails s f shaft.val → Completes (.ivrPhaseFail f shaft) s (fun s' => s' = s))
    ∧ (mv < 65536 → (bit (s.reg a) 31 = false ∨ mv < (Machine.fld (s.reg a) 0 16).toNat) → Completes (.railSample p mv amps) s (fun s' =>
        s'.reg a = BitVec.ofNat 32 (0x80000000 + mv) ∧ s'.reg (a + 4) = BitVec.ofNat 32 s.tsclk
        ∧ s'.reg (a + 12) = BitVec.ofNat 32 (min amps 0xFFFF) ∧ s'.cores = s.cores ∧ SameMemory s s'))
    ∧ (bit (s.reg a) 31 = true → (Machine.fld (s.reg a) 0 16).toNat ≤ mv → Completes (.railSample p mv amps) s (fun s' =>
        (∀ k ∈ [0, 4, 8, 12], s'.reg (a + k) = s.reg (a + k)) ∧ s'.cores = s.cores ∧ SameMemory s s'))
    ∧ Completes (.railMinRead m p) s (fun s' =>
        s'.out = s.out ++ [.value m (s.reg a)] ∧ s'.cores = s.cores ∧ SameMemory s s'
        ∧ ∀ k ∈ [0, 4, 8, 12], s'.reg (a + k) = 0 ∧ s'.reg (railSnap p + k) = s.reg (a + k))
    ∧ (hasPath i = true → (Machine.fld c 0 8).toNat * expected < drop * 10 → (Machine.fld c 8 8).toNat ≤ ms →
        Completes (.degradeDetect f i drop expected ms) s (fun s' => s'.rbit (pg + 0x010) 5 = true ∧ s'.cores = s.cores ∧ SameMemory s s'))
    ∧ (hasPath i = true → (drop * 10 ≤ (Machine.fld c 0 8).toNat * expected ∨ ms < (Machine.fld c 8 8).toNat) →
        (s.fld f).lastDrop.find? (·.1 == i) = none → Completes (.degradeDetect f i drop expected ms) s (fun s' =>
          s'.regs = s.regs ∧ s'.cores = s.cores ∧ SameMemory s s'))
    ∧ (hasPath i = false → Completes (.degradeDetect f i drop expected ms) s (fun s' => s' = s))

/-- The input supply, converters, ties, regulators and rails: InputSupply and ConvertersAndTies and RegulatorsAndRails. -/
def Obligations.PowerDelivery : Prop :=
  Sys2Proof.Claims.InputSupply ∧ Sys2Proof.Claims.ConvertersAndTies ∧ Sys2Proof.Claims.RegulatorsAndRails

/-! ## Governor -/

/-- A write of a governor register that is out of its range: EVT_STS.ctl_reject, and the register as it was. -/
def Sys2Proof.Claims.GovRejected (l : List Nat) (s s' : State) : Prop :=
  s'.rbit (govPage 0 + 0x010) 10 = true ∧ (∀ a ∈ l, s'.reg a = s.reg a) ∧ s'.gov = s.gov ∧ s'.cores = s.cores

/-- R279, R280, R259, R291, R298: the effective cap is the lowest of the four, with the lower code of equal ones as its
source. The caps take 5.0 … 41.0 kW from the masters that may write them and a fall is in force at once; GOV_FCEIL takes a
code up to 36 and only the service processor raises it; GOV_KW takes 35 … 70. Anything else is rejected. A rise is turned
away within 1 µs of another master's write. -/
def Sys2Proof.Claims.GovernorWrites : Prop :=
  ∀ (m : Master) (v : BitVec 32) (s : State),
    let cap := (Machine.fld v 0 16).toNat
    let code := (Machine.fld v 0 6).toNat
    let capReg := fun (hard : Bool) => govReg (if hard = true then 0x040 else 0x044)
    let capCmd := fun (hard : Bool) => if hard = true then Instr.govHcapWrite m v else .govScapWrite m v
    let capMay := fun (hard : Bool) => if hard = true then mayWrite s m (govPage 0) = true else m = .svp
    let turnedAway := fun (a : Nat) (s' : State) => s'.reg a = s.reg a ∧ s'.reg (hubPage 0 + 0x048) = satAdd (s.reg (hubPage 0 + 0x048)) 1
    (s.svc.outageAt = none → Completes .capRecompute s (fun s' =>
        capEff s' = (caps s).foldl min ((caps s).headD 0) ∧ SameRegs [govReg 0x048] s s'
        ∧ (caps s).findIdx? (· == capEff s') = some (Machine.fld (s'.reg (govReg 0x048)) 16 2).toNat))
    ∧ (∀ hard, capMay hard → override s = false →
        (50 ≤ cap → cap ≤ 410 → (cap ≤ (Machine.fld (s.reg (capReg hard)) 0 16).toNat ∨ safeRecent s (capReg hard) m = false) →
          Completes (capCmd hard) s (fun s' =>
            s'.reg (capReg hard) = BitVec.ofNat 32 cap ∧ capEff s' ≤ max cap (capEff s) ∧ (cap < capEff s → capEff s' ≤ cap)
            ∧ SameRegs [capReg hard, govReg 0x048] s s'))
        ∧ (cap < 50 ∨ 410 < cap → Completes (capCmd hard) s (GovRejected [capReg hard, govReg 0x048] s))
        ∧ (50 ≤ cap → cap ≤ 410 → (Machine.fld (s.reg (capReg hard)) 0 16).toNat < cap → safeRecent s (capReg hard) m = true →
          Completes (capCmd hard) s (turnedAway (capReg hard))))
    ∧ (mayWrite s m (govPage 0) = true →
        (code ≤ 36 → (code ≤ (Machine.fld (s.reg (govReg 0x050)) 0 6).toNat ∨ (m = .svp ∧ safeRecent s (govReg 0x050) m = false)) →
          Completes (.govFceilWrite m v) s (fun s' => s'.reg (govReg 0x050) = BitVec.ofNat 32 code ∧ SameRegs [govReg 0x050] s s'))
        ∧ (code ≤ 36 → (Machine.fld (s.reg (govReg 0x050)) 0 6).toNat < code → m ≠ .svp → Completes (.govFceilWrite m v) s (fun s' =>
          s'.reg (govReg 0x050) = s.reg (govReg 0x050) ∧ s'.reg (hubPage 0 + 0x044) = satAdd (s.reg (hubPage 0 + 0x044)) 1))
        ∧ (36 < code → Completes (.govFceilWrite m v) s (GovRejected [govReg 0x050] s))
        ∧ (35 ≤ Machine.fld v 0 7 → Machine.fld v 0 7 ≤ 70 → Completes (.kwCtlWrite m v) s (fun s' =>
          s'.reg (govReg 0x074) = v &&& 0x1FF ∧ SameRegs [govReg 0x074] s s'))
        ∧ (Machine.fld v 0 7 < 35 ∨ 70 < Machine.fld v 0 7 → Completes (.kwCtlWrite m v) s (GovRejected [govReg 0x074] s)))

/-- R259, R279, R280: govHcapWrite and govScapWrite each complete with a cap of 5.0 … 41.0 kW that does not rise, without a
coolant trip override: the first for a master that may write the page, the second for the service processor. -/
def Sys2Proof.Claims.CapWritesComplete : Prop :=
  ∀ (m : Master) (v : BitVec 32) (s : State), override s = false →
    let cap := (Machine.fld v 0 16).toNat
    50 ≤ cap → cap ≤ 410 →
      (mayWrite s m (govPage 0) = true → cap ≤ (Machine.fld (s.reg (govReg 0x040)) 0 16).toNat →
        ∃ s', Sys2Proof.Machine.exec (.govHcapWrite m v) s = .next s' ∧ s'.reg (govReg 0x040) = BitVec.ofNat 32 cap ∧ (cap < capEff s → capEff s' ≤ cap))
      ∧ (cap ≤ (Machine.fld (s.reg (govReg 0x044)) 0 16).toNat →
        ∃ s', Sys2Proof.Machine.exec (.govScapWrite .svp v) s = .next s' ∧ s'.reg (govReg 0x044) = BitVec.ofNat 32 cap ∧ (cap < capEff s → capEff s' ≤ cap))

/-- Caps, limits, ceiling and the governor's other controls: GovernorWrites and CapWritesComplete. -/
def Obligations.GovernorControls : Prop :=
  Sys2Proof.Claims.GovernorWrites ∧ Sys2Proof.Claims.CapWritesComplete

/-- R281, R282, R283, R299, R305: the energy counter takes what is used, and a read of its low word latches the high one for
its reader. A second at 5 kW or more without a stop adds a measurement of the thermal resistance, of which ten are kept, and
sets its cap. The estimated flow is judged against its two limits. A telemetry set is stored whole with its time, and
TEL_SEQ counts it.
A clause that leaves the state as it is states the model's choice of log 1, for a command that nothing enables. -/
def Sys2Proof.Claims.MeasurementsOfTheModule : Prop :=
  ∀ (m : Master) (mj tdie tin tout pw : Nat) (wasStopped : Bool) (d : TelemetrySet) (s : State),
    let x : Rat := (((tdie - tin) * 10000 : Nat) : Rat) / (pw : Nat)
    let w := s.reg (govReg 0x070)
    let low := fun (thr : Nat) => tin < tout ∧ 600 * pw < thr * 398 * (tout - tin)
    let warn := (Machine.fld w 0 8).toNat
    let alarm := (Machine.fld w 8 8).toNat
    Completes (.energyUpdate mj) s (fun s' => s'.gov = { s.gov with energy := s.gov.energy + BitVec.ofNat 64 mj } ∧ s'.regs = s.regs)
    ∧ Completes (.energyLoRead m) s (fun s' =>
        s'.out = s.out ++ [.value m (s.gov.energy.setWidth 32)] ∧ (energyHi s' m).1 = (s.gov.energy >>> 32).setWidth 32
        ∧ s'.gov.energy = s.gov.energy ∧ s'.regs = s.regs)
    ∧ (pw < 500 ∨ wasStopped = true → Completes (.rthMeasure tdie tin pw wasStopped) s (fun s' => s' = s))
    ∧ (500 ≤ pw → wasStopped = false → Completes (.rthMeasure tdie tin pw wasStopped) s (fun s' =>
        s'.gov.rth = (x :: s.gov.rth).take 10 ∧ s'.gov.rthCap = some (min 410 (rthCapOf (tlim s) tin ((x :: s.gov.rth).take 10)))
        ∧ ((((Machine.fld (s.reg (govReg 0x06C)) 16 16).toNat : Nat) : Rat) < x →
            s.gov.rth.headD 0 ≤ (((Machine.fld (s.reg (govReg 0x06C)) 16 16).toNat : Nat) : Rat) → s'.rbit (govPage 0 + 0x010) 1 = true)))
    ∧ (pw < 500 → Completes (.flowEstimate pw tout tin) s (fun s' => s' = s))
    ∧ (500 ≤ pw → (¬ low warn → ¬ low alarm → Completes (.flowEstimate pw tout tin) s (fun s' => s' = s))
        ∧ (low warn → Completes (.flowEstimate pw tout tin) s (fun s' => s'.rbit (govPage 0 + 0x010) 2 = true ∧ s'.gov = s.gov))
        ∧ (low alarm → Completes (.flowEstimate pw tout tin) s (fun s' => s'.rbit (govPage 0 + 0x010) 3 = true ∧ s'.gov = s.gov)))
    ∧ Completes (.telemetryUpdate d) s (fun s' =>
        s'.reg (telReg 0x040) = s.reg (telReg 0x040) + 1 ∧ s'.reg (telReg 0x044) = BitVec.ofNat 32 s.tsclk
        ∧ s'.reg (telReg 0x04C) = d.p.setWidth 32
        ∧ (∀ i x, (d.ft.take 48)[i]? = some x → s'.reg (telReg (0x080 + 4 * i)) = (x.1.setWidth 32 ||| ((x.2.setWidth 32 : Word) <<< 16) : Word))
        ∧ (∀ p, pageBase p ≠ govPage 1 → s'.reg p = s.reg p) ∧ SameMemory s s')

/-- R286, R295, R297, R298, R310: the budgets of the fields are those of R286 for the pool and the requests, none during an
outage of the service processor; those of the fields that keep-warm holds in phase 1,023 share what the pool leaves, in
equal parts (the model's choice, log 71). A schedule entry is taken where it comes after its predecessor with a ceiling of 5.0 …
41.0 kW. Before READY a ramp window bounds nothing; later its cap is the mean of the last window and the rate up.
A clause that leaves the state as it is states the model's choice of log 1, for a command that nothing enables. -/
def Sys2Proof.Claims.BudgetsAndRamps : Prop :=
  ∀ (m : Master) (e : Fin 32) (c : SchedEntry) (paux mean : Nat) (s : State),
    let req := (List.finRange 48).map (fieldRequest s)
    let late := e.val ≠ 0 ∧ s.rbit (sched (e.val - 1) 3) 0 = true ∧ c.time.toNat ≤ schedTime s (e.val - 1)
    let bad := c.valid = true ∧ (late ∨ (c.ceil.toNat ≠ 0 ∧ (c.ceil.toNat < 50 ∨ 410 < c.ceil.toNat)))
    (s.svc.outageAt = none → Completes (.fieldBudgetAllocate paux) s (fun s' =>
        (∀ f : Field, (keepWarm s f = false ∨ fieldPhase s f ≠ 1023 →
            (s'.fld f).budget = (budgets (pool s paux) req).getD f.val 0)
          ∧ (keepWarm s f = true → fieldPhase s f = 1023 →
            (s'.fld f).budget = (budgets (pool s paux) req).getD f.val 0
              + (pool s paux - (budgets (pool s paux) req).sum)
                / ((List.finRange 48).filter fun g => keepWarm s g && fieldPhase s g == 1023).length))
        ∧ (((pool s paux : Nat) : Rat) < req.foldl (· + ·) 0 → s'.rbit (govPage 0 + 0x010) 4 = true) ∧ s'.cores = s.cores))
    ∧ (s.svc.outageAt ≠ none → Completes (.fieldBudgetAllocate paux) s (fun s' => s' = s))
    ∧ (mayWrite s m (govPage 2) = true →
        (¬ bad → Completes (.schedWrite m e c) s (fun s' =>
          schedTime s' e.val = c.time.toNat ∧ s'.rbit (sched e.val 3) 0 = c.valid
          ∧ s'.reg (sched e.val 2) = BitVec.ofNat 32 (c.up.toNat + c.dn.toNat * 2 ^ 8 + c.ceil.toNat * 2 ^ 16)
          ∧ SameRegs ((List.range 4).map (sched e.val)) s s'))
        ∧ (bad → Completes (.schedWrite m e c) s (GovRejected ((List.range 4).map (sched e.val)) s)))
    ∧ (isReady s = false → Completes (.rampWindow mean) s (fun s' =>
        s'.gov.rampCap = none ∧ s'.gov.floor = 0 ∧ s'.gov.ceil = none ∧ SameRegs [govPage 2 + 0x044] s s'))
    ∧ (isReady s = true → s.gov.firstWindow = false → schedNow s = none → Completes (.rampWindow mean) s (fun s' =>
        s'.gov.rampCap = some (min 410 ((mean + (Machine.fld (s.reg (govPage 2 + 0x040)) 0 8).toNat * 100) / 100))
        ∧ s'.reg (govPage 2 + 0x044) = 63 ∧ s'.gov.ceil = none ∧ SameRegs [govPage 2 + 0x044, govReg 0x048] s s'))

/-- Measurements, budgets and ramps: MeasurementsOfTheModule and BudgetsAndRamps. -/
def Obligations.GovernorMeasures : Prop :=
  Sys2Proof.Claims.MeasurementsOfTheModule ∧ Sys2Proof.Claims.BudgetsAndRamps

/-- R287 … R290, R296: a field or a tile over its limit has 1/64 more of its cycles frozen, up to 63; after ten calm
microseconds 1/64 less; else as before; a field over its budget at 63 sets budget_clip (R286). The maquette excludes each
busy array quadrant as deep as Table 13.2 asks for its prediction, and no idle one. A junction at GOV_TLIM freezes its
tile one cycle in two. A field that does not run is not governed. TGOV_FILL counts only in an array that may take filler:
one with nothing queued, in a field that the floor or keep-warm warms (R296).
A clause that leaves the state as it is states the model's choice of log 1, for a command that nothing enables. -/
def Sys2Proof.Claims.FreezeInjection : Prop :=
  ∀ (f : Field) (t : Tile) (x : Nat) (mq : MqMeasure) (s : State),
    let inj := fieldInj s f
    let lim := fieldLimit s f
    let k := shaftPlace (tileShaft s t)
    let tf := tileField t
    let tinj := SMap.get zeroN (s.fld tf).tinj k
    (fieldRuns s f = false → Completes (.fieldGovernorTick f x) s (fun s' => s' = s))
    ∧ (fieldRuns s f = true → Completes (.fieldGovernorTick f x) s (fun s' =>
        (lim < x → fieldInj s' f = min (inj + 1) 63 ∧ (s'.fld f).calm = 0)
        ∧ (inj = 63 → lim < min x 0xFFFF → s'.rbit (govPage 0 + 0x010) 4 = true)
        ∧ (x ≤ lim → x * 100 ≤ lim * 98 → (s.fld f).calm = 9 → fieldInj s' f = inj - 1 ∧ (s'.fld f).calm = 0)
        ∧ (x ≤ lim → x * 100 ≤ lim * 98 → (s.fld f).calm < 9 → fieldInj s' f = inj ∧ (s'.fld f).calm = (s.fld f).calm + 1)
        ∧ (x ≤ lim → lim * 98 < x * 100 → fieldInj s' f = inj ∧ (s'.fld f).calm = 0)
        ∧ (s'.fld f).maxPower = max (s.fld f).maxPower x ∧ s'.cores = s.cores
        ∧ (fillDue s f = false ∨ fillTile s f t = false ∨ tf ≠ f → s'.reg (tilePage t 11 + 0x048) = s.reg (tilePage t 11 + 0x048))))
    ∧ (fieldRuns s tf = false → Completes (.tileGovernorTick t x) s (fun s' => s' = s))
    ∧ (fieldRuns s tf = true → Completes (.tileGovernorTick t x) s (fun s' =>
        (tgovCap s t < x → SMap.get zeroN (s'.fld tf).tinj k = min (tinj + 1) 63)
        ∧ (x ≤ tgovCap s t → tgovCap s t * 98 < x * 100 → SMap.get zeroN (s'.fld tf).tinj k = tinj)
        ∧ s'.regs = s.regs ∧ s'.cores = s.cores ∧ ∀ g, g ≠ tf → s'.fld g = s.fld g))
    ∧ ((mq.busy.map (fun e => e.1.val * 4 + e.2.val)).Nodup → Completes (.maquetteUpdate f mq) s (fun s' =>
        (∀ e ∈ mq.busy, SMap.get zeroN (s'.fld f).texcl (e.1.val * 4 + e.2.val) =
            mqDepth (tlim s) (mq.pred.getD (mqBlock e.1.val) 0) (SMap.get zeroN (s.fld f).texcl (e.1.val * 4 + e.2.val)))
        ∧ (∀ i, (∀ e ∈ mq.busy, i ≠ e.1.val * 4 + e.2.val) → SMap.get zeroN (s'.fld f).texcl i = 0)
        ∧ (s'.fld f).nodes = mq.nodes ∧ s'.cores = s.cores))
    ∧ ((s.seq t).dark = true ∨ fieldDark s tf = true → Completes (.tlimHit t x) s (fun s' => s' = s))
    ∧ ((s.seq t).dark = false → fieldDark s tf = false →
        (x < tlim s → Completes (.tlimHit t x) s (fun s' => SameRegs [tilePage t 11 + 0x044] s s' ∧ s'.fields = s.fields))
        ∧ (tlim s ≤ x → Completes (.tlimHit t x) s (fun s' =>
          SMap.get zeroN (s'.fld tf).tinj k = 32 ∧ s'.rbit (govPage 0 + 0x010) 5 = true ∧ s'.cores = s.cores)))

/-- R241, R292, R293: injection over the threshold, or a converter cap (or, as measured, a tile's current
limit after a failed phase, R272) below a request, or a wholly frozen field over its
budget (R286), begins bridging once and sends a LAG with the highest code the cap sustains; 50 ms of bridging are reported
once, and the LAG is sent again from then on.
A clause that leaves the state as it is states the model's choice of log 1, for a command that nothing enables. -/
def Sys2Proof.Claims.LagAndBridging : Prop :=
  ∀ (e : LagEval) (s : State),
    let thr := (Machine.fld (s.reg (govReg 0x078)) 0 5).toNat * 10
    let unsustained := (∃ i ∈ e.inj, thr < i) ∨ cappedField s e.supply = true ∨ ∃ f, fieldRuns s f = true ∧ overFrozen s f = true
    let code := BitVec.ofNat 6 (lagCodeOf s e.p e.pfix)
    (¬ unsustained ∨ s.rbit govSts 1 = true → Completes (.lagCheck e) s (fun s' => s' = s))
    ∧ (unsustained → s.rbit govSts 1 = false → Completes (.lagCheck e) s (fun s' =>
        s'.rbit govSts 1 = true ∧ s'.gov.lagCode = code ∧ s'.gov.bridgeAt = some (s.gov.injAt.getD s.tsclk)
        ∧ s'.rbit (govPage 0 + 0x010) 6 = true ∧ EnsSent (.lag (ensGroup s) s.gov.forceSeq code s'.gov.lagCause) s s' ∧ SameMemory s s'))
    ∧ (∀ b, s.gov.bridgeAt = some b →
        (s.rbit govSts 1 = true → b + 50000000 ≤ s.tsclk → s.gov.bridgeOver = false → Completes .bridgeOver s (fun s' =>
          s'.gov.bridgeOver = true ∧ s'.rbit (govPage 0 + 0x010) 7 = true
          ∧ s'.reg (govReg 0x07C) = satAdd (s.reg (govReg 0x07C)) 1 ∧ s'.cores = s.cores))
        ∧ (s.tsclk < b + 50000000 ∨ s.gov.bridgeOver = true ∨ s.rbit govSts 1 = false → Completes .bridgeOver s (fun s' => s' = s)))
    ∧ (s.gov.bridgeAt = none → Completes .bridgeOver s (fun s' => s' = s))
    ∧ (s.gov.bridgeOver = true → Completes .lagResend s (fun s' =>
        s'.rbit (govPage 0 + 0x010) 6 = true ∧ EnsSent (.lag (ensGroup s) s.gov.forceSeq s.gov.lagCode s.gov.lagCause) s s' ∧ SameMemory s s'))
    ∧ (s.gov.bridgeOver = false → Completes .lagResend s (fun s' => s' = s))

/-- Freeze injection, LAG and bridging: FreezeInjection and LagAndBridging. -/
def Obligations.InjectionAndLag : Prop :=
  Sys2Proof.Claims.FreezeInjection ∧ Sys2Proof.Claims.LagAndBridging

/-! ## Casting -/

/-- Casting has stopped at stage 2 or 3: FAULT_N low. -/
def Sys2Proof.Claims.CastStopped (s' : State) : Prop := castState s' = 2 ∧ s'.svc.pins.faultN = false

/-- R307, R320, R351: a rise of PWR_EN begins a cold casting at stage 1, every partition FREE and no byte in memory, where a
supply feeds the service island and no condition of a stop stands; it is ignored within 1 s after a power-down, and in a
powered module. A warm casting, ordered by the service processor or by a physical function with every partition FREE, begins
at stage 4 with the manifest kept and every field off; without a manifest it stops. It is rejected while a casting runs.
A clause that leaves the state as it is states the model's choice of log 1, for a command that nothing enables. -/
def Sys2Proof.Claims.CastingsBegin : Prop :=
  ∀ (m : Master) (s : State),
    let pinOnly := fun (s' : State) => s'.svc.pins.pwrEn = true ∧ s'.svc.power = s.svc.power ∧ s'.regs = s.regs ∧ s'.wells = s.wells
      ∧ s'.fields = s.fields
    let byMaster := m = .svp ∨ ∃ h, m = .pf h
    let free := ∀ p, pstate s p = 0
    (s.svc.pins.pwrEn = true → Completes .pwrEnRise s (fun s' => s' = s))
    ∧ (s.svc.pins.pwrEn = false →
      ((s.svc.power = .down ∧ s.tsclk < s.svc.downAt + 1000000000) ∨ s.svc.power = .on ∨ (s.svc.vhk = false ∧ s.svc.vin < 30000) →
        Completes .pwrEnRise s pinOnly)
      ∧ (s.svc.power ≠ .on → (s.svc.power = .down → s.svc.downAt + 1000000000 ≤ s.tsclk) → s.svc.pins.trayStopN = true →
          s.svc.pins.flowLossN = true → 42000 ≤ s.svc.vin → Completes .pwrEnRise s (fun s' =>
        castStage s' = 1 ∧ castState s' = 0 ∧ s'.svc.power = .on ∧ stopped s' = false ∧ (∀ p, pstate s' p = 0) ∧ s'.wells = []
        ∧ s'.cores = [] ∧ s'.svc.log = s.svc.log ∧ s'.svc.fuse = s.svc.fuse ∧ s'.svc.pins.pgood = false)))
    ∧ (byMaster → (s.svc.power ≠ .on ∨ castState s = 0) → Completes (.warmCastingRequest m) s (fun s' =>
        s'.rbit (castPage + 0x010) 5 = true ∧ castState s' = castState s ∧ s'.wells = s.wells ∧ s'.fields = s.fields ∧ s'.parts = s.parts))
    ∧ (byMaster → s.svc.power = .on → castState s ≠ 0 → free →
        (s.svc.manifestFlash.isSome = true → Completes (.warmCastingRequest m) s (fun s' =>
          castStage s' = 4 ∧ castState s' = 0 ∧ s'.wells = [] ∧ isReady s' = false ∧ s'.svc.manifest = s.svc.manifestFlash
          ∧ ∀ f, (s'.fld f).supply = .off ∧ (s'.fld f).absent = false))
        ∧ (s.svc.manifestFlash = none → Completes (.warmCastingRequest m) s (fun s' =>
          CastStopped s' ∧ (Machine.fld (s'.reg manSts) 0 4).toNat = 6)))
    ∧ (¬ byMaster → Completes (.warmCastingRequest m) s (fun s' =>
        castState s' = castState s ∧ s'.reg (hubPage 0 + 0x044) = satAdd (s.reg (hubPage 0 + 0x044)) 1 ∧ s'.wells = s.wells))

/-- R307, R308, R310, R312, R314, R318, R319: a stage that ends in a powered, running casting is followed by the next; stage 1
samples SLOT_ID, 2 brings the service processor up, 5 starts the clocks, 9 leaves every byte zero, 11 writes both maps with
the failed tiles found; stage 15 declares readiness or hold. A stage that times out in a field is retried twice where its
bound fits, and then the field is absent. Nothing ends while the module is stopped or casts no more.
A clause that leaves the state as it is states the model's choice of log 1, for a command that nothing enables. -/
def Sys2Proof.Claims.CastingStages : Prop :=
  ∀ (r : StageReport) (f : Field) (fits : Bool) (s : State),
    let n := castStage s
    let live := isCasting s = true ∧ stopped s = false
    let s1 := takeReport s r
    let ready := manMatch s1 = 0 ∧ withinAllowance s1 = true ∧ svcMode s = false
    let old := SMap.get zeroN s.svc.retries (retryKey n f.val)
    (live → 1 ≤ n → n ≤ 14 → stageDone s n = true → Completes (.castStageEnd r) s (fun s' =>
        castStage s' = n + 1 ∧ (n ≠ 4 → ∀ k ∈ foundFailed r, k ∈ s'.svc.failed) ∧ (n = 1 → s'.svc.slotSampled = s.svc.pins.slotId)
        ∧ (n = 2 → s'.svc.up = true)
        ∧ (n = 5 → codeNow s' = (if manNat s 25 1 ≤ 36 then manNat s 25 1 else 26) ∧ ∀ g, (s.fld g).supply = .on → (s'.fld g).fclkRun = true)
        ∧ (n = 9 → s'.wells = [] ∧ s'.wellUe = []
          ∧ ∀ t, phaseFails s (tileField t) (shaftPlace (tileShaft s t)) ≠ 2 → s'.core t = TileCore.reset)
        ∧ (n = 11 → ∀ g, s'.reg (fldRemap g) = mapWord s' g ∧ s'.reg (fldWmap g) = mapWord s' g)))
    ∧ (live → n = 15 → Completes (.castStageEnd r) s (fun s' =>
        (ready → castState s' = 1 ∧ isReady s' = true ∧ s'.svc.pins.faultN = true)
        ∧ (¬ ready → castState s' = 3 ∧ s'.svc.pins.faultN = false)))
    ∧ ((¬ live ∨ stageDone s n = false) → Completes (.castStageEnd r) s (fun s' => s' = s))
    ∧ (live → 4 ≤ n → n ≤ 13 → (s.fld f).absent = false →
        (old < 2 → fits = true → Completes (.castStageTimeout f fits) s (fun s' =>
          SMap.get zeroN s'.svc.retries (retryKey n f.val) = old + 1 ∧ s'.rbit (castPage + 0x010) 3 = true
          ∧ (n ≠ 5 → s'.fields = s.fields) ∧ (n = 5 → (s'.fld f).pll2 = true ∧ ∀ g, g ≠ f → s'.fld g = s.fld g)
          ∧ castStage s' = n))
        ∧ ((2 ≤ old ∨ fits = false) → Completes (.castStageTimeout f fits) s (fun s' =>
          (s'.fld f).absent = true ∧ (s'.fld f).supply = .off ∧ s'.rbit (castPage + 0x010) 2 = true ∧ castStage s' = n)))
    ∧ ((¬ live ∨ n < 4 ∨ 13 < n ∨ (s.fld f).absent = true) → Completes (.castStageTimeout f fits) s (fun s' => s' = s))

/-- A casting begins, passes its stages, and ends: CastingsBegin and CastingStages. -/
def Obligations.CastingStages : Prop :=
  Sys2Proof.Claims.CastingsBegin ∧ Sys2Proof.Claims.CastingStages

/-- R308, R316, R317: without a report of the booting image the other one starts, once; then casting stops. A manifest that is
well formed is kept, and is this casting's up to stage 3; another shows its result and changes nothing. After 10 s of stage 3
the kept manifest serves, or casting stops. A port's peer is recorded: in stage 13 one that the manifest does not name, or
no answer, holds the port down, and at other times it is answered. The ledger is written in both copies once it has changed.
A clause that leaves the state as it is states the model's choice of log 1, for a command that nothing enables. -/
def Sys2Proof.Claims.CastingInputs : Prop :=
  ∀ (b : Bytes) (y : Port) (d : DiscoverInfo) (s : State),
    let n := castStage s
    let booting := isCasting s = true ∧ n = 2 ∧ s.svc.up = false
    let other := if s.svc.runA = true then s.svc.fwB else s.svc.fwA
    let first := SMap.get zeroN s.svc.retries (retryKey 2 48) = 0
    let waits := isCasting s = true ∧ n = 3 ∧ s.svc.manifest = none ∧ s.svc.stageAt + 10000000000 ≤ s.tsclk
    let silent := isCasting s = true ∧ n = 13 ∧ portUp s y = true ∧ (s.port y).peer = none
    (booting → first → other ≠ 0 → Completes .imageBootTimeout s (fun s' => s'.svc.runA = (!s.svc.runA) ∧ castState s' = castState s))
    ∧ (booting → (¬ first ∨ other = 0) → Completes .imageBootTimeout s CastStopped)
    ∧ (¬ booting → Completes .imageBootTimeout s (fun s' => s' = s))
    ∧ (s.svc.up = false → Completes (.manifestReceive b) s (fun s' => s' = s))
    ∧ (s.svc.up = true → manJudge b ≠ 0 → Completes (.manifestReceive b) s (fun s' =>
        (Machine.fld (s'.reg manSts) 0 4).toNat = manJudge b ∧ s'.rbit (castPage + 0x010) 4 = true ∧ s'.svc = s.svc))
    ∧ (s.svc.up = true → manJudge b = 0 → castState s ≠ 3 → Completes (.manifestReceive b) s (fun s' =>
        (Machine.fld (s'.reg manSts) 0 4).toNat = 0 ∧ s'.svc.manifestFlash = some b
        ∧ s'.svc.manifest = (if isCasting s = true ∧ n ≤ 3 then some b else s.svc.manifest)))
    ∧ (∀ x, waits → s.svc.manifestFlash = some x → Completes .manifestTimeout s (fun s' =>
        s'.svc.manifest = some x ∧ castState s' = castState s))
    ∧ (waits → s.svc.manifestFlash = none → Completes .manifestTimeout s (fun s' =>
        CastStopped s' ∧ (Machine.fld (s'.reg manSts) 0 4).toNat = 6))
    ∧ (¬ waits → Completes .manifestTimeout s (fun s' => s' = s))
    ∧ (portUp s y = false → Completes (.discover y d) s (fun s' => s' = s))
    ∧ (portUp s y = true → Completes (.discover y d) s (fun s' => (s'.port y).peer = some d
        ∧ (isCasting s = true ∧ n = 13 → (s'.port y).heldDown = (manUnused s y || !peerMatches s y d) ∧ s'.out = s.out)
        ∧ (¬ (isCasting s = true ∧ n = 13) → ∃ i l, s'.out = s.out ++ .yurno y i (.discover (myInfo s y)) :: l)))
    ∧ (silent → Completes (.discoverTimeout y) s (fun s' => (s'.port y).heldDown = true ∧ portUp s' y = false))
    ∧ (¬ silent → Completes (.discoverTimeout y) s (fun s' => s' = s))
    ∧ (isReady s = true → s.svc.ledgerDirty = true → Completes .ledgerWrite s (fun s' =>
        s'.svc.ledgerDirty = false ∧ s'.svc.ledgerA = true ∧ s'.svc.ledgerB = true ∧ s'.regs = s.regs))
    ∧ ((isReady s = false ∨ s.svc.ledgerDirty = false) → Completes .ledgerWrite s (fun s' => s' = s))

/-- R34, R312, R313: the service processor's NBR_CTL.go sends on every enabled link between a tile and its neighbour that a
fence opens, and drops and counts the others; another master's is turned away. -/
def Sys2Proof.Claims.NeighbourTest : Prop :=
  ∀ (m : Master) (t : Tile) (s : State),
    let en := (List.range 4).filter fun n => s.rbit (nbr t 0x040) n && (linkNeighbour s t n).isSome
    let live := en.filter (linkFenced s t)
    let ue := tilePage t 12 + 0x024
    (m = .svp → Completes (.nbrTestGo m t) s (fun s' =>
        s'.reg ue = satAdd (s.reg ue) (en.length - live.length) ∧ s'.cores = s.cores ∧ SameMemory s s'
        ∧ (live ≠ [] → s'.rbit (tilePage t 12 + 0x010) 0 = true)
        ∧ (live = [] → SameRegs [ue] s s')
        ∧ ∀ n ∈ live, (s'.reg (nbr t (0x048 + 8 * n)) ≠ s.reg (nbr t 0x068) ∨ s'.reg (nbr t (0x04C + 8 * n)) ≠ s.reg (nbr t 0x06C)) →
            s'.rbit (nbr t 0x070) n = true))
    ∧ (m ≠ .svp → Completes (.nbrTestGo m t) s (fun s' =>
        s'.reg (hubPage 0 + 0x044) = satAdd (s.reg (hubPage 0 + 0x044)) 1 ∧ SameRegs [hubPage 0 + 0x044] s s' ∧ s'.cores = s.cores))

/-- What a casting takes in, and the neighbour test: CastingInputs and NeighbourTest. -/
def Obligations.CastingInputs : Prop :=
  Sys2Proof.Claims.CastingInputs ∧ Sys2Proof.Claims.NeighbourTest

/-! ## Faults and repair -/

/-- A tile fault of a running partition: the tile is fenced, its stores are gone, the partition is held with the tile among
the faulty ones, and REP_STS shows the detection (R53, R323, Table 15.2). -/
def Sys2Proof.Claims.FaultHeld (t : Tile) (p : Part) (s s' : State) : Prop :=
  (s'.seq t).fenced = true ∧ (s'.mem t).sb = [] ∧ pstate s' p = 3 ∧ t ∈ (s'.prt p).faulty
  ∧ (s'.prt p).image = (s.prt p).image ∧ Machine.fld (s'.reg (govPage 5 + 0x044)) 0 3 = 1
  ∧ (Machine.fld (s'.reg (govPage 5 + 0x044)) 3 4).toNat = p.val

/-- R53, R323, R324: a fault that a detector reports, a sequencer that hangs, and a checker that fails its daily test each
hold the running partition of the tile; a tile of no partition is repaired at once, by the remap of its segment. A test
that passes is logged.
A clause that leaves the state as it is states the model's choice of log 1, for a command that nothing enables. -/
def Obligations.TileFaultsHold : Prop :=
  ∀ (t : Tile) (cause : TileFaultCause) (f : Field) (shaft : Fin 96) (p : Part) (s : State),
    let n := tileShaft s t
    let k := placeShaft f shaft.val
    (fieldRuns s (tileField t) = true → (s.seq t).dark = false →
      (partOf s t = some p → pstate s p = 2 → Completes (.tileFault t cause) s (FaultHeld t p s))
      ∧ (∀ row, cause = .bParity row → Completes (.tileFault t cause) s (fun s' =>
          partOf s t = some p → pstate s p = 2 → row.val ∈ (s'.arr t).erredRows
            ∧ ((s.arr t).erredRows.contains row.val = true → (s'.prt p).cellRow = some (t, row.val))))
      ∧ (partOf s t = none → segRemap s t = 15 → (∀ row, cause ≠ .bParity row) →
          (∀ q, cause = .cisternUe q → (s.mem t).erredQ.contains q = true) → Completes (.tileFault t cause) s (fun s' =>
          segRemap s' t = n % 12 ∧ n ∈ s'.svc.failed ∧ ∀ p, pstate s' p = pstate s p)))
    ∧ (fieldRuns s (tileField t) = false ∨ (s.seq t).dark = true → Completes (.tileFault t cause) s (fun s' => s' = s))
    ∧ (hung s t = true → partOf s t = some p → pstate s p = 2 → Completes (.tileHang t) s (FaultHeld t p s))
    ∧ (hung s t = false → Completes (.tileHang t) s (fun s' => s' = s))
    ∧ (isReady s = true → s.svc.up = true → fieldRuns s f = true →
        Completes (.checkerTest f shaft true) s (fun s' => s'.svc.logSeq = s.svc.logSeq + 1 ∧ s'.regs = s.regs ∧ s'.cores = s.cores)
        ∧ (tileAbove s k = some t → partOf s t = some p → pstate s p = 2 → Completes (.checkerTest f shaft false) s (FaultHeld t p s)))
    ∧ (isReady s = false ∨ s.svc.up = false ∨ fieldRuns s f = false → ∀ ok, Completes (.checkerTest f shaft ok) s (fun s' => s' = s))

/-- R325, R327, R331, R332: once the tiles of a held partition stand still, its failed tile is remapped and the step is
replayed from offset 0 on every tile; where the geometry has changed the first variant of that geometry runs the step, and
without one the image ends with its START; where a pre-emption was under way its record is of kind 2 (R216). Nothing
stands at another tile, the spare tiles hold nothing, no START and no pre-emption waits, and no engine runs.
A clause that leaves the state as it is states the model's choice of log 1, for a command that nothing enables. -/
def Obligations.RepairAndFallback : Prop :=
  ∀ (p : Part) (t : Tile) (r : RunImage) (s : State), (∀ u, quiet s u) → s.spares = [] → (s.prt p).image = some r →
    (s.prt p).starts = [] → (s.prt p).pend = none → (∀ k, (s.bank k).running = false) →
    let n := stepNo s (r.body.tiles.headD 0)
    let g := partGeom s p
    let fallback := (pstate s p = 3 ∨ pstate s p = 4) ∧ s.svc.up = true ∧ geometryLost s p = true ∧ fallbackReady s p = true
    (repairReady s p = true → pstate s p = 3 → (s.prt p).faulty = [t] → (s.prt p).soft = [] → (s.prt p).cellRow = none → t ∈ partTiles s p →
        segRemap s t = 15 → geometryLost (repairAll s p) p = false → replayOk (repairAll s p) p = true →
        Completes (.tileRepair p) s (fun s' =>
          pstate s' p = 2 ∧ (s'.prt p).faulty = [] ∧ segRemap s' t = tileShaft s t % 12 ∧ tileShaft s t ∈ s'.svc.failed
          ∧ (s'.prt p).image = some r
          ∧ ∀ u ∈ r.body.tiles, halted s' u = false ∧ s'.pc u = 0 ∧ (s'.seq u).stall = none ∧ stepNo s' u = stepNo s u))
    ∧ (repairReady s p = false → Completes (.tileRepair p) s (fun s' => s' = s))
    ∧ (∀ b, fallback → pstate s p = 3 → replayOk s p = true → r.variants.find? (·.geometryId == g) = some b → b.weirMap = [] →
        Completes (.staticFallback p) s (fun s' =>
          pstate s' p = 2 ∧ (s'.prt p).image = some { r with body := b } ∧ s'.reg (govPage 5 + 0x048) = g
          ∧ ∀ u ∈ b.tiles, halted s' u = false ∧ s'.pc u = 0 ∧ stepNo s' u = n))
    ∧ (∀ b, fallback → pstate s p = 4 → (s.prt p).gracefulPending = false → replayOk s p = true →
        r.variants.find? (·.geometryId == g) = some b → b.weirMap = [] → Completes (.staticFallback p) s (fun s' =>
          pstate s' p = 1 ∧ (s'.prt p).image = none
          ∧ ∃ x, (s'.prt p).record = some x ∧ x.kind = 2 ∧ x.img = { r with body := b } ∧ x.stepNo = stepNo s (b.tiles.headD 0)))
    ∧ (fallback → (s.prt p).gracefulPending = false → replayOk s p = true → r.variants.find? (·.geometryId == g) = none → Completes (.staticFallback p) s (fun s' =>
          pstate s' p = 1 ∧ (s'.prt p).image = none ∧ (s'.svc.log.head?.map (·.cls)) = some 3 ∧ ∀ u ∈ partTiles s p, halted s' u = true))
    ∧ (¬ fallback → Completes (.staticFallback p) s (fun s' => s' = s))

/-- R328, R330, R333, R334: the end of a decant link has copied the 512 MiB of one shaft to the next and begins the next
link, a reverse link likewise, and the last one gives the well map the value of the remap. A resync ends with the twin's
range equal to the entry's. A failed tile that passes its test goes back at once where no step runs and at the next commit
else; one that fails stays as it is, logged. No data is lost, and no instruction stands.
A clause that leaves the state as it is states the model's choice of log 1, for a command that nothing enables. -/
def Obligations.DecantResyncReturn : Prop :=
  ∀ (f : Field) (seg : Fin 8) (t w : Tile) (e : Fin 8) (s : State), (∀ u, quiet s u) → s.wellUe = [] → Memory.wf s.wells →
    let d := s.reg (fldDecant f)
    let sg := (Machine.fld d 0 3).toNat
    let k := (Machine.fld d 3 4).toNat
    let x := segVal (s.reg (fldRemap f)) sg
    let going := bit d 7 = true ∧ fieldRuns s f = true ∧ s.svc.up = true ∧ exhausted s f sg = false
    let b := (twinRange s t e.val).1
    let n := (twinRange s t e.val).2
    let may := s.svc.up = true ∧ fieldRuns s f = true ∧ mayReturn s f seg.val = true
    (going → bit d 8 = false → k < 11 →
      (x < k → Completes (.decantLinkEnd f) s (fun s' =>
          (∀ o, o < wellSize → Mem.read s'.wells (wellAt (shaftNo f sg (k + 1)) o) = Mem.read s.wells (wellAt (shaftNo f sg k) o))
          ∧ (∀ a, a / wellSize ≠ shaftNo f sg (k + 1) → Mem.read s'.wells a = Mem.read s.wells a)
          ∧ s'.reg (fldDecant f) = BitVec.ofNat 32 (sg + (k - 1) * 8 + 128) ∧ (s.wellCe = [] → SameRegs [fldDecant f] s s')))
      ∧ (k ≤ x → Completes (.decantLinkEnd f) s (fun s' =>
          (∀ o, o < wellSize → Mem.read s'.wells (wellAt (shaftNo f sg (k + 1)) o) = Mem.read s.wells (wellAt (shaftNo f sg k) o))
          ∧ segVal (s'.reg (fldWmap f)) sg = x ∧ s'.rbit (fieldPage f 0 + 0x010) 1 = true ∧ s'.reg (fldRemap f) = s.reg (fldRemap f))))
    ∧ (going → bit d 8 = true → k < 10 → Completes (.decantLinkEnd f) s (fun s' =>
          (∀ o, o < wellSize → Mem.read s'.wells (wellAt (shaftNo f sg k) o) = Mem.read s.wells (wellAt (shaftNo f sg (k + 1)) o))
          ∧ (∀ a, a / wellSize ≠ shaftNo f sg k → Mem.read s'.wells a = Mem.read s.wells a)
          ∧ s'.reg (fldDecant f) = BitVec.ofNat 32 (sg + (k + 1) * 8 + 384) ∧ (s.wellCe = [] → SameRegs [fldDecant f] s s')))
    ∧ ((¬ going ∨ 11 ≤ k) → Completes (.decantLinkEnd f) s (fun s' => s' = s))
    ∧ ((s.mem t).resync.contains e.val = true → twinLive s t e.val = true → twinOf s t b = some (e.val, w) →
        fieldDark s (tileField w) = false → b + n ≤ wellSize → homeShaft s t ≠ homeShaft s w → Completes (.resyncComplete t e) s (fun s' =>
          (s'.mem t).resync.contains e.val = false
          ∧ (∀ o, b ≤ o → o < b + n → Mem.read s'.wells (wellAt (homeShaft s w) o) = Mem.read s.wells (wellAt (homeShaft s t) o))
          ∧ (∀ a, (∀ o, b ≤ o → o < b + n → a ≠ wellAt (homeShaft s w) o) → Mem.read s'.wells a = Mem.read s.wells a)))
    ∧ ((s.mem t).resync.contains e.val = false → Completes (.resyncComplete t e) s (fun s' => s' = s))
    ∧ (may → Completes (.returnToService f seg false) s (fun s' => s'.regs = s.regs ∧ s'.cores = s.cores ∧ s'.svc.logSeq = s.svc.logSeq + 1)
        ∧ (∀ p, partOfField s f = some p → pstate s p ≠ 1 → Completes (.returnToService f seg true) s (fun s' =>
          (f, seg) ∈ (s'.prt p).returns ∧ s'.regs = s.regs ∧ s'.cores = s.cores))
        ∧ ((partOfField s f = none ∨ ∃ p, partOfField s f = some p ∧ pstate s p = 1) → Completes (.returnToService f seg true) s (fun s' =>
          segVal (s'.reg (fldRemap f)) seg.val = 15
          ∧ s'.svc.failed.contains (shaftNo f seg.val (segVal (s.reg (fldRemap f)) seg.val)) = false)))
    ∧ (¬ may → ∀ pass, Completes (.returnToService f seg pass) s (fun s' => s' = s))
/-! ## Physical presence, service mode, the service button -/

/-- PRES_STS after a staged command has ended with a result: no window is open, and the log has one entry more. -/
def Sys2Proof.Claims.StagedEnds (n : Nat) (s s' : State) : Prop :=
  s'.svc.staged = none ∧ (Machine.fld (s'.reg presSts) 0 2).toNat = n ∧ s'.rbit presSts 2 = false
  ∧ s'.svc.logSeq = s.svc.logSeq + 1 ∧ s'.cores = s.cores ∧ SameMemory s s'

/-- R339, Table 15.8: PRES_CMD from the service processor stages one of the four commands, with the state of the seal, and
opens its window; from any other master it is dropped, counted and logged. The presence input then runs the command within
60 s of its staging, the seal intact since; late, or with the seal open, it does not; and without presence the window
ends after 60 s. Its effects: the soft repairs join the fuse map, the root key is replaced, the debug registers open to
the physical functions, the flow loss is ignored with GOV_SCAP at 5.0 kW. Presence with the seal intact ends service mode.
A clause that leaves the state as it is states the model's choice of log 1, for a command that nothing enables. -/
def Sys2Proof.Claims.PresenceCommands : Prop :=
  ∀ (m : Master) (root : BitVec 384) (sealIntact : Bool) (s : State),
    let staged := fun (n : Nat) (h : BitVec 384) (s' : State) =>
      s'.svc.staged = some { code := BitVec.ofNat 3 n, at0 := s.tsclk, sealBroken := !s.svc.pins.sealed, root := h }
        ∧ Machine.fld (s'.reg presSts) 0 2 = 0 ∧ s'.rbit presSts 2 = true ∧ SameRegs [presSts] s s' ∧ s'.cores = s.cores ∧ SameMemory s s'
    let dropped := fun (s' : State) =>
      s'.svc.staged = s.svc.staged ∧ s'.reg (hubPage 0 + 0x044) = satAdd (s.reg (hubPage 0 + 0x044)) 1
        ∧ s'.svc.logSeq = s.svc.logSeq + 1 ∧ SameRegs [hubPage 0 + 0x044] s s'
    ((m = .svp → Completes (.fuseCommit m) s (staged 1 0) ∧ Completes (.firmwareRootChange m root) s (staged 2 root)
        ∧ Completes (.debugUnlock m) s (staged 3 0) ∧ Completes (.coolantTripOverride m) s (staged 4 0))
      ∧ (m ≠ .svp → ∀ c ∈ [Instr.fuseCommit m, .firmwareRootChange m root, .debugUnlock m, .coolantTripOverride m], Completes c s dropped))
    ∧ (s.svc.staged = none → Completes (.presenceConfirm sealIntact) s (fun s' =>
        s'.svc.pins.sealed = sealIntact ∧ s'.rbit presSts 4 = (!sealIntact && s.rbit presSts 4) ∧ SameRegs [presSts] s s'))
    ∧ (∀ x, s.svc.staged = some x →
        let run := x.sealBroken = false ∧ sealIntact = true ∧ s.tsclk ≤ x.at0 + 60000000000
        (run → 1 ≤ x.code.toNat → x.code.toNat ≤ 3 → Completes (.presenceConfirm sealIntact) s (fun s' =>
          StagedEnds 1 s s' ∧ s'.rbit presSts 4 = false
          ∧ (x.code = 1 → ∀ e ∈ s.svc.soft, e.1 ∈ s'.svc.fuse) ∧ (x.code = 2 → s'.svc.root = x.root)
          ∧ (x.code = 3 → s'.svc.debugUnlocked = true)))
        ∧ (run → x.code = 4 → s.rbit govSts cFlow = false → Completes (.presenceConfirm sealIntact) s (fun s' =>
          StagedEnds 1 s s' ∧ override s' = true ∧ s'.svc.overrideAt = some s.tsclk ∧ s'.reg (govPage 0 + 0x044) = 50))
        ∧ (x.sealBroken = true ∨ sealIntact = false → Completes (.presenceConfirm sealIntact) s (StagedEnds 3 s))
        ∧ (x.sealBroken = false → sealIntact = true → x.at0 + 60000000000 < s.tsclk →
          Completes (.presenceConfirm sealIntact) s (fun s' => StagedEnds 2 s s' ∧ s'.rbit presSts 4 = false ∧ SameRegs [presSts] s s'))
        ∧ (x.at0 + 60000000000 ≤ s.tsclk → Completes .presenceWindowExpiry s (fun s' =>
          StagedEnds (if x.sealBroken = true ∨ s.svc.pins.sealed = false then 3 else 2) s s' ∧ SameRegs [presSts] s s'))
        ∧ (s.tsclk < x.at0 + 60000000000 → Completes .presenceWindowExpiry s (fun s' => s' = s)))
    ∧ (s.svc.staged = none → Completes .presenceWindowExpiry s (fun s' => s' = s))

/-- R339, R340, R350: the open seal enters service mode, ends a staged command with result 3 and the coolant trip
override; the override also ends after 60 min, and a flow loss that stands then stops the module. A press of the button of
50 ms to 4 s is logged, a shorter one is not.
A clause that leaves the state as it is states the model's choice of log 1, for a command that nothing enables. -/
def Sys2Proof.Claims.SealAndButton : Prop :=
  ∀ (ms : Nat) (s : State),
    let ends := fun (s' : State) => override s' = false
      ∧ (override s = true → s.svc.pins.flowLossN = false → s.svc.power = .on → s'.rbit govSts cFlow = true ∧ stopped s' = true)
      ∧ (s.svc.pins.flowLossN = true → SameRegs [presSts] s s' ∧ s'.fields = s.fields)
      ∧ s'.cores = s.cores ∧ SameMemory s s'
    Completes .sealOpen s (fun s' => s'.svc.pins.sealed = false ∧ s'.rbit presSts 4 = true ∧ s'.svc.staged = none ∧ ends s'
        ∧ (s.svc.staged ≠ none → Machine.fld (s'.reg presSts) 0 2 = 3 ∧ s'.rbit presSts 2 = false))
    ∧ (∀ a, s.svc.overrideAt = some a → a + 3600000000000 ≤ s.tsclk → override s = true →
        Completes .overrideExpiry s (fun s' => s'.svc.overrideAt = none ∧ ends s'))
    ∧ (∀ a, s.svc.overrideAt = some a → s.tsclk < a + 3600000000000 → Completes .overrideExpiry s (fun s' => s' = s))
    ∧ (s.svc.overrideAt = none → Completes .overrideExpiry s (fun s' => s' = s))
    ∧ (50 ≤ ms → ms < 4000 → Completes (.svcBtnPress ms) s (fun s' =>
        s'.svc.logSeq = s.svc.logSeq + 1 ∧ s'.regs = s.regs ∧ s'.cores = s.cores ∧ s'.svc.power = s.svc.power))
    ∧ (ms < 50 ∨ 4000 ≤ ms → Completes (.svcBtnPress ms) s (fun s' => s' = s))

/-- Staged presence commands, service mode and the service button: PresenceCommands and SealAndButton. -/
def Obligations.PhysicalPresence : Prop :=
  Sys2Proof.Claims.PresenceCommands ∧ Sys2Proof.Claims.SealAndButton

/-! ## The service protocols -/

/-- An endpoint receives an answer; a mailbox request is then no longer in progress (R343, R347). -/
def Sys2Proof.Claims.Replied (e : Endpoint) (x : SvcMsg) (s s' : State) : Prop :=
  (∃ k l, s'.out = s.out ++ k ++ [.svc (some e) x] ++ l) ∧ (e = .mailbox → mbxBusy s' = false)

/-- An answer, and nothing else but the registers of the mailbox where it came that way. -/
def Sys2Proof.Claims.Answers (e : Endpoint) (x : SvcMsg) (s s' : State) : Prop :=
  Replied e x s s' ∧ s'.cores = s.cores ∧ SameMemory s s' ∧ s'.fields = s.fields ∧ s'.parts = s.parts
  ∧ (e ≠ .mailbox → s'.regs = s.regs ∧ s'.svc = s.svc)

/-- The service port receives an answer. -/
def Sys2Proof.Claims.PortReplied (x : SvcMsg) (s s' : State) : Prop := ∃ k l, s'.out = s.out ++ k ++ [.svc none x] ++ l

/-- Sniwin serves the endpoint: it runs, and a mailbox request has been submitted. -/
def Sys2Proof.Claims.Serving (e : Endpoint) (s : State) : Prop := s.svc.up = true ∧ (e = .mailbox → mbxBusy s = true)

/-- R343, R344, R346: the terminus and a version have some value; the types are 0, 2, 5 and 7, with the commands of each, and
another type is refused; a sensor reads as the latest telemetry set or the state of the module has it; one update session
runs at a time, and a component is activated only in the session of its endpoint and not below the version floor; the log
copy in flash is read whole. -/
def Sys2Proof.Claims.PldmRequests : Prop :=
  ∀ (e : Endpoint) (ty : BitVec 6) (f : Field) (p : Part) (ok : Bool) (v : Nat) (h : BitVec 384) (fc : FwComponent) (s : State), Serving e s →
    let known := ty = 0 ∨ ty = 2 ∨ ty = 5 ∨ ty = 7
    let tel := fun (o i : Nat) => (Machine.fld (s.reg (govPage 1 + o)) i 16).toNat
    Completes (.getTid e) s (fun s' => ∃ n, Answers e (.value n) s s')
    ∧ (known → Completes (.getPldmVersion e ty) s (fun s' => ∃ n, Answers e (.value n) s s'))
    ∧ (known → Completes (.getPldmCommands e ty) s (fun s' => ∃ l, l ≠ [] ∧ Answers e (.names l) s s'))
    ∧ (¬ known → Completes (.getPldmVersion e ty) s (Answers e .refusal s) ∧ Completes (.getPldmCommands e ty) s (Answers e .refusal s))
    ∧ Completes (.getPldmTypes e) s (fun s' =>
        ∃ n, Answers e (.value n) s s' ∧ ∀ i, n.testBit i = true ↔ (i = 0 ∨ i = 2 ∨ i = 5 ∨ i = 7))
    ∧ (∀ x ∈ [(NumSensor.power, tel 0x04C 0), (.inlet, tel 0x050 0), (.outlet, tel 0x050 16), (.flow, tel 0x054 0), (.die, tel 0x054 16),
          (.fieldTemp f, tel (0x080 + 4 * f.val) 0), (.fieldPower f, tel (0x080 + 4 * f.val) 16)],
        Completes (.numericSensorRead e x.1) s (Answers e (.value x.2) s))
    ∧ (∀ x ∈ [(StateSensor.casting, castState s), (.svcMode, (svcMode s).toNat), (.stopped, (stopped s).toNat)],
        Completes (.stateSensorRead e x.1) s (Answers e (.value x.2) s))
    ∧ Completes (.eventLogFileRead e) s (Answers e (.logs s.svc.logFlash) s)
    ∧ (s.svc.session = none → Completes (.requestUpdate e) s (fun s' => Replied e .done s s' ∧ s'.svc.session = some e))
    ∧ (∀ x, s.svc.session = some x → Completes (.requestUpdate e) s (Answers e .alreadyInUpdateMode s))
    ∧ (s.svc.session ≠ some e → Completes (.activateFirmware e fc) s (Answers e .refusal s))
    ∧ (s.svc.session = some e →
        (v < s.svc.fwFloor → Completes (.activateFirmware e (.microcode p ok v h)) s (Answers e .refusal s)
          ∧ Completes (.activateFirmware e (.sniwin v h)) s (Answers e .refusal s))
        ∧ (s.svc.fwFloor ≤ v → ok = true → inRepair s p = false → Completes (.activateFirmware e (.microcode p ok v h)) s (fun s' =>
          Replied e .done s s' ∧ s'.svc.session = none ∧ (s'.prt p).microcode = h))
        ∧ (s.svc.fwFloor ≤ v → v ≠ 0 → sniwinBusy s = false → Completes (.activateFirmware e (.sniwin v h)) s (fun s' =>
          Replied e .done s s' ∧ s'.svc.session = none ∧ s'.svc.up = false ∧ s'.svc.runA = (!s.svc.runA))))

/-- R343, R345, R347: digests, the certificate of slot 0, a challenge and the measurements 1 to 7 are answered, signed
where it is asked for; another slot or measurement is refused. The bus owner sets an endpoint's ID, and ENTDAA the I3C
address. The mailbox takes one request of 1 to 4,096 bytes at a time, and an abort ends it. A request that is not served
does nothing.
A clause that leaves the state as it is states the model's choice of log 1, for a command that nothing enables. -/
def Sys2Proof.Claims.SecurityAndMailbox : Prop :=
  ∀ (e : Endpoint) (slot idx : Nat) (nonce : BitVec 256) (sign : Bool) (eid : BitVec 8) (addr : BitVec 7) (h : Option HostPort) (m : Master)
    (ty : BitVec 6) (a : NumSensor) (b : StateSensor) (fc : FwComponent) (s : State),
    let pg := govPage 8
    let n := (Machine.fld (s.reg (pg + 0x044)) 0 13).toNat
    let image := if s.svc.runA = true then (s.svc.fwHashA, s.svc.fwA) else (s.svc.fwHashB, s.svc.fwB)
    let busy := s.rbit (pg + 0x048) 0
    (Serving e s →
      Completes (.getDigests e) s (fun s' => ∃ x, Answers e (.hashes [x]) s s')
      ∧ (slot = 0 → Completes (.getCertificate e slot) s (fun s' => ∃ x, Answers e (.hashes [x]) s s'))
      ∧ (slot ≠ 0 → Completes (.getCertificate e slot) s (Answers e .refusal s))
      ∧ Completes (.challenge e nonce) s (fun s' => ∃ x y z, Answers e (.hashes [x, y, z]) s s')
      ∧ (∀ x ∈ [(1, [s.svc.root]), (2, [image.1, BitVec.ofNat 384 image.2]), (3, (List.finRange 24).map fun y => (s.port y).serdes),
            (7, [sha384 (s.svc.manifestFlash.getD [])])],
          Completes (.getMeasurements e x.1 false) s (Answers e (.hashes x.2) s)
          ∧ Completes (.getMeasurements e x.1 true) s (fun s' => ∃ y z, Answers e (.hashes (x.2 ++ [y, z])) s s'))
      ∧ (1 ≤ idx → idx ≤ 7 → Completes (.getMeasurements e idx sign) s (fun s' => ∃ l, Answers e (.hashes l) s s'))
      ∧ (idx = 0 ∨ 8 ≤ idx → Completes (.getMeasurements e idx sign) s (Answers e .refusal s))
      ∧ Completes (.mctpControlMessage e eid) s (fun s' =>
          Replied e .done s s' ∧ (e, eid) ∈ s'.svc.eids ∧ (∀ x ∈ s'.svc.eids, x.1 = e → x.2 = eid)
          ∧ ∀ x, x.1 ≠ e → (x ∈ s'.svc.eids ↔ x ∈ s.svc.eids)))
    ∧ (¬ Serving e s → ∀ c ∈ [Instr.getTid e, .getPldmVersion e ty, .getPldmTypes e, .getPldmCommands e ty, .numericSensorRead e a,
          .stateSensorRead e b, .requestUpdate e, .activateFirmware e fc, .eventLogFileRead e, .getDigests e, .getCertificate e slot,
          .challenge e nonce, .getMeasurements e idx sign, .mctpControlMessage e eid], Completes c s (fun s' => s' = s))
    ∧ (islandOn s = true → Completes (.entdaa addr) s (fun s' =>
        PortReplied (.value s.svc.slotSampled.toNat) s s' ∧ s'.svc.dynAddr = some addr ∧ s'.regs = s.regs ∧ s'.cores = s.cores))
    ∧ (islandOn s = false → Completes (.entdaa addr) s (fun s' => s' = s))
    ∧ (busy = true → Completes (.mbxGo h) s (fun s' => s'.rbit (pg + 0x010) 2 = true ∧ s'.reg (pg + 0x048) = s.reg (pg + 0x048)))
    ∧ (busy = false → (n = 0 ∨ 4096 < n) → Completes (.mbxGo h) s (fun s' =>
        s'.rbit (pg + 0x010) 1 = true ∧ s'.reg (pg + 0x048) = s.reg (pg + 0x048)))
    ∧ (busy = false → 1 ≤ n → n ≤ 4096 → Completes (.mbxGo h) s (fun s' =>
        s'.rbit (pg + 0x048) 0 = true ∧ (∀ y, h = some y → (Machine.fld (s'.reg (pg + 0x048)) 1 2).toNat = y.val)
        ∧ SameRegs [pg + 0x048] s s' ∧ s'.svc = s.svc ∧ s'.cores = s.cores))
    ∧ (mayWrite s m pg = true → busy = true → Completes (.mbxAbort m) s (fun s' =>
        s'.rbit (pg + 0x048) 0 = false ∧ s'.rbit (pg + 0x010) 1 = true ∧ s'.cores = s.cores))
    ∧ (mayWrite s m pg = true → busy = false → Completes (.mbxAbort m) s (fun s' => s' = s))
    ∧ (mayWrite s m pg = false → Completes (.mbxAbort m) s (fun s' =>
        s'.reg (pg + 0x048) = s.reg (pg + 0x048) ∧ s'.reg (hubPage 0 + 0x044) = satAdd (s.reg (hubPage 0 + 0x044)) 1))

/-- PLDM, SPDM, MCTP, I3C and the mailbox: PldmRequests and SecurityAndMailbox. -/
def Obligations.ServiceProtocols : Prop :=
  Sys2Proof.Claims.PldmRequests ∧ Sys2Proof.Claims.SecurityAndMailbox

/-- R304, R336, R337, Table 15.6: while the service island has a supply it reads the telemetry set, an entry of the log
and the lowest voltage of a point, lowers GOV_SCAP, stops and powers down the module, resets a partition abruptly,
isolates a field and reads the wells, whether Sniwin runs or not; without a supply it does nothing. A cap that is not
lower or below 5.0 kW is refused, as are a reset of a FREE partition and a salvage read without VIN. The newest 256
entries of the log go to flash where entries were added. For the isolation no instruction stands and no port is up; the
bytes of the salvage read lie in one granule without errors.
A clause that leaves the state as it is states the model's choice of log 1, for a command that nothing enables. -/
def Sys2Proof.Claims.GuaranteedOperations : Prop :=
  ∀ (i : BitVec 12) (pt : RailPoint) (cap : BitVec 16) (p q : Part) (f : Field) (a : BitVec 48) (n : Nat) (t : Tile) (o : Nat) (s : State),
    let scap := govPage 0 + 0x044
    let low := 50 ≤ cap.toNat ∧ cap.toNat < (Machine.fld (s.reg scap) 0 16).toNat
    (islandOn s = true →
      Completes .svcTelemetryRead s (fun s' => s'.regs = s.regs ∧ s'.cores = s.cores
        ∧ PortReplied (.words (((List.range 6).map fun j => s.reg (govPage 1 + 0x040 + 4 * j))
          ++ (List.range 48).map fun j => s.reg (govPage 1 + 0x080 + 4 * j))) s s')
      ∧ Completes (.svcEventLogRead i) s (fun s' => s'.regs = s.regs ∧ s'.cores = s.cores ∧ s'.svc = s.svc
        ∧ PortReplied (.log (s.svc.log[(s.svc.logHead - 1 - i).toNat]?)) s s')
      ∧ Completes (.svcMinVoltageRead pt) s (fun s' =>
        PortReplied (.words ([0, 4, 8, 12].map fun k => s.reg (railEntry pt + k))) s s' ∧ ∀ k ∈ [0, 4, 8, 12], s'.reg (railEntry pt + k) = 0)
      ∧ (low → Completes (.svcCapLowering cap) s (fun s' => PortReplied .done s s' ∧ s'.reg scap = cap.setWidth 32 ∧ s'.cores = s.cores))
      ∧ (¬ low → Completes (.svcCapLowering cap) s (fun s' => PortReplied .refusal s s' ∧ s'.regs = s.regs ∧ s'.cores = s.cores))
      ∧ (s.svc.power = .on → Completes .svcStop s (fun s' => StopTaken cHost s s' ∧ PortReplied .done s s')
        ∧ Completes .svcPowerDown s (fun s' => PoweredDown s s' ∧ PortReplied .done s s'))
      ∧ (pstate s p = 0 → Completes (.svcAbruptReset p) s (fun s' => PortReplied .refusal s s' ∧ s'.regs = s.regs ∧ s'.cores = s.cores))
      ∧ (pstate s p ≠ 0 → Completes (.svcAbruptReset p) s (fun s' =>
        PortReplied .done s s' ∧ pstate s' p = 6 ∧ ∀ u ∈ partTiles s p, halted s' u = true ∧ (s'.mem u).sb = []))
      ∧ ((∀ u, quiet s u) → (∀ y, portUp s y = false) → fieldDark s f = false → Completes (.fieldIsolation f) s (fun s' =>
        PortReplied .done s s' ∧ (s'.fld f).absent = true ∧ (s'.fld f).supply = .off ∧ (s'.fld f).fclkRun = false
        ∧ s'.rbit (govPage 4 + (if f.val < 32 then 0x048 else 0x04C)) (f.val % 32) = true
        ∧ (partOfField s f = some q → pstate s q = 2 → pstate s' q = 3)
        ∧ ∀ b, shaftField (b / wellSize) = some f → Mem.read s'.wells b = 0))
      ∧ (s.svc.vin < 30000 → Completes (.salvageRead a n) s (fun s' => PortReplied .refusal s s' ∧ s'.regs = s.regs ∧ s'.cores = s.cores))
      ∧ (30000 ≤ s.svc.vin → placeOf a.toNat = .well t o → fieldRuns s (tileField t) = true → 1 ≤ n → n ≤ 64 - a.toNat % 64 →
        s.wellUe = [] → s.wellCe = [] → Completes (.salvageRead a n) s (fun s' => s'.regs = s.regs ∧ s'.cores = s.cores
          ∧ ∃ bs, PortReplied (.bytes bs) s s' ∧ bs.length = n
            ∧ ∀ j, j < n → bs[j]? = some (Mem.read s.wells (wellAt (homeShaft s t) (o + j))))))
    ∧ (islandOn s = false → ∀ c ∈ [Instr.svcTelemetryRead, .svcEventLogRead i, .svcMinVoltageRead pt, .svcCapLowering cap, .svcStop, .svcPowerDown,
        .svcAbruptReset p, .fieldIsolation f, .salvageRead a n], Completes c s (fun s' => s' = s))
    ∧ (s.svc.up = true → s.svc.log.head? ≠ s.svc.logFlash.head? → Completes .eventLogFlush s (fun s' =>
        s'.svc.logFlash = s.svc.log.take 256 ∧ s'.svc.log = s.svc.log ∧ s'.regs = s.regs ∧ s'.cores = s.cores))
    ∧ (s.svc.up = false ∨ s.svc.log.head? = s.svc.logFlash.head? → Completes .eventLogFlush s (fun s' => s' = s))

/-- R304, R335, Tables 15.1 and 15.5: microcode is taken where its latencies match and no repair of its partition runs; SerDes
firmware of a port where its alternate is up; a Sniwin image, not below the floor, where nothing it must see through is going
on: it goes to the image that does not run, and an outage begins. The outage ends after 30 s with the previous image. The
watchdog starts the other image.
A clause that leaves the state as it is states the model's choice of log 1, for a command that nothing enables. -/
def Sys2Proof.Claims.UpdatesInService : Prop :=
  ∀ (p : Part) (y : Port) (ok : Bool) (v : Nat) (h : BitVec 384) (s : State),
    let taken := ok = true ∧ inRepair s p = false
    let newer := sniwinBusy s = false ∧ s.svc.fwFloor ≤ v ∧ v ≠ 0
    let refused := fun (s' : State) => PortReplied .refusal s s' ∧ s'.regs = s.regs ∧ s'.cores = s.cores ∧ s'.svc = s.svc
    let other := if s.svc.runA = true then s.svc.fwB else s.svc.fwA
    (s.svc.up = true →
      (taken → Completes (.updateTileMicrocode p ok h) s (fun s' =>
        PortReplied .done s s' ∧ (s'.prt p).microcode = h ∧ s'.svc.logSeq = s.svc.logSeq + 1 ∧ s'.regs = s.regs ∧ s'.cores = s.cores))
      ∧ (¬ taken → Completes (.updateTileMicrocode p ok h) s refused)
      ∧ (altRoute s 0 3 y ≠ none → Completes (.updateSerdesFirmware y h) s (fun s' =>
        PortReplied .done s s' ∧ (s'.port y).serdes = h ∧ (s'.port y).serdesVersion = (s.port y).serdesVersion + 1 ∧ portUp s' y = false))
      ∧ (altRoute s 0 3 y = none → Completes (.updateSerdesFirmware y h) s refused)
      ∧ (newer → Completes (.updateSniwin v h) s (fun s' =>
        PortReplied .done s s' ∧ s'.svc.up = false ∧ s'.svc.outageAt = some s.tsclk ∧ s'.svc.runA = (!s.svc.runA)
        ∧ (s.svc.runA = true → s'.svc.fwB = v ∧ s'.svc.fwHashB = h) ∧ (s.svc.runA = false → s'.svc.fwA = v ∧ s'.svc.fwHashA = h)
        ∧ s'.regs = s.regs ∧ s'.cores = s.cores))
      ∧ (¬ newer → Completes (.updateSniwin v h) s refused)
      ∧ Completes .svpWatchdog s (fun s' =>
        s'.svc.up = false ∧ s'.svc.outageAt = some s.tsclk ∧ s'.svc.runA = (if other = 0 then s.svc.runA else !s.svc.runA)
        ∧ s'.svc.logSeq = s.svc.logSeq + 1 ∧ s'.regs = s.regs ∧ s'.cores = s.cores))
    ∧ (s.svc.up = false → ∀ c ∈ [Instr.updateTileMicrocode p ok h, .updateSerdesFirmware y h, .updateSniwin v h, .svpWatchdog],
        Completes c s (fun s' => s' = s))
    ∧ (∀ a, s.svc.outageAt = some a → a + 30000000000 ≤ s.tsclk → s.svc.up = false → Completes .sniwinUpdateTimeout s (fun s' =>
        s'.svc.up = true ∧ s'.svc.runA = (!s.svc.runA) ∧ s'.svc.outageAt = none ∧ s'.regs = s.regs ∧ s'.cores = s.cores))
    ∧ ((s.svc.up = true ∨ s.svc.outageAt = none ∨ ∃ a, s.svc.outageAt = some a ∧ s.tsclk < a + 30000000000) →
        Completes .sniwinUpdateTimeout s (fun s' => s' = s))

/-- The guaranteed operations, and updates in service: GuaranteedOperations and UpdatesInService. -/
def Obligations.GuaranteedAndUpdates : Prop :=
  Sys2Proof.Claims.GuaranteedOperations ∧ Sys2Proof.Claims.UpdatesInService

/-! ## Debug and the end of a step -/

/-- R342, R257: the service processor, and after a debug unlock a physical function, stops a tile at its next boundary
with its stores drained, lets it go on, and steps it; a breakpoint stops it before its instruction. The cycles of a stop
are counted. A write by any other master is dropped, counted and logged, and none acts on a halted tile or with debug not
enabled.
A clause that leaves the state as it is states the model's choice of log 1, for a command that nothing enables. -/
def Obligations.DebugStops : Prop :=
  ∀ (m : Master) (t : Tile) (s : State),
    let allowed := m = .svp ∨ (∃ h, m = .pf h ∧ s.svc.debugUnlocked = true)
    let on := s.rbit (dbgCtl t) 0 = true ∧ halted s t = false
    let free := s.rbit (seqCtl t) 1 = false ∧ ((s.seq t).stepArmed = false ∨ (s.seq t).bpPass = true)
    let at0 := fun (cause : BitVec 2) (s' : State) =>
      dbgStopped s' t = true ∧ Machine.fld (s'.reg (dbgSts t)) 1 2 = cause ∧ s'.pc t = s.pc t ∧ (∀ r, s'.g t r = s.g t r) ∧ RegisterFrame t [] s s'
    let stopsHere := fieldRuns s (tileField t) = true ∧ halted s t = false ∧ (s.seq t).dark = false ∧ (s.seq t).fenced = false
      ∧ (s.seq t).trap = false ∧ (s.seq t).stall = none ∧ dbgStopped s t = false ∧ atBreakpoint s t = true ∧ (s.seq t).bpPass = false
      ∧ sbEmpty s t = true
    (allowed →
      (on → dbgStopped s t = false → free → (s.seq t).stall = none → sbEmpty s t = true → Completes (.dbgStop m t) s (at0 0))
      ∧ (on → dbgStopped s t = false → ((s.seq t).stall ≠ none ∨ sbEmpty s t = false) → Completes (.dbgStop m t) s (fun s' =>
          (s'.seq t).stopArmed = true ∧ s'.pc t = s.pc t ∧ s'.regs = s.regs ∧ RegisterFrame t [] s s'))
      ∧ (¬ on ∨ dbgStopped s t = true → Completes (.dbgStop m t) s (fun s' => s' = s))
      ∧ (dbgStopped s t = true → quiet s t → Completes (.dbgResume m t) s (fun s' =>
          dbgStopped s' t = false ∧ (s'.seq t).stepArmed = false ∧ s'.pc t = s.pc t ∧ (∀ r, s'.g t r = s.g t r)
          ∧ s'.reg (dbgStopCyc t) = satAdd (s.reg (dbgStopCyc t)) (tcyc s t - (s.seq t).dbgAt) ∧ RegisterFrame t [dbgStopCyc t] s s'))
      ∧ (dbgStopped s t = false → Completes (.dbgResume m t) s (fun s' => s' = s))
      ∧ (on → dbgStopped s t = true → quiet s t → Completes (.dbgStep m t) s (fun s' =>
          dbgStopped s' t = false ∧ (s'.seq t).stepArmed = true ∧ (s'.seq t).bpPass = true ∧ s'.pc t = s.pc t
          ∧ RegisterFrame t [dbgStopCyc t] s s'))
      ∧ (on → dbgStopped s t = false → Completes (.dbgStep m t) s (fun s' =>
          (s'.seq t).stepArmed = true ∧ s'.regs = s.regs ∧ RegisterFrame t [] s s'))
      ∧ (¬ on → Completes (.dbgStep m t) s (fun s' => s' = s)))
    ∧ (¬ allowed → ∀ c ∈ [Instr.dbgStop m t, .dbgResume m t, .dbgStep m t], Completes c s (fun s' =>
        s'.reg (hubPage 0 + 0x044) = satAdd (s.reg (hubPage 0 + 0x044)) 1 ∧ SameRegs [hubPage 0 + 0x044] s s' ∧ s'.cores = s.cores
        ∧ s'.svc.logSeq = s.svc.logSeq + 1))
    ∧ (stopsHere → Completes (.breakpointHit t) s (fun s' => at0 1 s' ∧ s'.rbit (tilePage t 1 + 0x010) 0 = true))
    ∧ (¬ stopsHere → Completes (.breakpointHit t) s (fun s' => s' = s))

/-- R53, R54, R55, Table 11.4: the first overrun of a step replays it from the entry of every tile's active half; a second
one, or one in a step that may not be replayed, ends the image with its START; a tile that holds an unabsorbed fault halts
and starts no replay. The image ends after such a fault once the tile has halted and every other tile has stopped. No
engine runs, and no START and no pre-emption waits.
A clause that leaves the state as it is states the model's choice of log 1, for a command that nothing enables. -/
def Sys2Proof.Claims.OverrunsAndEnds : Prop :=
  ∀ (t : Tile) (p : Part) (r : RunImage) (s : State), (∀ k, (s.bank k).running = false) → (s.prt p).image = some r →
    (s.prt p).starts = [] → (s.prt p).pend = none → pstate s p = 2 →
    let late := overrun s t = true ∧ halted s t = false ∧ fieldRuns s (tileField t) = true ∧ (s.seq t).fenced = false
    let ended := fun (s' : State) => pstate s' p = 1 ∧ (s'.prt p).image = none ∧ ∀ u ∈ partTiles s p, halted s' u = true
    let fault := fun u : Tile => (s.seq u).unabsorbed ≠ none
    let ready := ∀ u ∈ r.body.tiles, (fault u → halted s u = true) ∧ (¬ fault u → tileStopped s p u = true)
    (late → (s.seq t).unabsorbed = none → partOf s t = some p →
      (replayOk s p = true → (s.prt p).replayed = false → Completes (.trapStepOverrun t) s (fun s' =>
        pstate s' p = 2 ∧ (s'.prt p).replayed = true ∧ (s'.prt p).image = some r ∧ s'.rbit (tilePage t 0 + 0x010) 0 = true
        ∧ ∀ u ∈ r.body.tiles, halted s' u = false ∧ s'.pc u = 0 ∧ (s'.seq u).stall = none ∧ (s'.seq u).trap = false
          ∧ stepNo s' u = stepNo s u ∧ activeHalf s' u = activeHalf s u))
      ∧ ((replayOk s p = false ∨ (s.prt p).replayed = true) → Completes (.trapStepOverrun t) s ended))
    ∧ (late → (s.seq t).unabsorbed ≠ none → Completes (.trapStepOverrun t) s (fun s' =>
        halted s' t = true ∧ s'.pc t = s.pc t ∧ pstate s' p = 2 ∧ SameMemory s s'))
    ∧ (¬ late → Completes (.trapStepOverrun t) s (fun s' => s' = s))
    ∧ ((∃ u ∈ r.body.tiles, fault u) → ready → Completes (.imageEnd p) s (fun s' => ended s' ∧ (s'.prt p).lossAt ≠ none))
    ∧ (((∀ u ∈ r.body.tiles, ¬ fault u) ∨ ¬ ready) → Completes (.imageEnd p) s (fun s' => s' = s))

/-- R53, R54: trapStepOverrun and imageEnd each complete: the first overrun of a step that may be replayed replays it,
where the tile runs over its limit without an unabsorbed fault; an image with an unabsorbed fault ends, once the tile that
holds it has halted and every other tile has stopped. -/
def Sys2Proof.Claims.OverrunAndEndComplete : Prop :=
  ∀ (t : Tile) (p : Part) (r : RunImage) (s : State), (∀ k, (s.bank k).running = false) → (s.prt p).image = some r →
    (s.prt p).starts = [] → (s.prt p).pend = none → pstate s p = 2 →
    (overrun s t = true → halted s t = false → fieldRuns s (tileField t) = true → (s.seq t).fenced = false → (s.seq t).unabsorbed = none →
      partOf s t = some p → replayOk s p = true → (s.prt p).replayed = false →
      ∃ s', Sys2Proof.Machine.exec (.trapStepOverrun t) s = .next s' ∧ pstate s' p = 2 ∧ (s'.prt p).replayed = true
        ∧ ∀ u ∈ r.body.tiles, halted s' u = false ∧ s'.pc u = 0 ∧ stepNo s' u = stepNo s u)
    ∧ ((∃ u ∈ r.body.tiles, (s.seq u).unabsorbed ≠ none) →
      (∀ u ∈ r.body.tiles, ((s.seq u).unabsorbed ≠ none → halted s u = true) ∧ ((s.seq u).unabsorbed = none → tileStopped s p u = true)) →
      ∃ s', Sys2Proof.Machine.exec (.imageEnd p) s = .next s' ∧ pstate s' p = 1 ∧ (s'.prt p).image = none)

/-- A step overrun replays once; an unabsorbed fault ends the image: OverrunsAndEnds and OverrunAndEndComplete. -/
def Obligations.OverrunAndImageEnd : Prop :=
  Sys2Proof.Claims.OverrunsAndEnds ∧ Sys2Proof.Claims.OverrunAndEndComplete

/-! ## The block as a whole -/

/-- A step takes the command at the front of the queue and is its exec with the rest of the queue. -/
def Obligations.StepRunsTheFrontCommand : Prop :=
  ∀ (c : Instr) (rest : List Instr) (s : State), s.pending = c :: rest → step s = exec c { s with pending := rest }

/-- Every command answers a next state in every state: the block has neither a fault nor a refusal. -/
def Sys2Proof.Claims.EveryCommandGoesOn : Prop := ∀ (c : Instr) (s : State), ∃ s', exec c s = .next s'

/-- The model's choice, log 2, after R21: with no command waiting, a step is one nanosecond of TSCLK, in which FCLK of each
running field goes on by 600 MHz + 25 MHz × code, in fortieths of a cycle. Nothing is held, requested or sent, no engine is
active and no instruction stands. -/
def Sys2Proof.Claims.IdleStepIsATick : Prop :=
  ∀ (s : State), s.pending = [] → s.hub.held = [] → s.arbs = [] → s.banks = [] → s.ports = [] → (∀ u, quiet s u) →
    (∀ p, pstate s p ≠ 5) → s.svc.outageAt = none →
    ∃ s', step s = .next s' ∧ s'.tsclk = s.tsclk + 1 ∧ s'.pending = [] ∧ s'.regs = s.regs ∧ s'.cores = s.cores ∧ SameMemory s s'
      ∧ s'.svc = s.svc ∧ s'.parts = s.parts ∧ s'.weirs = s.weirs ∧ s'.out = s.out
      ∧ ∀ f, (s'.fld f).fclk = (s.fld f).fclk + (if fieldRuns s f = true then 24 + codeNow s else 0)

/-- A command leaves the queue of commands and TSCLK as they are, what has gone out is never taken back, and free numbers are
never used twice. -/
def Sys2Proof.Claims.CommandsLeaveQueueAndTime : Prop :=
  ∀ (c : Instr) (s s' : State), exec c s = .next s' →
    s'.pending = s.pending ∧ s'.tsclk = s.tsclk ∧ s.freeCtr ≤ s'.freeCtr ∧ ∃ l, s'.out = s.out ++ l

/-- Every command goes on, and leaves the queue, TSCLK and what has gone out: EveryCommandGoesOn and
CommandsLeaveQueueAndTime. -/
def Obligations.CommandsGoOn : Prop :=
  Sys2Proof.Claims.EveryCommandGoesOn ∧ Sys2Proof.Claims.CommandsLeaveQueueAndTime

/-- Every sparse list of the state is in its canonical form at reset. -/
def Obligations.CanonicalAtReset : Prop := State.reset.canonical

/-- Every step keeps the canonical form of every sparse list of the state: memory, registers, tile cores, banks, fields,
arbiters, weirs, partitions and ports. -/
def Obligations.CanonicalIsKept : Prop := ∀ (s s' : State), s.canonical → step s = .next s' → s'.canonical

/-- Reset: no command waits; every partition is FREE, no tile is remapped, and every sequencer is halted with its phase 0; the
caps stand at 41.0 kW, the junction limit at 105 °C, the ceiling at code 36, the setpoint at code 26; no field has its
supply yet, and nothing has gone out (R9, R15, R40, R193, R275, R279, R291, R299). -/
def Sys2Proof.Claims.ResetState : Prop :=
  let s := State.reset
  s.pending = [] ∧ s.out = [] ∧ s.tsclk = 0
  ∧ (∀ p, pstate s p = 0 ∧ (s.prt p).image = none)
  ∧ (∀ t, tilePos s t = tileK t ∧ halted s t = true ∧ Machine.fld (s.reg (seqSts t)) 16 10 = 0 ∧ stepNo s t = 0)
  ∧ (∀ f, fieldRuns s f = false ∧ s.reg (fldRemap f) = 0xFFFFFFFF ∧ s.reg (fieldPage f 240 + 0x060) = 0x0A0F)
  ∧ capEff s = 410 ∧ codeNow s = 26 ∧ s.reg (govPage 0 + 0x04C) = 105 ∧ s.reg (govPage 0 + 0x050) = 36
  ∧ s.reg (govPage 0 + 0x070) = 0x1E22 ∧ stopped s = false ∧ isReady s = false

/-- The state at reset, and the step on an empty queue: ResetState and IdleStepIsATick. -/
def Obligations.ResetAndIdle : Prop :=
  Sys2Proof.Claims.ResetState ∧ Sys2Proof.Claims.IdleStepIsATick

/-- R14: the physical tile of column p and row r has the number 96 r + p, and the field of its column and row; its position in
its row segment is p mod 12; and the tile a logical tile stands over is always in the logical tile's own row. Position 11
is the spare: it carries no logical tile while none of its segment has failed. -/
def Sys2Proof.Claims.PhysicalTiles : Prop :=
  (∀ (p r : Nat), p < 96 → r < 48 →
    ∃ f : Field, shaftField (r * 96 + p) = some f ∧ f.val % 8 = p / 12 ∧ f.val / 8 = r / 8
      ∧ shaftNo f (r % 8) (p % 12) = r * 96 + p)
  ∧ (∀ (s : State) (t : Tile), tileShaft s t / 96 = t.val / 88)
  ∧ (∀ (s : State) (f : Field) (seg : Nat), seg < 8 → segVal (s.reg (fldRemap f)) seg = 15 → tileAbove s (shaftNo f seg 11) = none)

/-- R15: the physical column of logical tile T(c, r), with t = 88 r + c, is fc × 12 + j for fc = c div 11 and k = c mod
11, where j is k + 1 if the segment's remap is not 15 and k is at or beyond it, and k else. -/
def Sys2Proof.Claims.LogicalTilesShift : Prop :=
  ∀ (s : State) (t : Tile),
    let c := t.val % 88
    let r := t.val / 88
    let fc := c / 11
    let k := c % 11
    let x := (Machine.fld (s.reg (fieldPage (tileField t) 0 + 0x040)) (4 * (r % 8)) 4).toNat
    (tileField t).val = r / 8 * 8 + fc
    ∧ tileShaft s t % 96 = fc * 12 + (if x ≠ 15 ∧ x ≤ k then k + 1 else k)
    ∧ (x = 15 ∨ x < 12 → tileAbove s (tileShaft s t) = some t)

/-- Logical tiles stand over physical tiles by the remap of their segment: PhysicalTiles and LogicalTilesShift. -/
def Obligations.LogicalTilesOverPhysicalTiles : Prop :=
  Sys2Proof.Claims.PhysicalTiles ∧ Sys2Proof.Claims.LogicalTilesShift

/-- R48: an increment of a contract counter sets its bit of EVT_STS, and a change from 0 to 1 while EVT_EN enables it
raises one event; a further increment raises none. Writing 1 to a bit clears it. -/
def Obligations.ContractCounterEvents : Prop :=
  ∀ (t : Tile) (n : Fin 6) (k : Nat) (m : Master) (v : BitVec 32) (s : State), 0 < k →
    let pg := tilePage t 13
    let s1 := countCtr s t n.val k
    s1.reg (pg + 0x044 + 4 * n.val) = satAdd (s.reg (pg + 0x044 + 4 * n.val)) k
    ∧ s1.rbit (pg + 0x010) n.val = true ∧ (∀ i, i < 32 → i ≠ n.val → s1.rbit (pg + 0x010) i = s.rbit (pg + 0x010) i)
    ∧ (s.rbit (pg + 0x010) n.val = true ∨ s.rbit (pg + 0x014) n.val = false → s1.out = s.out ∧ s1.hub = s.hub
        ∧ SameRegs [pg + 0x010, pg + 0x044 + 4 * n.val] s s1)
    ∧ (∀ (p : Part) (h : HostPort), s.rbit (pg + 0x010) n.val = false → s.rbit (pg + 0x014) n.val = true →
        bit (s.reg (pg + 0x018)) 13 = false → (Machine.fld (s.reg (pg + 0x018)) 11 2).toNat = h.val → pagePart s pg = some p →
        s.hub.linkUp.getLsbD h.val = true →
        s1.out = s.out ++ [.host h (.msix (some p) (Machine.fld (s.reg (pg + 0x018)) 0 11))])
    ∧ (mayWrite s m pg = true → Completes (.registerWrite m (BitVec.ofNat 48 (pg + 0x010)) v) s (fun s' =>
        (∀ i, i < 6 → s'.rbit (pg + 0x010) i = (s.rbit (pg + 0x010) i && !bit v i)) ∧ SameRegs [pg + 0x010] s s'))

/-- R193, R222, R315: a partition holds the tiles of its fields in ascending index; its geometry ID is the CRC-32 of the local
indices of its unavailable tiles, 0 where it has none. The CRC-32 and the CRC-64 of the flits have their check values. -/
def Obligations.GeometryAndChecks : Prop :=
  let digits := [0x31, 0x32, 0x33, 0x34, 0x35, 0x36, 0x37, 0x38, 0x39]
  (∀ (s : State) (p : Part), (partTiles s p).Pairwise (· < ·) ∧ (∀ t, t ∈ partTiles s p ↔ tileField t ∈ partFields s p)
    ∧ ((∀ t ∈ partTiles s p, unavailable s t = false) → partGeom s p = 0))
  ∧ (∀ (s : State) (p : Part) (t : Tile) (l r : List Tile), partTiles s p = l ++ t :: r → unavailable s t = true →
      (∀ u ∈ l ++ r, unavailable s u = false) → partGeom s p = crc32 (toLe 4 l.length))
  ∧ crc32 digits = 0xCBF43926 ∧ crc64 digits = 0x62EC59E3F1A4F00A

/-- R337: an entry of the event log has the time, the next sequence number, its class and where its cause lies; the ring
keeps the latest 4,096. An entry of class 2, 3 or 5 goes to every endpoint that has an ID while Sniwin runs (R344);
nothing else changes. -/
def Sys2Proof.Claims.EventLogEntries : Prop :=
  ∀ (cls cause : Nat) (u : BitVec 16) (addr : Nat) (m : Option Master) (data : Nat) (s : State),
    let s' := logEv s cls cause u addr m data
    (∃ e, s'.svc.log = (e :: s.svc.log).take 4096 ∧ e.time = s.tsclk ∧ e.seq = s.svc.logSeq ∧ e.cls = BitVec.ofNat 8 cls ∧ e.unit = u
      ∧ e.data = BitVec.ofNat 64 data)
    ∧ s'.svc.logSeq = s.svc.logSeq + 1 ∧ s'.svc.logHead = s.svc.logHead + 1
    ∧ s'.out = s.out ++ (if (cls = 2 ∨ cls = 3 ∨ cls = 5) ∧ s.svc.up = true then
        s.svc.eids.map fun e => .svc (some e.1) (.event s.svc.logSeq) else [])
    ∧ s'.regs = s.regs ∧ s'.cores = s.cores ∧ s'.parts = s.parts ∧ SameMemory s s'

/-- Event registers, page ownership and event-log entries: EventRegisters and OwnerAndLock and EventLogEntries. -/
def Obligations.EventsOwnersAndLog : Prop :=
  Sys2Proof.Claims.EventRegisters ∧ Sys2Proof.Claims.OwnerAndLock ∧ Sys2Proof.Claims.EventLogEntries

/-- R284: PHASE marks its ID in SEQ_STS.phase; the phase of a field is the ID that its running logical tile of lowest
index marked last, and 1,023 where no tile of it runs. -/
def Obligations.PhaseOfAField : Prop :=
  ∀ (t : Tile) (id : BitVec 10) (f : Field) (s : State),
    (Ready s t → Completes (.phase t id) s (fun s' =>
        Machine.fld (s'.reg (seqSts t)) 16 10 = id ∧ s'.pc t = s.pc t + 4 ∧ (∀ r, s'.g t r = s.g t r) ∧ SameMemory s s'))
    ∧ (tileField t = f → halted s t = false → (∀ u, tileField u = f → u < t → halted s u = true) →
        fieldPhase s f = Machine.fld (s.reg (seqSts t)) 16 10)
    ∧ ((∀ u, tileField u = f → halted s u = true) → fieldPhase s f = 1023)
end

