-- ==== Sys2Proof/Laws/Bits.lean ====
section
/-!
SUPPORT. Laws of bit fields: a field reads back as written, and a write leaves every bit outside it alone.
-/

namespace Sys2Proof.Machine

theorem getLsbD_setFld (w : Word) (lo n : Nat) (v : BitVec n) (i : Nat) (h : i < 32) :
    (setFld w lo v).getLsbD i = if lo ≤ i ∧ i < lo + n then v.getLsbD (i - lo) else w.getLsbD i := by
  unfold setFld
  simp only [BitVec.getLsbD_or, BitVec.getLsbD_and, BitVec.getLsbD_not, BitVec.getLsbD_shiftLeft, BitVec.getLsbD_setWidth,
    BitVec.getLsbD_allOnes, h, decide_true, Bool.true_and]
  by_cases h1 : i < lo
  · simp [h1, Nat.not_le.mpr h1]
  · have h3 : i - lo < 32 := by omega
    by_cases h2 : i - lo < n
    · have : lo ≤ i ∧ i < lo + n := by omega
      simp [h1, h2, h3, this]
    · have : ¬ (lo ≤ i ∧ i < lo + n) := by omega
      simp [h1, h2, this, BitVec.getLsbD_of_ge v (i - lo) (Nat.le_of_not_lt h2)]

/-- A field reads back as written. -/
theorem fld_setFld_same (w : Word) (lo n : Nat) (v : BitVec n) (h : lo + n ≤ 32) : fld (setFld w lo v) lo n = v := by
  apply BitVec.eq_of_getLsbD_eq
  intro i hi
  unfold fld
  rw [BitVec.getLsbD_extractLsb', getLsbD_setFld _ _ _ _ _ (by omega)]
  have h1 : lo ≤ lo + i ∧ lo + i < lo + n := by omega
  simp [hi]

/-- A write leaves a field beside it alone. -/
theorem fld_setFld_other (w : Word) (lo n : Nat) (v : BitVec n) (lo' n' : Nat) (h : lo' + n' ≤ lo ∨ lo + n ≤ lo')
    (h' : lo' + n' ≤ 32) : fld (setFld w lo v) lo' n' = fld w lo' n' := by
  apply BitVec.eq_of_getLsbD_eq
  intro i hi
  unfold fld
  rw [BitVec.getLsbD_extractLsb', BitVec.getLsbD_extractLsb', getLsbD_setFld _ _ _ _ _ (by omega)]
  have h1 : ¬ (lo ≤ lo' + i ∧ lo' + i < lo + n) := by omega
  simp [h1]

/-- A bit reads back as set. -/
@[simp] theorem bit_setBit_same (w : Word) (i : Nat) (b : Bool) (h : i < 32) : bit (setBit w i b) i = b := by
  unfold bit setBit
  rw [getLsbD_setFld _ _ _ _ _ h]
  simp

/-- Setting a bit leaves every other bit alone. -/
theorem bit_setBit_other (w : Word) (i j : Nat) (b : Bool) (h : j ≠ i) (hj : j < 32) : bit (setBit w i b) j = bit w j := by
  unfold bit setBit
  rw [getLsbD_setFld _ _ _ _ _ hj]
  exact if_neg (by omega)

theorem bit_setFld_other (w : Word) (lo n j : Nat) (v : BitVec n) (h : j < lo ∨ lo + n ≤ j) (hj : j < 32) :
    bit (setFld w lo v) j = bit w j := by
  unfold bit
  rw [getLsbD_setFld _ _ _ _ _ hj]
  have : ¬ (lo ≤ j ∧ j < lo + n) := by omega
  simp [this]

theorem fld_setBit_other (w : Word) (i lo n : Nat) (b : Bool) (h : i < lo ∨ lo + n ≤ i) (h' : lo + n ≤ 32) :
    fld (setBit w i b) lo n = fld w lo n := fld_setFld_other w i 1 _ lo n (by omega) h'

end Sys2Proof.Machine
end

