-- ==== Sys2Proof/Laws/Dispatch.lean ====
section
/-!
SUPPORT. Which meaning each command has: exec on each constructor, so that no proof unfolds the dispatch.
-/

namespace Sys2Proof.Machine

variable (s : State)

@[simp] theorem exec_add (t : Tile) (gd : GReg) (ga : GReg) (gb : GReg) :
    exec (.add t gd ga gb) s = Sys2Proof.Machine.execAdd t gd ga gb s := (rfl)
@[simp] theorem exec_sub (t : Tile) (gd : GReg) (ga : GReg) (gb : GReg) :
    exec (.sub t gd ga gb) s = Sys2Proof.Machine.execSub t gd ga gb s := (rfl)
@[simp] theorem exec_and (t : Tile) (gd : GReg) (ga : GReg) (gb : GReg) :
    exec (.and t gd ga gb) s = Sys2Proof.Machine.execAnd t gd ga gb s := (rfl)
@[simp] theorem exec_or (t : Tile) (gd : GReg) (ga : GReg) (gb : GReg) :
    exec (.or t gd ga gb) s = Sys2Proof.Machine.execOr t gd ga gb s := (rfl)
@[simp] theorem exec_xor (t : Tile) (gd : GReg) (ga : GReg) (gb : GReg) :
    exec (.xor t gd ga gb) s = Sys2Proof.Machine.execXor t gd ga gb s := (rfl)
@[simp] theorem exec_sll (t : Tile) (gd : GReg) (ga : GReg) (gb : GReg) :
    exec (.sll t gd ga gb) s = Sys2Proof.Machine.execSll t gd ga gb s := (rfl)
@[simp] theorem exec_srl (t : Tile) (gd : GReg) (ga : GReg) (gb : GReg) :
    exec (.srl t gd ga gb) s = Sys2Proof.Machine.execSrl t gd ga gb s := (rfl)
@[simp] theorem exec_sra (t : Tile) (gd : GReg) (ga : GReg) (gb : GReg) :
    exec (.sra t gd ga gb) s = Sys2Proof.Machine.execSra t gd ga gb s := (rfl)
@[simp] theorem exec_slt (t : Tile) (gd : GReg) (ga : GReg) (gb : GReg) :
    exec (.slt t gd ga gb) s = Sys2Proof.Machine.execSlt t gd ga gb s := (rfl)
@[simp] theorem exec_sltu (t : Tile) (gd : GReg) (ga : GReg) (gb : GReg) :
    exec (.sltu t gd ga gb) s = Sys2Proof.Machine.execSltu t gd ga gb s := (rfl)
@[simp] theorem exec_mul (t : Tile) (gd : GReg) (ga : GReg) (gb : GReg) :
    exec (.mul t gd ga gb) s = Sys2Proof.Machine.execMul t gd ga gb s := (rfl)
@[simp] theorem exec_mulhu (t : Tile) (gd : GReg) (ga : GReg) (gb : GReg) :
    exec (.mulhu t gd ga gb) s = Sys2Proof.Machine.execMulhu t gd ga gb s := (rfl)
@[simp] theorem exec_mulh (t : Tile) (gd : GReg) (ga : GReg) (gb : GReg) :
    exec (.mulh t gd ga gb) s = Sys2Proof.Machine.execMulh t gd ga gb s := (rfl)
@[simp] theorem exec_addi (t : Tile) (gd : GReg) (ga : GReg) (imm : BitVec 16) :
    exec (.addi t gd ga imm) s = Sys2Proof.Machine.execAddi t gd ga imm s := (rfl)
@[simp] theorem exec_andi (t : Tile) (gd : GReg) (ga : GReg) (imm : BitVec 16) :
    exec (.andi t gd ga imm) s = Sys2Proof.Machine.execAndi t gd ga imm s := (rfl)
@[simp] theorem exec_ori (t : Tile) (gd : GReg) (ga : GReg) (imm : BitVec 16) :
    exec (.ori t gd ga imm) s = Sys2Proof.Machine.execOri t gd ga imm s := (rfl)
@[simp] theorem exec_xori (t : Tile) (gd : GReg) (ga : GReg) (imm : BitVec 16) :
    exec (.xori t gd ga imm) s = Sys2Proof.Machine.execXori t gd ga imm s := (rfl)
@[simp] theorem exec_slti (t : Tile) (gd : GReg) (ga : GReg) (imm : BitVec 16) :
    exec (.slti t gd ga imm) s = Sys2Proof.Machine.execSlti t gd ga imm s := (rfl)
@[simp] theorem exec_lui (t : Tile) (gd : GReg) (imm : BitVec 16) :
    exec (.lui t gd imm) s = Sys2Proof.Machine.execLui t gd imm s := (rfl)
@[simp] theorem exec_slli (t : Tile) (gd : GReg) (ga : GReg) (amount : BitVec 5) :
    exec (.slli t gd ga amount) s = Sys2Proof.Machine.execSlli t gd ga amount s := (rfl)
@[simp] theorem exec_srli (t : Tile) (gd : GReg) (ga : GReg) (amount : BitVec 5) :
    exec (.srli t gd ga amount) s = Sys2Proof.Machine.execSrli t gd ga amount s := (rfl)
@[simp] theorem exec_srai (t : Tile) (gd : GReg) (ga : GReg) (amount : BitVec 5) :
    exec (.srai t gd ga amount) s = Sys2Proof.Machine.execSrai t gd ga amount s := (rfl)
@[simp] theorem exec_undefinedInstruction (t : Tile) (w : BitVec 32) :
    exec (.undefinedInstruction t w) s = Sys2Proof.Machine.execUndefinedInstruction t w s := (rfl)
@[simp] theorem exec_load (t : Tile) (gr : GReg) (ga : GReg) (size : BitVec 2) (sx : Bool) (space : BitVec 2) (imm : BitVec 9) :
    exec (.load t gr ga size sx space imm) s = Sys2Proof.Machine.execLoad t gr ga size sx space imm s := (rfl)
@[simp] theorem exec_store (t : Tile) (gr : GReg) (ga : GReg) (size : BitVec 2) (sx : Bool) (space : BitVec 2) (imm : BitVec 9) :
    exec (.store t gr ga size sx space imm) s = Sys2Proof.Machine.execStore t gr ga size sx space imm s := (rfl)
@[simp] theorem exec_branchEq (t : Tile) (ga : GReg) (gb : GReg) (off : BitVec 12) :
    exec (.branchEq t ga gb off) s = Sys2Proof.Machine.execBranchEq t ga gb off s := (rfl)
@[simp] theorem exec_branchNe (t : Tile) (ga : GReg) (gb : GReg) (off : BitVec 12) :
    exec (.branchNe t ga gb off) s = Sys2Proof.Machine.execBranchNe t ga gb off s := (rfl)
@[simp] theorem exec_branchLt (t : Tile) (ga : GReg) (gb : GReg) (off : BitVec 12) :
    exec (.branchLt t ga gb off) s = Sys2Proof.Machine.execBranchLt t ga gb off s := (rfl)
@[simp] theorem exec_branchGe (t : Tile) (ga : GReg) (gb : GReg) (off : BitVec 12) :
    exec (.branchGe t ga gb off) s = Sys2Proof.Machine.execBranchGe t ga gb off s := (rfl)
@[simp] theorem exec_branchLtu (t : Tile) (ga : GReg) (gb : GReg) (off : BitVec 12) :
    exec (.branchLtu t ga gb off) s = Sys2Proof.Machine.execBranchLtu t ga gb off s := (rfl)
@[simp] theorem exec_branchGeu (t : Tile) (ga : GReg) (gb : GReg) (off : BitVec 12) :
    exec (.branchGeu t ga gb off) s = Sys2Proof.Machine.execBranchGeu t ga gb off s := (rfl)
@[simp] theorem exec_jr (t : Tile) (ga : GReg) (gb : GReg) :
    exec (.jr t ga gb) s = Sys2Proof.Machine.execJr t ga gb s := (rfl)
@[simp] theorem exec_jal (t : Tile) (ga : GReg) (off : BitVec 12) :
    exec (.jal t ga off) s = Sys2Proof.Machine.execJal t ga off s := (rfl)
@[simp] theorem exec_branchPlumbAlarm (t : Tile) (clr : Bool) (off : BitVec 12) :
    exec (.branchPlumbAlarm t clr off) s = Sys2Proof.Machine.execBranchPlumbAlarm t clr off s := (rfl)
@[simp] theorem exec_phase (t : Tile) (id : BitVec 10) :
    exec (.phase t id) s = Sys2Proof.Machine.execPhase t id s := (rfl)
@[simp] theorem exec_halt (t : Tile) :
    exec (.halt t) s = Sys2Proof.Machine.execHalt t s := (rfl)
@[simp] theorem exec_tret (t : Tile) :
    exec (.tret t) s = Sys2Proof.Machine.execTret t s := (rfl)
@[simp] theorem exec_ibufSwap (t : Tile) :
    exec (.ibufSwap t) s = Sys2Proof.Machine.execIbufSwap t s := (rfl)
@[simp] theorem exec_trapEntry (t : Tile) :
    exec (.trapEntry t) s = Sys2Proof.Machine.execTrapEntry t s := (rfl)
@[simp] theorem exec_trapStepOverrun (t : Tile) :
    exec (.trapStepOverrun t) s = Sys2Proof.Machine.execTrapStepOverrun t s := (rfl)
@[simp] theorem exec_seqRun (m : Master) (t : Tile) :
    exec (.seqRun m t) s = Sys2Proof.Machine.execSeqRun m t s := (rfl)
@[simp] theorem exec_seqHaltReq (m : Master) (t : Tile) :
    exec (.seqHaltReq m t) s = Sys2Proof.Machine.execSeqHaltReq m t s := (rfl)
@[simp] theorem exec_ibufFillComplete (t : Tile) (src : BitVec 48) :
    exec (.ibufFillComplete t src) s = Sys2Proof.Machine.execIbufFillComplete t src s := (rfl)
@[simp] theorem exec_storeBufferDrain (t : Tile) (granule : BitVec 48) :
    exec (.storeBufferDrain t granule) s = Sys2Proof.Machine.execStoreBufferDrain t granule s := (rfl)
@[simp] theorem exec_fence (t : Tile) :
    exec (.fence t) s = Sys2Proof.Machine.execFence t s := (rfl)
@[simp] theorem exec_arrive (t : Tile) (handle : BitVec 10) (gn : GReg) (gd : GReg) :
    exec (.arrive t handle gn gd) s = Sys2Proof.Machine.execArrive t handle gn gd s := (rfl)
@[simp] theorem exec_arriveStep (t : Tile) (handle : BitVec 10) (gd : GReg) :
    exec (.arriveStep t handle gd) s = Sys2Proof.Machine.execArriveStep t handle gd s := (rfl)
@[simp] theorem exec_wait (t : Tile) (handle : BitVec 10) (gs : GReg) :
    exec (.wait t handle gs) s = Sys2Proof.Machine.execWait t handle gs s := (rfl)
@[simp] theorem exec_weirReset (t : Tile) (handle : BitVec 10) :
    exec (.weirReset t handle) s = Sys2Proof.Machine.execWeirReset t handle s := (rfl)
@[simp] theorem exec_imageEnd (p : Part) :
    exec (.imageEnd p) s = Sys2Proof.Machine.execImageEnd p s := (rfl)
@[simp] theorem exec_vslotWrite (m : Master) (t : Tile) (w : Fin 8) (v : BitVec 32) :
    exec (.vslotWrite m t w v) s = Sys2Proof.Machine.execVslotWrite m t w v s := (rfl)
@[simp] theorem exec_fldRemapWrite (m : Master) (f : Field) (v : BitVec 32) :
    exec (.fldRemapWrite m f v) s = Sys2Proof.Machine.execFldRemapWrite m f v s := (rfl)
@[simp] theorem exec_fldWmapWrite (m : Master) (f : Field) (v : BitVec 32) :
    exec (.fldWmapWrite m f v) s = Sys2Proof.Machine.execFldWmapWrite m f v s := (rfl)
@[simp] theorem exec_ltrimWrite (m : Master) (f : Field) (shaft : Fin 96) (v : BitVec 32) :
    exec (.ltrimWrite m f shaft v) s = Sys2Proof.Machine.execLtrimWrite m f shaft v s := (rfl)
@[simp] theorem exec_seamHeldRelease (f : Field) (a : Adapter) :
    exec (.seamHeldRelease f a) s = Sys2Proof.Machine.execSeamHeldRelease f a s := (rfl)
@[simp] theorem exec_selfRefreshExit (f : Field) :
    exec (.selfRefreshExit f) s = Sys2Proof.Machine.execSelfRefreshExit f s := (rfl)
@[simp] theorem exec_mmFull (t : Tile) (passes : BitVec 2) (acc : Bool) (ga : GReg) (gm : GReg) (gd : GReg) (afmt : BitVec 4) :
    exec (.mmFull t passes acc ga gm gd afmt) s = Sys2Proof.Machine.execMmFull t passes acc ga gm gd afmt s := (rfl)
@[simp] theorem exec_mmHalf (t : Tile) (passes : BitVec 2) (acc : Bool) (ga : GReg) (gm : GReg) (gd : GReg) (afmt : BitVec 4) :
    exec (.mmHalf t passes acc ga gm gd afmt) s = Sys2Proof.Machine.execMmHalf t passes acc ga gm gd afmt s := (rfl)
@[simp] theorem exec_mmQuad (t : Tile) (passes : BitVec 2) (acc : Bool) (ga : GReg) (gm : GReg) (gd : GReg) (afmt : BitVec 4) :
    exec (.mmQuad t passes acc ga gm gd afmt) s = Sys2Proof.Machine.execMmQuad t passes acc ga gm gd afmt s := (rfl)
@[simp] theorem exec_mmNarrow (t : Tile) (passes : BitVec 2) (acc : Bool) (ga : GReg) (gm : GReg) (gd : GReg) (afmt : BitVec 4) :
    exec (.mmNarrow t passes acc ga gm gd afmt) s = Sys2Proof.Machine.execMmNarrow t passes acc ga gm gd afmt s := (rfl)
@[simp] theorem exec_mmLdb (t : Tile) (shape : Shape) (bfmt : BitVec 4) (gb : GReg) (gn : GReg) :
    exec (.mmLdb t shape bfmt gb gn) s = Sys2Proof.Machine.execMmLdb t shape bfmt gb gn s := (rfl)
@[simp] theorem exec_bLoadComplete (t : Tile) :
    exec (.bLoadComplete t) s = Sys2Proof.Machine.execBLoadComplete t s := (rfl)
@[simp] theorem exec_mmRdout (t : Tile) (gs : GReg) (gc : GReg) (ofmt : BitVec 4) (gk : GReg) (clr : Bool) (int : Bool) :
    exec (.mmRdout t gs gc ofmt gk clr int) s = Sys2Proof.Machine.execMmRdout t gs gc ofmt gk clr int s := (rfl)
@[simp] theorem exec_mmWait (t : Tile) :
    exec (.mmWait t) s = Sys2Proof.Machine.execMmWait t s := (rfl)
@[simp] theorem exec_bParityCheck (t : Tile) (cellRow : Fin 256) :
    exec (.bParityCheck t cellRow) s = Sys2Proof.Machine.execBParityCheck t cellRow s := (rfl)
@[simp] theorem exec_arrSpareWrite (m : Master) (t : Tile) (hi : Bool) (v : BitVec 32) :
    exec (.arrSpareWrite m t hi v) s = Sys2Proof.Machine.execArrSpareWrite m t hi v s := (rfl)
@[simp] theorem exec_vAdd (t : Tile) (o : VOp) :
    exec (.vAdd t o) s = Sys2Proof.Machine.execVAdd t o s := (rfl)
@[simp] theorem exec_vSub (t : Tile) (o : VOp) :
    exec (.vSub t o) s = Sys2Proof.Machine.execVSub t o s := (rfl)
@[simp] theorem exec_vMul (t : Tile) (o : VOp) :
    exec (.vMul t o) s = Sys2Proof.Machine.execVMul t o s := (rfl)
@[simp] theorem exec_vDiv (t : Tile) (o : VOp) :
    exec (.vDiv t o) s = Sys2Proof.Machine.execVDiv t o s := (rfl)
@[simp] theorem exec_vSqrt (t : Tile) (o : VOp) :
    exec (.vSqrt t o) s = Sys2Proof.Machine.execVSqrt t o s := (rfl)
@[simp] theorem exec_vMin (t : Tile) (o : VOp) :
    exec (.vMin t o) s = Sys2Proof.Machine.execVMin t o s := (rfl)
@[simp] theorem exec_vMax (t : Tile) (o : VOp) :
    exec (.vMax t o) s = Sys2Proof.Machine.execVMax t o s := (rfl)
@[simp] theorem exec_vMinnum (t : Tile) (o : VOp) :
    exec (.vMinnum t o) s = Sys2Proof.Machine.execVMinnum t o s := (rfl)
@[simp] theorem exec_vMaxnum (t : Tile) (o : VOp) :
    exec (.vMaxnum t o) s = Sys2Proof.Machine.execVMaxnum t o s := (rfl)
@[simp] theorem exec_vAbs (t : Tile) (o : VOp) :
    exec (.vAbs t o) s = Sys2Proof.Machine.execVAbs t o s := (rfl)
@[simp] theorem exec_vNeg (t : Tile) (o : VOp) :
    exec (.vNeg t o) s = Sys2Proof.Machine.execVNeg t o s := (rfl)
@[simp] theorem exec_vCpsgn (t : Tile) (o : VOp) :
    exec (.vCpsgn t o) s = Sys2Proof.Machine.execVCpsgn t o s := (rfl)
@[simp] theorem exec_vRint (t : Tile) (o : VOp) :
    exec (.vRint t o) s = Sys2Proof.Machine.execVRint t o s := (rfl)
@[simp] theorem exec_vScaleb (t : Tile) (o : VOp) :
    exec (.vScaleb t o) s = Sys2Proof.Machine.execVScaleb t o s := (rfl)
@[simp] theorem exec_vLogb (t : Tile) (o : VOp) :
    exec (.vLogb t o) s = Sys2Proof.Machine.execVLogb t o s := (rfl)
@[simp] theorem exec_fma (t : Tile) (o : VOp) :
    exec (.fma t o) s = Sys2Proof.Machine.execFma t o s := (rfl)
@[simp] theorem exec_fms (t : Tile) (o : VOp) :
    exec (.fms t o) s = Sys2Proof.Machine.execFms t o s := (rfl)
@[simp] theorem exec_nfma (t : Tile) (o : VOp) :
    exec (.nfma t o) s = Sys2Proof.Machine.execNfma t o s := (rfl)
@[simp] theorem exec_nfms (t : Tile) (o : VOp) :
    exec (.nfms t o) s = Sys2Proof.Machine.execNfms t o s := (rfl)
@[simp] theorem exec_cvt (t : Tile) (vd : VReg) (va : VReg) (src : BitVec 4) (dst : BitVec 4) (prec : Bool) (rm : BitVec 3) :
    exec (.cvt t vd va src dst prec rm) s = Sys2Proof.Machine.execCvt t vd va src dst prec rm s := (rfl)
@[simp] theorem exec_cvtMx (t : Tile) (vd : VReg) (va : VReg) (dst : BitVec 4) (prec : Bool) (rm : BitVec 3) :
    exec (.cvtMx t vd va dst prec rm) s = Sys2Proof.Machine.execCvtMx t vd va dst prec rm s := (rfl)
@[simp] theorem exec_cvtI (t : Tile) (o : VOp) :
    exec (.cvtI t o) s = Sys2Proof.Machine.execCvtI t o s := (rfl)
@[simp] theorem exec_vcmpEq (t : Tile) (o : VOp) :
    exec (.vcmpEq t o) s = Sys2Proof.Machine.execVcmpEq t o s := (rfl)
@[simp] theorem exec_vcmpLt (t : Tile) (o : VOp) :
    exec (.vcmpLt t o) s = Sys2Proof.Machine.execVcmpLt t o s := (rfl)
@[simp] theorem exec_vcmpLe (t : Tile) (o : VOp) :
    exec (.vcmpLe t o) s = Sys2Proof.Machine.execVcmpLe t o s := (rfl)
@[simp] theorem exec_vcmpUn (t : Tile) (o : VOp) :
    exec (.vcmpUn t o) s = Sys2Proof.Machine.execVcmpUn t o s := (rfl)
@[simp] theorem exec_vcmpSlt (t : Tile) (o : VOp) :
    exec (.vcmpSlt t o) s = Sys2Proof.Machine.execVcmpSlt t o s := (rfl)
@[simp] theorem exec_vcmpSle (t : Tile) (o : VOp) :
    exec (.vcmpSle t o) s = Sys2Proof.Machine.execVcmpSle t o s := (rfl)
@[simp] theorem exec_vcmpClass (t : Tile) (o : VOp) :
    exec (.vcmpClass t o) s = Sys2Proof.Machine.execVcmpClass t o s := (rfl)
@[simp] theorem exec_padd (t : Tile) (o : VOp) :
    exec (.padd t o) s = Sys2Proof.Machine.execPadd t o s := (rfl)
@[simp] theorem exec_pred (t : Tile) (o : VOp) :
    exec (.pred t o) s = Sys2Proof.Machine.execPred t o s := (rfl)
@[simp] theorem exec_pfin (t : Tile) (o : VOp) :
    exec (.pfin t o) s = Sys2Proof.Machine.execPfin t o s := (rfl)
@[simp] theorem exec_vld (t : Tile) (vd : VReg) (ga : GReg) :
    exec (.vld t vd ga) s = Sys2Proof.Machine.execVld t vd ga s := (rfl)
@[simp] theorem exec_vst (t : Tile) (vd : VReg) (ga : GReg) :
    exec (.vst t vd ga) s = Sys2Proof.Machine.execVst t vd ga s := (rfl)
@[simp] theorem exec_vredSum (t : Tile) (o : VOp) :
    exec (.vredSum t o) s = Sys2Proof.Machine.execVredSum t o s := (rfl)
@[simp] theorem exec_vredMax (t : Tile) (o : VOp) :
    exec (.vredMax t o) s = Sys2Proof.Machine.execVredMax t o s := (rfl)
@[simp] theorem exec_vredMin (t : Tile) (o : VOp) :
    exec (.vredMin t o) s = Sys2Proof.Machine.execVredMin t o s := (rfl)
@[simp] theorem exec_fmodeWrite (m : Master) (t : Tile) (v : BitVec 32) :
    exec (.fmodeWrite m t v) s = Sys2Proof.Machine.execFmodeWrite m t v s := (rfl)
@[simp] theorem exec_plbCtlWrite (m : Master) (t : Tile) (v : BitVec 32) :
    exec (.plbCtlWrite m t v) s = Sys2Proof.Machine.execPlbCtlWrite m t v s := (rfl)
@[simp] theorem exec_plbClr (m : Master) (t : Tile) :
    exec (.plbClr m t) s = Sys2Proof.Machine.execPlbClr m t s := (rfl)
@[simp] theorem exec_plumbRecomputeDone (t : Tile) :
    exec (.plumbRecomputeDone t) s = Sys2Proof.Machine.execPlumbRecomputeDone t s := (rfl)
@[simp] theorem exec_dmaGo (t : Tile) (ch : Chan) (gr : GReg) (tag : BitVec 8) :
    exec (.dmaGo t ch gr tag) s = Sys2Proof.Machine.execDmaGo t ch gr tag s := (rfl)
@[simp] theorem exec_dmaWait (t : Tile) (ch : Chan) (all : Bool) (gd : GReg) (tag : BitVec 8) :
    exec (.dmaWait t ch all gd tag) s = Sys2Proof.Machine.execDmaWait t ch all gd tag s := (rfl)
@[simp] theorem exec_dmaProg (t : Tile) (ch : Chan) (gd : GReg) :
    exec (.dmaProg t ch gd) s = Sys2Proof.Machine.execDmaProg t ch gd s := (rfl)
@[simp] theorem exec_dmaResume (who : DmaOrder) (t : Tile) (ch : Chan) :
    exec (.dmaResume who t ch) s = Sys2Proof.Machine.execDmaResume who t ch s := (rfl)
@[simp] theorem exec_dmaClear (who : DmaOrder) (t : Tile) (ch : Chan) :
    exec (.dmaClear who t ch) s = Sys2Proof.Machine.execDmaClear who t ch s := (rfl)
@[simp] theorem exec_dmaAbort (who : DmaOrder) (t : Tile) (ch : Chan) :
    exec (.dmaAbort who t ch) s = Sys2Proof.Machine.execDmaAbort who t ch s := (rfl)
@[simp] theorem exec_dmaLinear (t : Tile) (ch : Chan) :
    exec (.dmaLinear t ch) s = Sys2Proof.Machine.execDmaLinear t ch s := (rfl)
@[simp] theorem exec_dmaStrided (t : Tile) (ch : Chan) :
    exec (.dmaStrided t ch) s = Sys2Proof.Machine.execDmaStrided t ch s := (rfl)
@[simp] theorem exec_dmaGather (t : Tile) (ch : Chan) :
    exec (.dmaGather t ch) s = Sys2Proof.Machine.execDmaGather t ch s := (rfl)
@[simp] theorem exec_dmaScatter (t : Tile) (ch : Chan) :
    exec (.dmaScatter t ch) s = Sys2Proof.Machine.execDmaScatter t ch s := (rfl)
@[simp] theorem exec_dmaSkew (t : Tile) (ch : Chan) :
    exec (.dmaSkew t ch) s = Sys2Proof.Machine.execDmaSkew t ch s := (rfl)
@[simp] theorem exec_dmaTranspose (t : Tile) (ch : Chan) :
    exec (.dmaTranspose t ch) s = Sys2Proof.Machine.execDmaTranspose t ch s := (rfl)
@[simp] theorem exec_dmaRaggedWalk (t : Tile) (ch : Chan) :
    exec (.dmaRaggedWalk t ch) s = Sys2Proof.Machine.execDmaRaggedWalk t ch s := (rfl)
@[simp] theorem exec_dmaEngineCommandList (t : Tile) (ch : Chan) :
    exec (.dmaEngineCommandList t ch) s = Sys2Proof.Machine.execDmaEngineCommandList t ch s := (rfl)
@[simp] theorem exec_dmaCisternFill (t : Tile) (ch : Chan) :
    exec (.dmaCisternFill t ch) s = Sys2Proof.Machine.execDmaCisternFill t ch s := (rfl)
@[simp] theorem exec_dmaCisternCopy (t : Tile) (ch : Chan) :
    exec (.dmaCisternCopy t ch) s = Sys2Proof.Machine.execDmaCisternCopy t ch s := (rfl)
@[simp] theorem exec_dmaModeUndefined (t : Tile) (ch : Chan) :
    exec (.dmaModeUndefined t ch) s = Sys2Proof.Machine.execDmaModeUndefined t ch s := (rfl)
@[simp] theorem exec_dmaGranule (t : Tile) (ch : Chan) :
    exec (.dmaGranule t ch) s = Sys2Proof.Machine.execDmaGranule t ch s := (rfl)
@[simp] theorem exec_eccWriteBack (t : Tile) (quarter : Nat) :
    exec (.eccWriteBack t quarter) s = Sys2Proof.Machine.execEccWriteBack t quarter s := (rfl)
@[simp] theorem exec_engIssue (t : Tile) (gr : GReg) :
    exec (.engIssue t gr) s = Sys2Proof.Machine.execEngIssue t gr s := (rfl)
@[simp] theorem exec_engWait (t : Tile) (gd : GReg) :
    exec (.engWait t gd) s = Sys2Proof.Machine.execEngWait t gd s := (rfl)
@[simp] theorem exec_engEntryAccept (t : Tile) (entry : BitVec 128) :
    exec (.engEntryAccept t entry) s = Sys2Proof.Machine.execEngEntryAccept t entry s := (rfl)
@[simp] theorem exec_wadd (t : Tile) (bank : Fin 32) :
    exec (.wadd t bank) s = Sys2Proof.Machine.execWadd t bank s := (rfl)
@[simp] theorem exec_wscale (t : Tile) (bank : Fin 32) :
    exec (.wscale t bank) s = Sys2Proof.Machine.execWscale t bank s := (rfl)
@[simp] theorem exec_waxpy (t : Tile) (bank : Fin 32) :
    exec (.waxpy t bank) s = Sys2Proof.Machine.execWaxpy t bank s := (rfl)
@[simp] theorem exec_wreduce (t : Tile) (bank : Fin 32) :
    exec (.wreduce t bank) s = Sys2Proof.Machine.execWreduce t bank s := (rfl)
@[simp] theorem exec_wfill (t : Tile) (bank : Fin 32) :
    exec (.wfill t bank) s = Sys2Proof.Machine.execWfill t bank s := (rfl)
@[simp] theorem exec_wcopy (t : Tile) (bank : Fin 32) :
    exec (.wcopy t bank) s = Sys2Proof.Machine.execWcopy t bank s := (rfl)
@[simp] theorem exec_wxpnd (t : Tile) (bank : Fin 32) :
    exec (.wxpnd t bank) s = Sys2Proof.Machine.execWxpnd t bank s := (rfl)
@[simp] theorem exec_wscrub (t : Tile) (bank : Fin 32) :
    exec (.wscrub t bank) s = Sys2Proof.Machine.execWscrub t bank s := (rfl)
@[simp] theorem exec_engCommandComplete (t : Tile) (bank : Fin 32) :
    exec (.engCommandComplete t bank) s = Sys2Proof.Machine.execEngCommandComplete t bank s := (rfl)
@[simp] theorem exec_refresh (f : Field) :
    exec (.refresh f) s = Sys2Proof.Machine.execRefresh f s := (rfl)
@[simp] theorem exec_twinMirror (t : Tile) (granule : BitVec 48) :
    exec (.twinMirror t granule) s = Sys2Proof.Machine.execTwinMirror t granule s := (rfl)
@[simp] theorem exec_twinRetry (t : Tile) (granule : BitVec 48) :
    exec (.twinRetry t granule) s = Sys2Proof.Machine.execTwinRetry t granule s := (rfl)
@[simp] theorem exec_twinWrite (m : Master) (t : Tile) (e : Fin 8) (word : Fin 4) (v : BitVec 32) :
    exec (.twinWrite m t e word v) s = Sys2Proof.Machine.execTwinWrite m t e word v s := (rfl)
@[simp] theorem exec_scrubStart (m : Master) (t : Tile) (v : BitVec 32) :
    exec (.scrubStart m t v) s = Sys2Proof.Machine.execScrubStart m t v s := (rfl)
@[simp] theorem exec_scrubDone (t : Tile) :
    exec (.scrubDone t) s = Sys2Proof.Machine.execScrubDone t s := (rfl)
@[simp] theorem exec_backoffExpiry (pp : PortPage) (req : Nat) :
    exec (.backoffExpiry pp req) s = Sys2Proof.Machine.execBackoffExpiry pp req s := (rfl)
@[simp] theorem exec_portFreeze (m : Master) (pp : PortPage) :
    exec (.portFreeze m pp) s = Sys2Proof.Machine.execPortFreeze m pp s := (rfl)
@[simp] theorem exec_portRelease (m : Master) (pp : PortPage) :
    exec (.portRelease m pp) s = Sys2Proof.Machine.execPortRelease m pp s := (rfl)
@[simp] theorem exec_portDrained (pp : PortPage) :
    exec (.portDrained pp) s = Sys2Proof.Machine.execPortDrained pp s := (rfl)
@[simp] theorem exec_softReset (m : Master) (page : BitVec 48) :
    exec (.softReset m page) s = Sys2Proof.Machine.execSoftReset m page s := (rfl)
@[simp] theorem exec_arbCtlWrite (m : Master) (pp : PortPage) (v : BitVec 32) :
    exec (.arbCtlWrite m pp v) s = Sys2Proof.Machine.execArbCtlWrite m pp v s := (rfl)
@[simp] theorem exec_seamCtlWrite (m : Master) (f : Field) (a : Adapter) (v : BitVec 32) :
    exec (.seamCtlWrite m f a v) s = Sys2Proof.Machine.execSeamCtlWrite m f a v s := (rfl)
@[simp] theorem exec_partCfgWrite (m : Master) (p : Part) (v : BitVec 32) :
    exec (.partCfgWrite m p v) s = Sys2Proof.Machine.execPartCfgWrite m p v s := (rfl)
@[simp] theorem exec_enable (m : Master) (p : Part) :
    exec (.enable m p) s = Sys2Proof.Machine.execEnable m p s := (rfl)
@[simp] theorem exec_disable (m : Master) (p : Part) :
    exec (.disable m p) s = Sys2Proof.Machine.execDisable m p s := (rfl)
@[simp] theorem exec_stepPreemption (m : Master) (p : Part) :
    exec (.stepPreemption m p) s = Sys2Proof.Machine.execStepPreemption m p s := (rfl)
@[simp] theorem exec_immediatePreemption (m : Master) (p : Part) :
    exec (.immediatePreemption m p) s = Sys2Proof.Machine.execImmediatePreemption m p s := (rfl)
@[simp] theorem exec_saveComplete (p : Part) :
    exec (.saveComplete p) s = Sys2Proof.Machine.execSaveComplete p s := (rfl)
@[simp] theorem exec_restore (m : Master) (p : Part) :
    exec (.restore m p) s = Sys2Proof.Machine.execRestore m p s := (rfl)
@[simp] theorem exec_discardRecord (m : Master) (p : Part) :
    exec (.discardRecord m p) s = Sys2Proof.Machine.execDiscardRecord m p s := (rfl)
@[simp] theorem exec_gracefulReset (m : Master) (p : Part) :
    exec (.gracefulReset m p) s = Sys2Proof.Machine.execGracefulReset m p s := (rfl)
@[simp] theorem exec_abruptReset (m : Master) (p : Part) :
    exec (.abruptReset m p) s = Sys2Proof.Machine.execAbruptReset m p s := (rfl)
@[simp] theorem exec_resetComplete (p : Part) :
    exec (.resetComplete p) s = Sys2Proof.Machine.execResetComplete p s := (rfl)
@[simp] theorem exec_partCmdUndefined (m : Master) (p : Part) (code : BitVec 4) :
    exec (.partCmdUndefined m p code) s = Sys2Proof.Machine.execPartCmdUndefined m p code s := (rfl)
@[simp] theorem exec_weirMapWrite (m : Master) (p : Part) (handle : BitVec 10) (thr : Bool) (v : BitVec 32) :
    exec (.weirMapWrite m p handle thr v) s = Sys2Proof.Machine.execWeirMapWrite m p handle thr v s := (rfl)
@[simp] theorem exec_tableRegionWrite (m : Master) (p : Part) (len : Bool) (v : BitVec 32) :
    exec (.tableRegionWrite m p len v) s = Sys2Proof.Machine.execTableRegionWrite m p len v s := (rfl)
@[simp] theorem exec_map (m : Master) (p : Part) (c : MapArgs) :
    exec (.map m p c) s = Sys2Proof.Machine.execMap m p c s := (rfl)
@[simp] theorem exec_unmap (m : Master) (p : Part) (c : MapArgs) :
    exec (.unmap m p c) s = Sys2Proof.Machine.execUnmap m p c s := (rfl)
@[simp] theorem exec_protect (m : Master) (p : Part) (c : MapArgs) :
    exec (.protect m p c) s = Sys2Proof.Machine.execProtect m p c s := (rfl)
@[simp] theorem exec_mapOpInvalid (m : Master) (p : Part) (c : MapArgs) :
    exec (.mapOpInvalid m p c) s = Sys2Proof.Machine.execMapOpInvalid m p c s := (rfl)
@[simp] theorem exec_mapCommandComplete (p : Part) :
    exec (.mapCommandComplete p) s = Sys2Proof.Machine.execMapCommandComplete p s := (rfl)
@[simp] theorem exec_translationWalk (t : Tile) (va : BitVec 48) (wr : Bool) :
    exec (.translationWalk t va wr) s = Sys2Proof.Machine.execTranslationWalk t va wr s := (rfl)
@[simp] theorem exec_flitReceive (y : Port) (sub : Sub) (flit : Flit) :
    exec (.flitReceive y sub flit) s = Sys2Proof.Machine.execFlitReceive y sub flit s := (rfl)
@[simp] theorem exec_creditReturn (y : Port) (sub : Sub) (vc : Fin 4) :
    exec (.creditReturn y sub vc) s = Sys2Proof.Machine.execCreditReturn y sub vc s := (rfl)
@[simp] theorem exec_subportRetrainDone (y : Port) (sub : Sub) :
    exec (.subportRetrainDone y sub) s = Sys2Proof.Machine.execSubportRetrainDone y sub s := (rfl)
@[simp] theorem exec_subportLost (y : Port) (sub : Sub) :
    exec (.subportLost y sub) s = Sys2Proof.Machine.execSubportLost y sub s := (rfl)
@[simp] theorem exec_laneWindow (y : Port) (lane : Lane) (uc : Nat) :
    exec (.laneWindow y lane uc) s = Sys2Proof.Machine.execLaneWindow y lane uc s := (rfl)
@[simp] theorem exec_laneLossOfLock (y : Port) (lane : Lane) :
    exec (.laneLossOfLock y lane) s = Sys2Proof.Machine.execLaneLossOfLock y lane s := (rfl)
@[simp] theorem exec_swapRequest (y : Port) (lane : Lane) :
    exec (.swapRequest y lane) s = Sys2Proof.Machine.execSwapRequest y lane s := (rfl)
@[simp] theorem exec_laneRetrainDone (y : Port) (lane : Lane) (pass : Bool) :
    exec (.laneRetrainDone y lane pass) s = Sys2Proof.Machine.execLaneRetrainDone y lane pass s := (rfl)
@[simp] theorem exec_backgroundRetrain (y : Port) :
    exec (.backgroundRetrain y) s = Sys2Proof.Machine.execBackgroundRetrain y s := (rfl)
@[simp] theorem exec_ypCtlWrite (m : Master) (y : Port) (v : BitVec 32) :
    exec (.ypCtlWrite m y v) s = Sys2Proof.Machine.execYpCtlWrite m y v s := (rfl)
@[simp] theorem exec_ypAltWrite (m : Master) (y : Port) (v : BitVec 32) :
    exec (.ypAltWrite m y v) s = Sys2Proof.Machine.execYpAltWrite m y v s := (rfl)
@[simp] theorem exec_yopDoorbell (t : Tile) (y : Port) (v : BitVec 32) :
    exec (.yopDoorbell t y v) s = Sys2Proof.Machine.execYopDoorbell t y v s := (rfl)
@[simp] theorem exec_put (y : Port) (r : YReq) (data : Bytes) :
    exec (.put y r data) s = Sys2Proof.Machine.execPut y r data s := (rfl)
@[simp] theorem exec_get (y : Port) (r : YReq) :
    exec (.get y r) s = Sys2Proof.Machine.execGet y r s := (rfl)
@[simp] theorem exec_atomicAdd64 (y : Port) (r : YReq) (a : YAtomic) :
    exec (.atomicAdd64 y r a) s = Sys2Proof.Machine.execAtomicAdd64 y r a s := (rfl)
@[simp] theorem exec_atomicSwap64 (y : Port) (r : YReq) (a : YAtomic) :
    exec (.atomicSwap64 y r a) s = Sys2Proof.Machine.execAtomicSwap64 y r a s := (rfl)
@[simp] theorem exec_atomicCas64 (y : Port) (r : YReq) (a : YAtomic) :
    exec (.atomicCas64 y r a) s = Sys2Proof.Machine.execAtomicCas64 y r a s := (rfl)
@[simp] theorem exec_atomicFadd32 (y : Port) (r : YReq) (a : YAtomic) :
    exec (.atomicFadd32 y r a) s = Sys2Proof.Machine.execAtomicFadd32 y r a s := (rfl)
@[simp] theorem exec_reduceSum (y : Port) (r : YReq) (fmt : BitVec 4) (data : Bytes) :
    exec (.reduceSum y r fmt data) s = Sys2Proof.Machine.execReduceSum y r fmt data s := (rfl)
@[simp] theorem exec_reduceMax (y : Port) (r : YReq) (fmt : BitVec 4) (data : Bytes) :
    exec (.reduceMax y r fmt data) s = Sys2Proof.Machine.execReduceMax y r fmt data s := (rfl)
@[simp] theorem exec_reduceMin (y : Port) (r : YReq) (fmt : BitVec 4) (data : Bytes) :
    exec (.reduceMin y r fmt data) s = Sys2Proof.Machine.execReduceMin y r fmt data s := (rfl)
@[simp] theorem exec_operationComplete (y : Port) (opId : Nat) (status : BitVec 3) (data : Bytes) :
    exec (.operationComplete y opId status data) s = Sys2Proof.Machine.execOperationComplete y opId status data s := (rfl)
@[simp] theorem exec_ycolDoorbell (t : Tile) (y : Port) (v : BitVec 32) :
    exec (.ycolDoorbell t y v) s = Sys2Proof.Machine.execYcolDoorbell t y v s := (rfl)
@[simp] theorem exec_reduceScatter (y : Port) :
    exec (.reduceScatter y) s = Sys2Proof.Machine.execReduceScatter y s := (rfl)
@[simp] theorem exec_allGather (y : Port) :
    exec (.allGather y) s = Sys2Proof.Machine.execAllGather y s := (rfl)
@[simp] theorem exec_reduceScatterAllGather (y : Port) :
    exec (.reduceScatterAllGather y) s = Sys2Proof.Machine.execReduceScatterAllGather y s := (rfl)
@[simp] theorem exec_collectiveMessage (y : Port) (cid : BitVec 32) (stepNo : BitVec 64) (rank : Nat) (chunk : Nat) (data : Bytes) :
    exec (.collectiveMessage y cid stepNo rank chunk data) s = Sys2Proof.Machine.execCollectiveMessage y cid stepNo rank chunk data s := (rfl)
@[simp] theorem exec_collectiveTimeout (y : Port) (cid : BitVec 32) :
    exec (.collectiveTimeout y cid) s = Sys2Proof.Machine.execCollectiveTimeout y cid s := (rfl)
@[simp] theorem exec_setpoint (y : Port) (src : BitVec 16) (group : BitVec 16) (seq : Nat) (code : BitVec 6) (time : BitVec 64) :
    exec (.setpoint y src group seq code time) s = Sys2Proof.Machine.execSetpoint y src group seq code time s := (rfl)
@[simp] theorem exec_ack (y : Port) (src : BitVec 16) (group : BitVec 16) (seq : Nat) (status : BitVec 2) :
    exec (.ack y src group seq status) s = Sys2Proof.Machine.execAck y src group seq status s := (rfl)
@[simp] theorem exec_lag (y : Port) (src : BitVec 16) (group : BitVec 16) (seq : Nat) (code : BitVec 6) (cause : BitVec 2) :
    exec (.lag y src group seq code cause) s = Sys2Proof.Machine.execLag y src group seq code cause s := (rfl)
@[simp] theorem exec_setpointApply :
    exec (.setpointApply) s = Sys2Proof.Machine.execSetpointApply s := (rfl)
@[simp] theorem exec_discover (y : Port) (d : DiscoverInfo) :
    exec (.discover y d) s = Sys2Proof.Machine.execDiscover y d s := (rfl)
@[simp] theorem exec_haltMessage (y : Port) :
    exec (.haltMessage y) s = Sys2Proof.Machine.execHaltMessage y s := (rfl)
@[simp] theorem exec_resumeMessage (y : Port) :
    exec (.resumeMessage y) s = Sys2Proof.Machine.execResumeMessage y s := (rfl)
@[simp] theorem exec_downMessage (y : Port) :
    exec (.downMessage y) s = Sys2Proof.Machine.execDownMessage y s := (rfl)
@[simp] theorem exec_hostLinkDown (h : HostPort) :
    exec (.hostLinkDown h) s = Sys2Proof.Machine.execHostLinkDown h s := (rfl)
@[simp] theorem exec_hostLinkUp (h : HostPort) :
    exec (.hostLinkUp h) s = Sys2Proof.Machine.execHostLinkUp h s := (rfl)
@[simp] theorem exec_hostMemoryRead (h : HostPort) (a : HostAddr) (n : Nat) (own : Bool) :
    exec (.hostMemoryRead h a n own) s = Sys2Proof.Machine.execHostMemoryRead h a n own s := (rfl)
@[simp] theorem exec_hostMemoryWrite (h : HostPort) (a : HostAddr) (data : Bytes) :
    exec (.hostMemoryWrite h a data) s = Sys2Proof.Machine.execHostMemoryWrite h a data s := (rfl)
@[simp] theorem exec_hostWriteback (h : HostPort) (p : Part) (offset : BitVec 48) (d : Line) :
    exec (.hostWriteback h p offset d) s = Sys2Proof.Machine.execHostWriteback h p offset d s := (rfl)
@[simp] theorem exec_hdmDecoderCommit (h : HostPort) (p : Part) (size : BitVec 48) :
    exec (.hdmDecoderCommit h p size) s = Sys2Proof.Machine.execHdmDecoderCommit h p size s := (rfl)
@[simp] theorem exec_bisnpResponse (h : HostPort) (p : Part) (offset : BitVec 48) (dirty : (Option Line)) :
    exec (.bisnpResponse h p offset dirty) s = Sys2Proof.Machine.execBisnpResponse h p offset dirty s := (rfl)
@[simp] theorem exec_biTimeout (p : Part) (offset : BitVec 48) :
    exec (.biTimeout p offset) s = Sys2Proof.Machine.execBiTimeout p offset s := (rfl)
@[simp] theorem exec_sqDoorbell (m : Master) (p : Part) (q : Fin 64) (tail : BitVec 6) :
    exec (.sqDoorbell m p q tail) s = Sys2Proof.Machine.execSqDoorbell m p q tail s := (rfl)
@[simp] theorem exec_start (p : Part) (q : Fin 64) (img : Image) :
    exec (.start p q img) s = Sys2Proof.Machine.execStart p q img s := (rfl)
@[simp] theorem exec_pcmd (p : Part) (q : Fin 64) :
    exec (.pcmd p q) s = Sys2Proof.Machine.execPcmd p q s := (rfl)
@[simp] theorem exec_sqMap (p : Part) (q : Fin 64) :
    exec (.sqMap p q) s = Sys2Proof.Machine.execSqMap p q s := (rfl)
@[simp] theorem exec_sqFence (p : Part) (q : Fin 64) :
    exec (.sqFence p q) s = Sys2Proof.Machine.execSqFence p q s := (rfl)
@[simp] theorem exec_sqUndefined (p : Part) (q : Fin 64) :
    exec (.sqUndefined p q) s = Sys2Proof.Machine.execSqUndefined p q s := (rfl)
@[simp] theorem exec_cqHeadWrite (m : Master) (p : Part) (q : Fin 64) (v : BitVec 32) :
    exec (.cqHeadWrite m p q v) s = Sys2Proof.Machine.execCqHeadWrite m p q v s := (rfl)
@[simp] theorem exec_hqPostIdWrite (t : Tile) (q : Fin 64) (v : BitVec 32) :
    exec (.hqPostIdWrite t q v) s = Sys2Proof.Machine.execHqPostIdWrite t q v s := (rfl)
@[simp] theorem exec_hqPost (t : Tile) (q : Fin 64) (v : BitVec 64) :
    exec (.hqPost t q v) s = Sys2Proof.Machine.execHqPost t q v s := (rfl)
@[simp] theorem exec_evtEnWrite (m : Master) (page : BitVec 48) (v : BitVec 32) :
    exec (.evtEnWrite m page v) s = Sys2Proof.Machine.execEvtEnWrite m page v s := (rfl)
@[simp] theorem exec_evtInj (m : Master) (page : BitVec 48) (v : BitVec 32) :
    exec (.evtInj m page v) s = Sys2Proof.Machine.execEvtInj m page v s := (rfl)
@[simp] theorem exec_ownerWrite (m : Master) (page : BitVec 48) (v : BitVec 32) :
    exec (.ownerWrite m page v) s = Sys2Proof.Machine.execOwnerWrite m page v s := (rfl)
@[simp] theorem exec_lockWrite (m : Master) (page : BitVec 48) (v : BitVec 32) :
    exec (.lockWrite m page v) s = Sys2Proof.Machine.execLockWrite m page v s := (rfl)
@[simp] theorem exec_registerWrite (m : Master) (addr : BitVec 48) (v : BitVec 32) :
    exec (.registerWrite m addr v) s = Sys2Proof.Machine.execRegisterWrite m addr v s := (rfl)
@[simp] theorem exec_vinOutOfRange (mv : Nat) :
    exec (.vinOutOfRange mv) s = Sys2Proof.Machine.execVinOutOfRange mv s := (rfl)
@[simp] theorem exec_vinLow (mv : Nat) :
    exec (.vinLow mv) s = Sys2Proof.Machine.execVinLow mv s := (rfl)
@[simp] theorem exec_vinUndervoltage (mv : Nat) :
    exec (.vinUndervoltage mv) s = Sys2Proof.Machine.execVinUndervoltage mv s := (rfl)
@[simp] theorem exec_vinCollapse (mv : Nat) :
    exec (.vinCollapse mv) s = Sys2Proof.Machine.execVinCollapse mv s := (rfl)
@[simp] theorem exec_vinOvervoltage (mv : Nat) :
    exec (.vinOvervoltage mv) s = Sys2Proof.Machine.execVinOvervoltage mv s := (rfl)
@[simp] theorem exec_vinRecovered (mv : Nat) :
    exec (.vinRecovered mv) s = Sys2Proof.Machine.execVinRecovered mv s := (rfl)
@[simp] theorem exec_vhkLoss :
    exec (.vhkLoss) s = Sys2Proof.Machine.execVhkLoss s := (rfl)
@[simp] theorem exec_tieClose (f : Field) (next : Bool) (feeding : Bool) (mv : Nat) :
    exec (.tieClose f next feeding mv) s = Sys2Proof.Machine.execTieClose f next feeding mv s := (rfl)
@[simp] theorem exec_tieOpen (f : Field) (next : Bool) :
    exec (.tieOpen f next) s = Sys2Proof.Machine.execTieOpen f next s := (rfl)
@[simp] theorem exec_converterFailOpen (f : Field) :
    exec (.converterFailOpen f) s = Sys2Proof.Machine.execConverterFailOpen f s := (rfl)
@[simp] theorem exec_converterFailShort (f : Field) :
    exec (.converterFailShort f) s = Sys2Proof.Machine.execConverterFailShort f s := (rfl)
@[simp] theorem exec_ivrPhaseFail (f : Field) (shaft : Fin 96) :
    exec (.ivrPhaseFail f shaft) s = Sys2Proof.Machine.execIvrPhaseFail f shaft s := (rfl)
@[simp] theorem exec_railSample (p : RailPoint) (mv : Nat) (amps : Nat) :
    exec (.railSample p mv amps) s = Sys2Proof.Machine.execRailSample p mv amps s := (rfl)
@[simp] theorem exec_degradeDetect (f : Field) (path : Nat) (drop : Nat) (expected : Nat) (ms : Nat) :
    exec (.degradeDetect f path drop expected ms) s = Sys2Proof.Machine.execDegradeDetect f path drop expected ms s := (rfl)
@[simp] theorem exec_railMinRead (m : Master) (p : RailPoint) :
    exec (.railMinRead m p) s = Sys2Proof.Machine.execRailMinRead m p s := (rfl)
@[simp] theorem exec_capRecompute :
    exec (.capRecompute) s = Sys2Proof.Machine.execCapRecompute s := (rfl)
@[simp] theorem exec_govHcapWrite (m : Master) (v : BitVec 32) :
    exec (.govHcapWrite m v) s = Sys2Proof.Machine.execGovHcapWrite m v s := (rfl)
@[simp] theorem exec_govScapWrite (m : Master) (v : BitVec 32) :
    exec (.govScapWrite m v) s = Sys2Proof.Machine.execGovScapWrite m v s := (rfl)
@[simp] theorem exec_energyUpdate (mj : Nat) :
    exec (.energyUpdate mj) s = Sys2Proof.Machine.execEnergyUpdate mj s := (rfl)
@[simp] theorem exec_energyLoRead (m : Master) :
    exec (.energyLoRead m) s = Sys2Proof.Machine.execEnergyLoRead m s := (rfl)
@[simp] theorem exec_rthMeasure (tdie : Nat) (tin : Nat) (pw : Nat) (stopped : Bool) :
    exec (.rthMeasure tdie tin pw stopped) s = Sys2Proof.Machine.execRthMeasure tdie tin pw stopped s := (rfl)
@[simp] theorem exec_fieldBudgetAllocate (paux : Nat) :
    exec (.fieldBudgetAllocate paux) s = Sys2Proof.Machine.execFieldBudgetAllocate paux s := (rfl)
@[simp] theorem exec_fieldGovernorTick (f : Field) (power : Nat) :
    exec (.fieldGovernorTick f power) s = Sys2Proof.Machine.execFieldGovernorTick f power s := (rfl)
@[simp] theorem exec_tileGovernorTick (t : Tile) (amps : Nat) :
    exec (.tileGovernorTick t amps) s = Sys2Proof.Machine.execTileGovernorTick t amps s := (rfl)
@[simp] theorem exec_maquetteUpdate (f : Field) (meas : MqMeasure) :
    exec (.maquetteUpdate f meas) s = Sys2Proof.Machine.execMaquetteUpdate f meas s := (rfl)
@[simp] theorem exec_tlimHit (t : Tile) (temp : Nat) :
    exec (.tlimHit t temp) s = Sys2Proof.Machine.execTlimHit t temp s := (rfl)
@[simp] theorem exec_govFceilWrite (m : Master) (v : BitVec 32) :
    exec (.govFceilWrite m v) s = Sys2Proof.Machine.execGovFceilWrite m v s := (rfl)
@[simp] theorem exec_lagCheck (e : LagEval) :
    exec (.lagCheck e) s = Sys2Proof.Machine.execLagCheck e s := (rfl)
@[simp] theorem exec_bridgeOver :
    exec (.bridgeOver) s = Sys2Proof.Machine.execBridgeOver s := (rfl)
@[simp] theorem exec_lagResend :
    exec (.lagResend) s = Sys2Proof.Machine.execLagResend s := (rfl)
@[simp] theorem exec_rampWindow (mean : Nat) :
    exec (.rampWindow mean) s = Sys2Proof.Machine.execRampWindow mean s := (rfl)
@[simp] theorem exec_schedWrite (m : Master) (e : Fin 32) (c : SchedEntry) :
    exec (.schedWrite m e c) s = Sys2Proof.Machine.execSchedWrite m e c s := (rfl)
@[simp] theorem exec_kwCtlWrite (m : Master) (v : BitVec 32) :
    exec (.kwCtlWrite m v) s = Sys2Proof.Machine.execKwCtlWrite m v s := (rfl)
@[simp] theorem exec_flowEstimate (pw : Nat) (tout : Nat) (tin : Nat) :
    exec (.flowEstimate pw tout tin) s = Sys2Proof.Machine.execFlowEstimate pw tout tin s := (rfl)
@[simp] theorem exec_telemetryUpdate (d : TelemetrySet) :
    exec (.telemetryUpdate d) s = Sys2Proof.Machine.execTelemetryUpdate d s := (rfl)
@[simp] theorem exec_ppsLoss :
    exec (.ppsLoss) s = Sys2Proof.Machine.execPpsLoss s := (rfl)
@[simp] theorem exec_internalThermalTrip (f : Field) (temp : Nat) :
    exec (.internalThermalTrip f temp) s = Sys2Proof.Machine.execInternalThermalTrip f temp s := (rfl)
@[simp] theorem exec_trayStop :
    exec (.trayStop) s = Sys2Proof.Machine.execTrayStop s := (rfl)
@[simp] theorem exec_trayStopRelease :
    exec (.trayStopRelease) s = Sys2Proof.Machine.execTrayStopRelease s := (rfl)
@[simp] theorem exec_trayFlowLoss :
    exec (.trayFlowLoss) s = Sys2Proof.Machine.execTrayFlowLoss s := (rfl)
@[simp] theorem exec_flowRestored :
    exec (.flowRestored) s = Sys2Proof.Machine.execFlowRestored s := (rfl)
@[simp] theorem exec_govStop (m : Master) :
    exec (.govStop m) s = Sys2Proof.Machine.execGovStop m s := (rfl)
@[simp] theorem exec_govRun (m : Master) (hottest : Nat) :
    exec (.govRun m hottest) s = Sys2Proof.Machine.execGovRun m hottest s := (rfl)
@[simp] theorem exec_stopWaitTimeout (hottest : Nat) :
    exec (.stopWaitTimeout hottest) s = Sys2Proof.Machine.execStopWaitTimeout hottest s := (rfl)
@[simp] theorem exec_pwrEnRise :
    exec (.pwrEnRise) s = Sys2Proof.Machine.execPwrEnRise s := (rfl)
@[simp] theorem exec_pwrEnLow :
    exec (.pwrEnLow) s = Sys2Proof.Machine.execPwrEnLow s := (rfl)
@[simp] theorem exec_warmCastingRequest (m : Master) :
    exec (.warmCastingRequest m) s = Sys2Proof.Machine.execWarmCastingRequest m s := (rfl)
@[simp] theorem exec_castStageEnd (r : StageReport) :
    exec (.castStageEnd r) s = Sys2Proof.Machine.execCastStageEnd r s := (rfl)
@[simp] theorem exec_castStageTimeout (f : Field) (fits : Bool) :
    exec (.castStageTimeout f fits) s = Sys2Proof.Machine.execCastStageTimeout f fits s := (rfl)
@[simp] theorem exec_imageBootTimeout :
    exec (.imageBootTimeout) s = Sys2Proof.Machine.execImageBootTimeout s := (rfl)
@[simp] theorem exec_manifestReceive (b : Bytes) :
    exec (.manifestReceive b) s = Sys2Proof.Machine.execManifestReceive b s := (rfl)
@[simp] theorem exec_manifestTimeout :
    exec (.manifestTimeout) s = Sys2Proof.Machine.execManifestTimeout s := (rfl)
@[simp] theorem exec_discoverTimeout (y : Port) :
    exec (.discoverTimeout y) s = Sys2Proof.Machine.execDiscoverTimeout y s := (rfl)
@[simp] theorem exec_ledgerWrite :
    exec (.ledgerWrite) s = Sys2Proof.Machine.execLedgerWrite s := (rfl)
@[simp] theorem exec_nbrTestGo (m : Master) (t : Tile) :
    exec (.nbrTestGo m t) s = Sys2Proof.Machine.execNbrTestGo m t s := (rfl)
@[simp] theorem exec_tileFault (t : Tile) (cause : TileFaultCause) :
    exec (.tileFault t cause) s = Sys2Proof.Machine.execTileFault t cause s := (rfl)
@[simp] theorem exec_tileHang (t : Tile) :
    exec (.tileHang t) s = Sys2Proof.Machine.execTileHang t s := (rfl)
@[simp] theorem exec_tileRepair (p : Part) :
    exec (.tileRepair p) s = Sys2Proof.Machine.execTileRepair p s := (rfl)
@[simp] theorem exec_checkerTest (f : Field) (shaft : Fin 96) (ok : Bool) :
    exec (.checkerTest f shaft ok) s = Sys2Proof.Machine.execCheckerTest f shaft ok s := (rfl)
@[simp] theorem exec_decantLinkEnd (f : Field) :
    exec (.decantLinkEnd f) s = Sys2Proof.Machine.execDecantLinkEnd f s := (rfl)
@[simp] theorem exec_staticFallback (p : Part) :
    exec (.staticFallback p) s = Sys2Proof.Machine.execStaticFallback p s := (rfl)
@[simp] theorem exec_resyncComplete (t : Tile) (e : Fin 8) :
    exec (.resyncComplete t e) s = Sys2Proof.Machine.execResyncComplete t e s := (rfl)
@[simp] theorem exec_returnToService (f : Field) (seg : Fin 8) (pass : Bool) :
    exec (.returnToService f seg pass) s = Sys2Proof.Machine.execReturnToService f seg pass s := (rfl)
@[simp] theorem exec_updateTileMicrocode (p : Part) (latenciesOk : Bool) (hash : BitVec 384) :
    exec (.updateTileMicrocode p latenciesOk hash) s = Sys2Proof.Machine.execUpdateTileMicrocode p latenciesOk hash s := (rfl)
@[simp] theorem exec_updateSerdesFirmware (y : Port) (hash : BitVec 384) :
    exec (.updateSerdesFirmware y hash) s = Sys2Proof.Machine.execUpdateSerdesFirmware y hash s := (rfl)
@[simp] theorem exec_updateSniwin (version : Nat) (hash : BitVec 384) :
    exec (.updateSniwin version hash) s = Sys2Proof.Machine.execUpdateSniwin version hash s := (rfl)
@[simp] theorem exec_sniwinUpdateTimeout :
    exec (.sniwinUpdateTimeout) s = Sys2Proof.Machine.execSniwinUpdateTimeout s := (rfl)
@[simp] theorem exec_svpWatchdog :
    exec (.svpWatchdog) s = Sys2Proof.Machine.execSvpWatchdog s := (rfl)
@[simp] theorem exec_svcTelemetryRead :
    exec (.svcTelemetryRead) s = Sys2Proof.Machine.execSvcTelemetryRead s := (rfl)
@[simp] theorem exec_svcEventLogRead (back : BitVec 12) :
    exec (.svcEventLogRead back) s = Sys2Proof.Machine.execSvcEventLogRead back s := (rfl)
@[simp] theorem exec_svcMinVoltageRead (p : RailPoint) :
    exec (.svcMinVoltageRead p) s = Sys2Proof.Machine.execSvcMinVoltageRead p s := (rfl)
@[simp] theorem exec_svcCapLowering (cap : BitVec 16) :
    exec (.svcCapLowering cap) s = Sys2Proof.Machine.execSvcCapLowering cap s := (rfl)
@[simp] theorem exec_svcStop :
    exec (.svcStop) s = Sys2Proof.Machine.execSvcStop s := (rfl)
@[simp] theorem exec_svcPowerDown :
    exec (.svcPowerDown) s = Sys2Proof.Machine.execSvcPowerDown s := (rfl)
@[simp] theorem exec_svcAbruptReset (p : Part) :
    exec (.svcAbruptReset p) s = Sys2Proof.Machine.execSvcAbruptReset p s := (rfl)
@[simp] theorem exec_fieldIsolation (f : Field) :
    exec (.fieldIsolation f) s = Sys2Proof.Machine.execFieldIsolation f s := (rfl)
@[simp] theorem exec_salvageRead (a : BitVec 48) (n : Nat) :
    exec (.salvageRead a n) s = Sys2Proof.Machine.execSalvageRead a n s := (rfl)
@[simp] theorem exec_eventLogFlush :
    exec (.eventLogFlush) s = Sys2Proof.Machine.execEventLogFlush s := (rfl)
@[simp] theorem exec_fuseCommit (m : Master) :
    exec (.fuseCommit m) s = Sys2Proof.Machine.execFuseCommit m s := (rfl)
@[simp] theorem exec_firmwareRootChange (m : Master) (root : BitVec 384) :
    exec (.firmwareRootChange m root) s = Sys2Proof.Machine.execFirmwareRootChange m root s := (rfl)
@[simp] theorem exec_debugUnlock (m : Master) :
    exec (.debugUnlock m) s = Sys2Proof.Machine.execDebugUnlock m s := (rfl)
@[simp] theorem exec_coolantTripOverride (m : Master) :
    exec (.coolantTripOverride m) s = Sys2Proof.Machine.execCoolantTripOverride m s := (rfl)
@[simp] theorem exec_presenceConfirm (sealIntact : Bool) :
    exec (.presenceConfirm sealIntact) s = Sys2Proof.Machine.execPresenceConfirm sealIntact s := (rfl)
@[simp] theorem exec_presenceWindowExpiry :
    exec (.presenceWindowExpiry) s = Sys2Proof.Machine.execPresenceWindowExpiry s := (rfl)
@[simp] theorem exec_sealOpen :
    exec (.sealOpen) s = Sys2Proof.Machine.execSealOpen s := (rfl)
@[simp] theorem exec_overrideExpiry :
    exec (.overrideExpiry) s = Sys2Proof.Machine.execOverrideExpiry s := (rfl)
@[simp] theorem exec_dbgStop (m : Master) (t : Tile) :
    exec (.dbgStop m t) s = Sys2Proof.Machine.execDbgStop m t s := (rfl)
@[simp] theorem exec_dbgResume (m : Master) (t : Tile) :
    exec (.dbgResume m t) s = Sys2Proof.Machine.execDbgResume m t s := (rfl)
@[simp] theorem exec_dbgStep (m : Master) (t : Tile) :
    exec (.dbgStep m t) s = Sys2Proof.Machine.execDbgStep m t s := (rfl)
@[simp] theorem exec_breakpointHit (t : Tile) :
    exec (.breakpointHit t) s = Sys2Proof.Machine.execBreakpointHit t s := (rfl)
@[simp] theorem exec_getTid (e : Endpoint) :
    exec (.getTid e) s = Sys2Proof.Machine.execGetTid e s := (rfl)
@[simp] theorem exec_getPldmVersion (e : Endpoint) (ty : BitVec 6) :
    exec (.getPldmVersion e ty) s = Sys2Proof.Machine.execGetPldmVersion e ty s := (rfl)
@[simp] theorem exec_getPldmTypes (e : Endpoint) :
    exec (.getPldmTypes e) s = Sys2Proof.Machine.execGetPldmTypes e s := (rfl)
@[simp] theorem exec_getPldmCommands (e : Endpoint) (ty : BitVec 6) :
    exec (.getPldmCommands e ty) s = Sys2Proof.Machine.execGetPldmCommands e ty s := (rfl)
@[simp] theorem exec_numericSensorRead (e : Endpoint) (sensor : NumSensor) :
    exec (.numericSensorRead e sensor) s = Sys2Proof.Machine.execNumericSensorRead e sensor s := (rfl)
@[simp] theorem exec_stateSensorRead (e : Endpoint) (sensor : StateSensor) :
    exec (.stateSensorRead e sensor) s = Sys2Proof.Machine.execStateSensorRead e sensor s := (rfl)
@[simp] theorem exec_requestUpdate (e : Endpoint) :
    exec (.requestUpdate e) s = Sys2Proof.Machine.execRequestUpdate e s := (rfl)
@[simp] theorem exec_activateFirmware (e : Endpoint) (c : FwComponent) :
    exec (.activateFirmware e c) s = Sys2Proof.Machine.execActivateFirmware e c s := (rfl)
@[simp] theorem exec_eventLogFileRead (e : Endpoint) :
    exec (.eventLogFileRead e) s = Sys2Proof.Machine.execEventLogFileRead e s := (rfl)
@[simp] theorem exec_getDigests (e : Endpoint) :
    exec (.getDigests e) s = Sys2Proof.Machine.execGetDigests e s := (rfl)
@[simp] theorem exec_getCertificate (e : Endpoint) (slot : Nat) :
    exec (.getCertificate e slot) s = Sys2Proof.Machine.execGetCertificate e slot s := (rfl)
@[simp] theorem exec_challenge (e : Endpoint) (nonce : BitVec 256) :
    exec (.challenge e nonce) s = Sys2Proof.Machine.execChallenge e nonce s := (rfl)
@[simp] theorem exec_getMeasurements (e : Endpoint) (idx : Nat) (sign : Bool) :
    exec (.getMeasurements e idx sign) s = Sys2Proof.Machine.execGetMeasurements e idx sign s := (rfl)
@[simp] theorem exec_mbxGo (h : (Option HostPort)) :
    exec (.mbxGo h) s = Sys2Proof.Machine.execMbxGo h s := (rfl)
@[simp] theorem exec_mbxAbort (m : Master) :
    exec (.mbxAbort m) s = Sys2Proof.Machine.execMbxAbort m s := (rfl)
@[simp] theorem exec_svcBtnPress (ms : Nat) :
    exec (.svcBtnPress ms) s = Sys2Proof.Machine.execSvcBtnPress ms s := (rfl)
@[simp] theorem exec_svcBtnHold :
    exec (.svcBtnHold) s = Sys2Proof.Machine.execSvcBtnHold s := (rfl)
@[simp] theorem exec_readToClear (m : Master) (addr : BitVec 48) :
    exec (.readToClear m addr) s = Sys2Proof.Machine.execReadToClear m addr s := (rfl)
@[simp] theorem exec_ppsRestored :
    exec (.ppsRestored) s = Sys2Proof.Machine.execPpsRestored s := (rfl)
@[simp] theorem exec_mctpControlMessage (e : Endpoint) (eid : BitVec 8) :
    exec (.mctpControlMessage e eid) s = Sys2Proof.Machine.execMctpControlMessage e eid s := (rfl)
@[simp] theorem exec_entdaa (addr : BitVec 7) :
    exec (.entdaa addr) s = Sys2Proof.Machine.execEntdaa addr s := (rfl)

end Sys2Proof.Machine
end

