-- ==== Sys2Proof/Laws/Map.lean ====
section
/-!
SUPPORT. Laws of sparse maps and byte memories: a read after a write gives the value written, a write leaves every other
key alone, and every operation keeps the canonical form.
-/

namespace Sys2Proof.Machine

variable {α : Type}

theorem SMap.get_cons (d : Nat → α) (k' : Nat) (v : α) (m : SMap α) (k : Nat) :
    SMap.get d ((k', v) :: m) k = if k' = k then v else SMap.get d m k := rfl

/-- Every key is above b. -/
def SMap.above (b : Nat) (m : SMap α) : Prop := ∀ e ∈ m, b < e.1

theorem SMap.get_ins_same (d : Nat → α) (m : SMap α) (k : Nat) (v : α) : SMap.get d (m.ins k v) k = v := by
  induction m with
  | nil => simp [SMap.ins, SMap.get]
  | cons e r ih =>
    obtain ⟨k', v'⟩ := e
    unfold SMap.ins
    split
    · simp [SMap.get]
    · split
      · simp [SMap.get]
      · rename_i h1 h2
        simp only [SMap.get]
        rw [if_neg (fun h => h2 h.symm), ih]

theorem SMap.get_ins_other (d : Nat → α) (m : SMap α) (k j : Nat) (v : α) (h : j ≠ k) :
    SMap.get d (m.ins k v) j = SMap.get d m j := by
  induction m with
  | nil => simp [SMap.ins, SMap.get, Ne.symm h]
  | cons e r ih =>
    obtain ⟨k', v'⟩ := e
    unfold SMap.ins
    split
    · simp [SMap.get, Ne.symm h]
    · split
      · rename_i h2
        subst h2
        simp [SMap.get, Ne.symm h]
      · simp only [SMap.get, ih]

theorem SMap.get_del_same (d : Nat → α) (m : SMap α) (k : Nat) : SMap.get d (m.del k) k = d k := by
  induction m with
  | nil => rfl
  | cons e r ih =>
    obtain ⟨k', v'⟩ := e
    unfold SMap.del at *
    by_cases hk : k' = k <;> simp_all [SMap.get]

theorem SMap.get_del_other (d : Nat → α) (m : SMap α) (k j : Nat) (h : j ≠ k) :
    SMap.get d (m.del k) j = SMap.get d m j := by
  induction m with
  | nil => rfl
  | cons e r ih =>
    obtain ⟨k', v'⟩ := e
    unfold SMap.del at *
    by_cases hk : k' = k
    · subst hk
      simp_all [SMap.get, Ne.symm h]
    · simp_all [SMap.get]

theorem SMap.mem_ins {m : SMap α} {k : Nat} {v : α} {e : Nat × α} (h : e ∈ m.ins k v) : e = (k, v) ∨ e ∈ m := by
  induction m with
  | nil => simpa [SMap.ins] using h
  | cons f r ih =>
    obtain ⟨k', v'⟩ := f
    unfold SMap.ins at h
    split at h
    · simpa using h
    · split at h
      · rename_i hk
        subst hk
        rcases List.mem_cons.mp h with h | h
        · exact Or.inl h
        · exact Or.inr (List.mem_cons_of_mem _ h)
      · rcases List.mem_cons.mp h with h | h
        · exact Or.inr (h ▸ List.mem_cons_self)
        · exact (ih h).imp id (List.mem_cons_of_mem _)

variable [DecidableEq α]

/-- A read after a write to the same key gives the value written. -/
@[simp] theorem SMap.get_set_same (d : Nat → α) (m : SMap α) (k : Nat) (v : α) : SMap.get d (m.set d k v) k = v := by
  unfold SMap.set
  split
  · rename_i h
    rw [SMap.get_del_same, h]
  · exact SMap.get_ins_same d m k v

/-- A write leaves every other key alone. -/
theorem SMap.get_set_other (d : Nat → α) (m : SMap α) (k j : Nat) (v : α) (h : j ≠ k) :
    SMap.get d (m.set d k v) j = SMap.get d m j := by
  unfold SMap.set
  split
  · exact SMap.get_del_other d m k j h
  · exact SMap.get_ins_other d m k j v h

theorem SMap.get_set (d : Nat → α) (m : SMap α) (k j : Nat) (v : α) :
    SMap.get d (m.set d k v) j = if j = k then v else SMap.get d m j := by
  split
  · rename_i h
    rw [h, SMap.get_set_same]
  · exact SMap.get_set_other d m k j v ‹_›

/-! ## The canonical form -/

theorem SMap.wf_nil (d : Nat → α) : SMap.wf d ([] : SMap α) := ⟨List.Pairwise.nil, fun _ h => nomatch h⟩

theorem SMap.wf_ins {d : Nat → α} {m : SMap α} {k : Nat} {v : α} (h : SMap.wf d m) (hv : v ≠ d k) :
    SMap.wf d (m.ins k v) := by
  refine ⟨?_, fun e he => ?_⟩
  · have hp := h.1
    clear h
    induction m with
    | nil => simp [SMap.ins]
    | cons f r ih =>
      obtain ⟨k', v'⟩ := f
      have hr := List.pairwise_cons.mp hp
      unfold SMap.ins
      split
      · rename_i hk
        refine List.pairwise_cons.mpr ⟨fun a ha => ?_, hp⟩
        rcases List.mem_cons.mp ha with rfl | ha
        · exact hk
        · exact Nat.lt_trans hk (hr.1 a ha)
      · split
        · rename_i h2
          subst h2
          exact List.pairwise_cons.mpr ⟨hr.1, hr.2⟩
        · refine List.pairwise_cons.mpr ⟨fun a ha => ?_, ih hr.2⟩
          rcases SMap.mem_ins ha with rfl | ha
          · simp only
            omega
          · exact hr.1 a ha
  · rcases SMap.mem_ins he with rfl | he
    · exact hv
    · exact h.2 e he

theorem SMap.wf_filter {d : Nat → α} {m : SMap α} (h : SMap.wf d m) (p : Nat × α → Bool) : SMap.wf d (m.filter p) :=
  ⟨h.1.filter p, fun e he => h.2 e (List.mem_filter.mp he).1⟩

theorem SMap.wf_del {d : Nat → α} {m : SMap α} (h : SMap.wf d m) (k : Nat) : SMap.wf d (m.del k) := SMap.wf_filter h _

/-- A write keeps the canonical form. -/
theorem SMap.wf_set {d : Nat → α} {m : SMap α} (h : SMap.wf d m) (k : Nat) (v : α) : SMap.wf d (m.set d k v) := by
  unfold SMap.set
  split
  · exact SMap.wf_del h k
  · exact SMap.wf_ins h ‹_›

/-! ## Byte memories -/

@[simp] theorem Mem.read_write_same (m : List Host.Cell) (a : Nat) (b : Byte) : Mem.read (Mem.write m a b) a = b :=
  SMap.get_set_same blank m a b

theorem Mem.read_write_other (m : List Host.Cell) (a c : Nat) (b : Byte) (h : c ≠ a) :
    Mem.read (Mem.write m a b) c = Mem.read m c := SMap.get_set_other blank m a c b h

/-- A run of bytes written leaves every address outside it alone. -/
theorem Mem.read_writeN_outside (bs : Bytes) (m : List Host.Cell) (a c : Nat) (h : c < a ∨ a + bs.length ≤ c) :
    Mem.read (Mem.writeN m a bs) c = Mem.read m c := by
  induction bs generalizing m a with
  | nil => rfl
  | cons b bs ih =>
    simp only [List.length_cons] at h
    simp only [Mem.writeN]
    rw [ih _ _ (by omega), Mem.read_write_other _ _ _ _ (by omega)]

/-- A run of bytes reads back as written. -/
theorem Mem.read_writeN_inside (bs : Bytes) (m : List Host.Cell) (a i : Nat) (h : i < bs.length) :
    Mem.read (Mem.writeN m a bs) (a + i) = bs[i] := by
  induction bs generalizing m a i with
  | nil => exact absurd h (Nat.not_lt_zero i)
  | cons b bs ih =>
    simp only [Mem.writeN]
    cases i with
    | zero => rw [Nat.add_zero, Mem.read_writeN_outside _ _ _ _ (Or.inl (by omega))]; simp
    | succ i =>
      have := ih (Mem.write m a b) (a + 1) i (by simpa using h)
      rw [show a + (i + 1) = a + 1 + i by omega, this]
      simp

theorem Mem.readN_length (m : List Host.Cell) (a n : Nat) : (Mem.readN m a n).length = n := by
  induction n generalizing a with
  | zero => rfl
  | succ n ih => simp [Mem.readN, ih]

theorem Mem.readN_get (m : List Host.Cell) (a n i : Nat) (h : i < (Mem.readN m a n).length) :
    (Mem.readN m a n)[i] = Mem.read m (a + i) := by
  induction n generalizing a i with
  | zero => exact absurd h (Nat.not_lt_zero i)
  | succ n ih =>
    cases i with
    | zero => rfl
    | succ i =>
      simp only [Mem.readN, List.getElem_cons_succ]
      rw [ih, show a + 1 + i = a + (i + 1) by omega]

/-- What was written reads back. -/
theorem Mem.readN_writeN (m : List Host.Cell) (a : Nat) (bs : Bytes) : Mem.readN (Mem.writeN m a bs) a bs.length = bs := by
  apply List.ext_getElem
  · rw [Mem.readN_length]
  · intro i h1 h2
    rw [Mem.readN_get, Mem.read_writeN_inside _ _ _ _ h2]

theorem Mem.wf_nil : Memory.wf [] := SMap.wf_nil blank
theorem Mem.wf_write {m : List Host.Cell} (h : Memory.wf m) (a : Nat) (b : Byte) : Memory.wf (Mem.write m a b) :=
  SMap.wf_set h a b

theorem Mem.wf_writeN {m : List Host.Cell} (h : Memory.wf m) (a : Nat) (bs : Bytes) : Memory.wf (Mem.writeN m a bs) := by
  induction bs generalizing m a with
  | nil => exact h
  | cons b bs ih => exact ih (Mem.wf_write h a b) (a + 1)

theorem Mem.wf_writeLe {m : List Host.Cell} (h : Memory.wf m) (a n v : Nat) : Memory.wf (Mem.writeLe m a n v) :=
  Mem.wf_writeN h a _

theorem Mem.wf_writeMasked {m : List Host.Cell} (h : Memory.wf m) (a : Nat) (bs : List (Byte × Bool)) :
    Memory.wf (Mem.writeMasked m a bs) := by
  induction bs generalizing m a with
  | nil => exact h
  | cons e bs ih =>
    obtain ⟨b, v⟩ := e
    simp only [Mem.writeMasked]
    refine ih ?_ (a + 1)
    split
    · exact Mem.wf_write h a b
    · exact h

theorem Mem.wf_clear {m : List Host.Cell} (h : Memory.wf m) (a n : Nat) : Memory.wf (Mem.clear m a n) := SMap.wf_filter h _

theorem Mem.wf_paste {m : List Host.Cell} (h : Memory.wf m) (src : List Host.Cell) : Memory.wf (Mem.paste m src) := by
  unfold Mem.paste
  induction src generalizing m with
  | nil => exact h
  | cons c r ih => exact ih (Mem.wf_write h c.1 c.2)

theorem Mem.wf_copy {m : List Host.Cell} (h : Memory.wf m) (a b n : Nat) : Memory.wf (Mem.copy m a b n) :=
  Mem.wf_paste (Mem.wf_clear h b n) _

end Sys2Proof.Machine
end

