-- ==== Sys2Proof/Laws/State.lean ====
section
/-!
SUPPORT. Laws of State: what each primitive update leaves of each field and of each accessor, and that it reads back.
-/

namespace Sys2Proof.Machine

variable (s : State)

/-- Two states with the same fields are the same. -/
theorem State.ext_fields {a b : State} (h0 : a.pending = b.pending) (h1 : a.regs = b.regs) (h2 : a.cores = b.cores) (h3 : a.spares = b.spares) (h4 : a.wells = b.wells) (h5 : a.wellUe = b.wellUe) (h6 : a.wellCe = b.wellCe) (h7 : a.banks = b.banks) (h8 : a.fields = b.fields) (h9 : a.arbs = b.arbs) (h10 : a.weirs = b.weirs) (h11 : a.parts = b.parts) (h12 : a.ports = b.ports) (h13 : a.hub = b.hub) (h14 : a.gov = b.gov) (h15 : a.svc = b.svc) (h16 : a.tsclk = b.tsclk) (h17 : a.freeCtr = b.freeCtr) (h18 : a.out = b.out) : a = b := by
  cases a
  cases b
  simp_all

/-! ## Fields an update does not name -/

@[simp] theorem State.setReg_pending (a : Nat) (w : Word) : (s.setReg a w).pending = s.pending := (rfl)
@[simp] theorem State.setReg_cores (a : Nat) (w : Word) : (s.setReg a w).cores = s.cores := (rfl)
@[simp] theorem State.setReg_spares (a : Nat) (w : Word) : (s.setReg a w).spares = s.spares := (rfl)
@[simp] theorem State.setReg_wells (a : Nat) (w : Word) : (s.setReg a w).wells = s.wells := (rfl)
@[simp] theorem State.setReg_wellUe (a : Nat) (w : Word) : (s.setReg a w).wellUe = s.wellUe := (rfl)
@[simp] theorem State.setReg_wellCe (a : Nat) (w : Word) : (s.setReg a w).wellCe = s.wellCe := (rfl)
@[simp] theorem State.setReg_banks (a : Nat) (w : Word) : (s.setReg a w).banks = s.banks := (rfl)
@[simp] theorem State.setReg_fields (a : Nat) (w : Word) : (s.setReg a w).fields = s.fields := (rfl)
@[simp] theorem State.setReg_arbs (a : Nat) (w : Word) : (s.setReg a w).arbs = s.arbs := (rfl)
@[simp] theorem State.setReg_weirs (a : Nat) (w : Word) : (s.setReg a w).weirs = s.weirs := (rfl)
@[simp] theorem State.setReg_parts (a : Nat) (w : Word) : (s.setReg a w).parts = s.parts := (rfl)
@[simp] theorem State.setReg_ports (a : Nat) (w : Word) : (s.setReg a w).ports = s.ports := (rfl)
@[simp] theorem State.setReg_hub (a : Nat) (w : Word) : (s.setReg a w).hub = s.hub := (rfl)
@[simp] theorem State.setReg_gov (a : Nat) (w : Word) : (s.setReg a w).gov = s.gov := (rfl)
@[simp] theorem State.setReg_svc (a : Nat) (w : Word) : (s.setReg a w).svc = s.svc := (rfl)
@[simp] theorem State.setReg_tsclk (a : Nat) (w : Word) : (s.setReg a w).tsclk = s.tsclk := (rfl)
@[simp] theorem State.setReg_freeCtr (a : Nat) (w : Word) : (s.setReg a w).freeCtr = s.freeCtr := (rfl)
@[simp] theorem State.setReg_out (a : Nat) (w : Word) : (s.setReg a w).out = s.out := (rfl)
@[simp] theorem State.modReg_pending (a : Nat) (f : Word → Word) : (s.modReg a f).pending = s.pending := (rfl)
@[simp] theorem State.modReg_cores (a : Nat) (f : Word → Word) : (s.modReg a f).cores = s.cores := (rfl)
@[simp] theorem State.modReg_spares (a : Nat) (f : Word → Word) : (s.modReg a f).spares = s.spares := (rfl)
@[simp] theorem State.modReg_wells (a : Nat) (f : Word → Word) : (s.modReg a f).wells = s.wells := (rfl)
@[simp] theorem State.modReg_wellUe (a : Nat) (f : Word → Word) : (s.modReg a f).wellUe = s.wellUe := (rfl)
@[simp] theorem State.modReg_wellCe (a : Nat) (f : Word → Word) : (s.modReg a f).wellCe = s.wellCe := (rfl)
@[simp] theorem State.modReg_banks (a : Nat) (f : Word → Word) : (s.modReg a f).banks = s.banks := (rfl)
@[simp] theorem State.modReg_fields (a : Nat) (f : Word → Word) : (s.modReg a f).fields = s.fields := (rfl)
@[simp] theorem State.modReg_arbs (a : Nat) (f : Word → Word) : (s.modReg a f).arbs = s.arbs := (rfl)
@[simp] theorem State.modReg_weirs (a : Nat) (f : Word → Word) : (s.modReg a f).weirs = s.weirs := (rfl)
@[simp] theorem State.modReg_parts (a : Nat) (f : Word → Word) : (s.modReg a f).parts = s.parts := (rfl)
@[simp] theorem State.modReg_ports (a : Nat) (f : Word → Word) : (s.modReg a f).ports = s.ports := (rfl)
@[simp] theorem State.modReg_hub (a : Nat) (f : Word → Word) : (s.modReg a f).hub = s.hub := (rfl)
@[simp] theorem State.modReg_gov (a : Nat) (f : Word → Word) : (s.modReg a f).gov = s.gov := (rfl)
@[simp] theorem State.modReg_svc (a : Nat) (f : Word → Word) : (s.modReg a f).svc = s.svc := (rfl)
@[simp] theorem State.modReg_tsclk (a : Nat) (f : Word → Word) : (s.modReg a f).tsclk = s.tsclk := (rfl)
@[simp] theorem State.modReg_freeCtr (a : Nat) (f : Word → Word) : (s.modReg a f).freeCtr = s.freeCtr := (rfl)
@[simp] theorem State.modReg_out (a : Nat) (f : Word → Word) : (s.modReg a f).out = s.out := (rfl)
@[simp] theorem State.count_pending (a n : Nat) : (s.count a n).pending = s.pending := (rfl)
@[simp] theorem State.count_cores (a n : Nat) : (s.count a n).cores = s.cores := (rfl)
@[simp] theorem State.count_spares (a n : Nat) : (s.count a n).spares = s.spares := (rfl)
@[simp] theorem State.count_wells (a n : Nat) : (s.count a n).wells = s.wells := (rfl)
@[simp] theorem State.count_wellUe (a n : Nat) : (s.count a n).wellUe = s.wellUe := (rfl)
@[simp] theorem State.count_wellCe (a n : Nat) : (s.count a n).wellCe = s.wellCe := (rfl)
@[simp] theorem State.count_banks (a n : Nat) : (s.count a n).banks = s.banks := (rfl)
@[simp] theorem State.count_fields (a n : Nat) : (s.count a n).fields = s.fields := (rfl)
@[simp] theorem State.count_arbs (a n : Nat) : (s.count a n).arbs = s.arbs := (rfl)
@[simp] theorem State.count_weirs (a n : Nat) : (s.count a n).weirs = s.weirs := (rfl)
@[simp] theorem State.count_parts (a n : Nat) : (s.count a n).parts = s.parts := (rfl)
@[simp] theorem State.count_ports (a n : Nat) : (s.count a n).ports = s.ports := (rfl)
@[simp] theorem State.count_hub (a n : Nat) : (s.count a n).hub = s.hub := (rfl)
@[simp] theorem State.count_gov (a n : Nat) : (s.count a n).gov = s.gov := (rfl)
@[simp] theorem State.count_svc (a n : Nat) : (s.count a n).svc = s.svc := (rfl)
@[simp] theorem State.count_tsclk (a n : Nat) : (s.count a n).tsclk = s.tsclk := (rfl)
@[simp] theorem State.count_freeCtr (a n : Nat) : (s.count a n).freeCtr = s.freeCtr := (rfl)
@[simp] theorem State.count_out (a n : Nat) : (s.count a n).out = s.out := (rfl)
@[simp] theorem State.setRbit_pending (a i : Nat) (b : Bool) : (s.setRbit a i b).pending = s.pending := (rfl)
@[simp] theorem State.setRbit_cores (a i : Nat) (b : Bool) : (s.setRbit a i b).cores = s.cores := (rfl)
@[simp] theorem State.setRbit_spares (a i : Nat) (b : Bool) : (s.setRbit a i b).spares = s.spares := (rfl)
@[simp] theorem State.setRbit_wells (a i : Nat) (b : Bool) : (s.setRbit a i b).wells = s.wells := (rfl)
@[simp] theorem State.setRbit_wellUe (a i : Nat) (b : Bool) : (s.setRbit a i b).wellUe = s.wellUe := (rfl)
@[simp] theorem State.setRbit_wellCe (a i : Nat) (b : Bool) : (s.setRbit a i b).wellCe = s.wellCe := (rfl)
@[simp] theorem State.setRbit_banks (a i : Nat) (b : Bool) : (s.setRbit a i b).banks = s.banks := (rfl)
@[simp] theorem State.setRbit_fields (a i : Nat) (b : Bool) : (s.setRbit a i b).fields = s.fields := (rfl)
@[simp] theorem State.setRbit_arbs (a i : Nat) (b : Bool) : (s.setRbit a i b).arbs = s.arbs := (rfl)
@[simp] theorem State.setRbit_weirs (a i : Nat) (b : Bool) : (s.setRbit a i b).weirs = s.weirs := (rfl)
@[simp] theorem State.setRbit_parts (a i : Nat) (b : Bool) : (s.setRbit a i b).parts = s.parts := (rfl)
@[simp] theorem State.setRbit_ports (a i : Nat) (b : Bool) : (s.setRbit a i b).ports = s.ports := (rfl)
@[simp] theorem State.setRbit_hub (a i : Nat) (b : Bool) : (s.setRbit a i b).hub = s.hub := (rfl)
@[simp] theorem State.setRbit_gov (a i : Nat) (b : Bool) : (s.setRbit a i b).gov = s.gov := (rfl)
@[simp] theorem State.setRbit_svc (a i : Nat) (b : Bool) : (s.setRbit a i b).svc = s.svc := (rfl)
@[simp] theorem State.setRbit_tsclk (a i : Nat) (b : Bool) : (s.setRbit a i b).tsclk = s.tsclk := (rfl)
@[simp] theorem State.setRbit_freeCtr (a i : Nat) (b : Bool) : (s.setRbit a i b).freeCtr = s.freeCtr := (rfl)
@[simp] theorem State.setRbit_out (a i : Nat) (b : Bool) : (s.setRbit a i b).out = s.out := (rfl)
@[simp] theorem State.setCore_pending (t : Tile) (c : TileCore) : (s.setCore t c).pending = s.pending := (rfl)
@[simp] theorem State.setCore_regs (t : Tile) (c : TileCore) : (s.setCore t c).regs = s.regs := (rfl)
@[simp] theorem State.setCore_spares (t : Tile) (c : TileCore) : (s.setCore t c).spares = s.spares := (rfl)
@[simp] theorem State.setCore_wells (t : Tile) (c : TileCore) : (s.setCore t c).wells = s.wells := (rfl)
@[simp] theorem State.setCore_wellUe (t : Tile) (c : TileCore) : (s.setCore t c).wellUe = s.wellUe := (rfl)
@[simp] theorem State.setCore_wellCe (t : Tile) (c : TileCore) : (s.setCore t c).wellCe = s.wellCe := (rfl)
@[simp] theorem State.setCore_banks (t : Tile) (c : TileCore) : (s.setCore t c).banks = s.banks := (rfl)
@[simp] theorem State.setCore_fields (t : Tile) (c : TileCore) : (s.setCore t c).fields = s.fields := (rfl)
@[simp] theorem State.setCore_arbs (t : Tile) (c : TileCore) : (s.setCore t c).arbs = s.arbs := (rfl)
@[simp] theorem State.setCore_weirs (t : Tile) (c : TileCore) : (s.setCore t c).weirs = s.weirs := (rfl)
@[simp] theorem State.setCore_parts (t : Tile) (c : TileCore) : (s.setCore t c).parts = s.parts := (rfl)
@[simp] theorem State.setCore_ports (t : Tile) (c : TileCore) : (s.setCore t c).ports = s.ports := (rfl)
@[simp] theorem State.setCore_hub (t : Tile) (c : TileCore) : (s.setCore t c).hub = s.hub := (rfl)
@[simp] theorem State.setCore_gov (t : Tile) (c : TileCore) : (s.setCore t c).gov = s.gov := (rfl)
@[simp] theorem State.setCore_svc (t : Tile) (c : TileCore) : (s.setCore t c).svc = s.svc := (rfl)
@[simp] theorem State.setCore_tsclk (t : Tile) (c : TileCore) : (s.setCore t c).tsclk = s.tsclk := (rfl)
@[simp] theorem State.setCore_freeCtr (t : Tile) (c : TileCore) : (s.setCore t c).freeCtr = s.freeCtr := (rfl)
@[simp] theorem State.setCore_out (t : Tile) (c : TileCore) : (s.setCore t c).out = s.out := (rfl)
@[simp] theorem State.modCore_pending (t : Tile) (f : TileCore → TileCore) : (s.modCore t f).pending = s.pending := (rfl)
@[simp] theorem State.modCore_regs (t : Tile) (f : TileCore → TileCore) : (s.modCore t f).regs = s.regs := (rfl)
@[simp] theorem State.modCore_spares (t : Tile) (f : TileCore → TileCore) : (s.modCore t f).spares = s.spares := (rfl)
@[simp] theorem State.modCore_wells (t : Tile) (f : TileCore → TileCore) : (s.modCore t f).wells = s.wells := (rfl)
@[simp] theorem State.modCore_wellUe (t : Tile) (f : TileCore → TileCore) : (s.modCore t f).wellUe = s.wellUe := (rfl)
@[simp] theorem State.modCore_wellCe (t : Tile) (f : TileCore → TileCore) : (s.modCore t f).wellCe = s.wellCe := (rfl)
@[simp] theorem State.modCore_banks (t : Tile) (f : TileCore → TileCore) : (s.modCore t f).banks = s.banks := (rfl)
@[simp] theorem State.modCore_fields (t : Tile) (f : TileCore → TileCore) : (s.modCore t f).fields = s.fields := (rfl)
@[simp] theorem State.modCore_arbs (t : Tile) (f : TileCore → TileCore) : (s.modCore t f).arbs = s.arbs := (rfl)
@[simp] theorem State.modCore_weirs (t : Tile) (f : TileCore → TileCore) : (s.modCore t f).weirs = s.weirs := (rfl)
@[simp] theorem State.modCore_parts (t : Tile) (f : TileCore → TileCore) : (s.modCore t f).parts = s.parts := (rfl)
@[simp] theorem State.modCore_ports (t : Tile) (f : TileCore → TileCore) : (s.modCore t f).ports = s.ports := (rfl)
@[simp] theorem State.modCore_hub (t : Tile) (f : TileCore → TileCore) : (s.modCore t f).hub = s.hub := (rfl)
@[simp] theorem State.modCore_gov (t : Tile) (f : TileCore → TileCore) : (s.modCore t f).gov = s.gov := (rfl)
@[simp] theorem State.modCore_svc (t : Tile) (f : TileCore → TileCore) : (s.modCore t f).svc = s.svc := (rfl)
@[simp] theorem State.modCore_tsclk (t : Tile) (f : TileCore → TileCore) : (s.modCore t f).tsclk = s.tsclk := (rfl)
@[simp] theorem State.modCore_freeCtr (t : Tile) (f : TileCore → TileCore) : (s.modCore t f).freeCtr = s.freeCtr := (rfl)
@[simp] theorem State.modCore_out (t : Tile) (f : TileCore → TileCore) : (s.modCore t f).out = s.out := (rfl)
@[simp] theorem State.modSeq_pending (t : Tile) (f : SeqSt → SeqSt) : (s.modSeq t f).pending = s.pending := (rfl)
@[simp] theorem State.modSeq_regs (t : Tile) (f : SeqSt → SeqSt) : (s.modSeq t f).regs = s.regs := (rfl)
@[simp] theorem State.modSeq_spares (t : Tile) (f : SeqSt → SeqSt) : (s.modSeq t f).spares = s.spares := (rfl)
@[simp] theorem State.modSeq_wells (t : Tile) (f : SeqSt → SeqSt) : (s.modSeq t f).wells = s.wells := (rfl)
@[simp] theorem State.modSeq_wellUe (t : Tile) (f : SeqSt → SeqSt) : (s.modSeq t f).wellUe = s.wellUe := (rfl)
@[simp] theorem State.modSeq_wellCe (t : Tile) (f : SeqSt → SeqSt) : (s.modSeq t f).wellCe = s.wellCe := (rfl)
@[simp] theorem State.modSeq_banks (t : Tile) (f : SeqSt → SeqSt) : (s.modSeq t f).banks = s.banks := (rfl)
@[simp] theorem State.modSeq_fields (t : Tile) (f : SeqSt → SeqSt) : (s.modSeq t f).fields = s.fields := (rfl)
@[simp] theorem State.modSeq_arbs (t : Tile) (f : SeqSt → SeqSt) : (s.modSeq t f).arbs = s.arbs := (rfl)
@[simp] theorem State.modSeq_weirs (t : Tile) (f : SeqSt → SeqSt) : (s.modSeq t f).weirs = s.weirs := (rfl)
@[simp] theorem State.modSeq_parts (t : Tile) (f : SeqSt → SeqSt) : (s.modSeq t f).parts = s.parts := (rfl)
@[simp] theorem State.modSeq_ports (t : Tile) (f : SeqSt → SeqSt) : (s.modSeq t f).ports = s.ports := (rfl)
@[simp] theorem State.modSeq_hub (t : Tile) (f : SeqSt → SeqSt) : (s.modSeq t f).hub = s.hub := (rfl)
@[simp] theorem State.modSeq_gov (t : Tile) (f : SeqSt → SeqSt) : (s.modSeq t f).gov = s.gov := (rfl)
@[simp] theorem State.modSeq_svc (t : Tile) (f : SeqSt → SeqSt) : (s.modSeq t f).svc = s.svc := (rfl)
@[simp] theorem State.modSeq_tsclk (t : Tile) (f : SeqSt → SeqSt) : (s.modSeq t f).tsclk = s.tsclk := (rfl)
@[simp] theorem State.modSeq_freeCtr (t : Tile) (f : SeqSt → SeqSt) : (s.modSeq t f).freeCtr = s.freeCtr := (rfl)
@[simp] theorem State.modSeq_out (t : Tile) (f : SeqSt → SeqSt) : (s.modSeq t f).out = s.out := (rfl)
@[simp] theorem State.modArr_pending (t : Tile) (f : ArrSt → ArrSt) : (s.modArr t f).pending = s.pending := (rfl)
@[simp] theorem State.modArr_regs (t : Tile) (f : ArrSt → ArrSt) : (s.modArr t f).regs = s.regs := (rfl)
@[simp] theorem State.modArr_spares (t : Tile) (f : ArrSt → ArrSt) : (s.modArr t f).spares = s.spares := (rfl)
@[simp] theorem State.modArr_wells (t : Tile) (f : ArrSt → ArrSt) : (s.modArr t f).wells = s.wells := (rfl)
@[simp] theorem State.modArr_wellUe (t : Tile) (f : ArrSt → ArrSt) : (s.modArr t f).wellUe = s.wellUe := (rfl)
@[simp] theorem State.modArr_wellCe (t : Tile) (f : ArrSt → ArrSt) : (s.modArr t f).wellCe = s.wellCe := (rfl)
@[simp] theorem State.modArr_banks (t : Tile) (f : ArrSt → ArrSt) : (s.modArr t f).banks = s.banks := (rfl)
@[simp] theorem State.modArr_fields (t : Tile) (f : ArrSt → ArrSt) : (s.modArr t f).fields = s.fields := (rfl)
@[simp] theorem State.modArr_arbs (t : Tile) (f : ArrSt → ArrSt) : (s.modArr t f).arbs = s.arbs := (rfl)
@[simp] theorem State.modArr_weirs (t : Tile) (f : ArrSt → ArrSt) : (s.modArr t f).weirs = s.weirs := (rfl)
@[simp] theorem State.modArr_parts (t : Tile) (f : ArrSt → ArrSt) : (s.modArr t f).parts = s.parts := (rfl)
@[simp] theorem State.modArr_ports (t : Tile) (f : ArrSt → ArrSt) : (s.modArr t f).ports = s.ports := (rfl)
@[simp] theorem State.modArr_hub (t : Tile) (f : ArrSt → ArrSt) : (s.modArr t f).hub = s.hub := (rfl)
@[simp] theorem State.modArr_gov (t : Tile) (f : ArrSt → ArrSt) : (s.modArr t f).gov = s.gov := (rfl)
@[simp] theorem State.modArr_svc (t : Tile) (f : ArrSt → ArrSt) : (s.modArr t f).svc = s.svc := (rfl)
@[simp] theorem State.modArr_tsclk (t : Tile) (f : ArrSt → ArrSt) : (s.modArr t f).tsclk = s.tsclk := (rfl)
@[simp] theorem State.modArr_freeCtr (t : Tile) (f : ArrSt → ArrSt) : (s.modArr t f).freeCtr = s.freeCtr := (rfl)
@[simp] theorem State.modArr_out (t : Tile) (f : ArrSt → ArrSt) : (s.modArr t f).out = s.out := (rfl)
@[simp] theorem State.modVec_pending (t : Tile) (f : VecSt → VecSt) : (s.modVec t f).pending = s.pending := (rfl)
@[simp] theorem State.modVec_regs (t : Tile) (f : VecSt → VecSt) : (s.modVec t f).regs = s.regs := (rfl)
@[simp] theorem State.modVec_spares (t : Tile) (f : VecSt → VecSt) : (s.modVec t f).spares = s.spares := (rfl)
@[simp] theorem State.modVec_wells (t : Tile) (f : VecSt → VecSt) : (s.modVec t f).wells = s.wells := (rfl)
@[simp] theorem State.modVec_wellUe (t : Tile) (f : VecSt → VecSt) : (s.modVec t f).wellUe = s.wellUe := (rfl)
@[simp] theorem State.modVec_wellCe (t : Tile) (f : VecSt → VecSt) : (s.modVec t f).wellCe = s.wellCe := (rfl)
@[simp] theorem State.modVec_banks (t : Tile) (f : VecSt → VecSt) : (s.modVec t f).banks = s.banks := (rfl)
@[simp] theorem State.modVec_fields (t : Tile) (f : VecSt → VecSt) : (s.modVec t f).fields = s.fields := (rfl)
@[simp] theorem State.modVec_arbs (t : Tile) (f : VecSt → VecSt) : (s.modVec t f).arbs = s.arbs := (rfl)
@[simp] theorem State.modVec_weirs (t : Tile) (f : VecSt → VecSt) : (s.modVec t f).weirs = s.weirs := (rfl)
@[simp] theorem State.modVec_parts (t : Tile) (f : VecSt → VecSt) : (s.modVec t f).parts = s.parts := (rfl)
@[simp] theorem State.modVec_ports (t : Tile) (f : VecSt → VecSt) : (s.modVec t f).ports = s.ports := (rfl)
@[simp] theorem State.modVec_hub (t : Tile) (f : VecSt → VecSt) : (s.modVec t f).hub = s.hub := (rfl)
@[simp] theorem State.modVec_gov (t : Tile) (f : VecSt → VecSt) : (s.modVec t f).gov = s.gov := (rfl)
@[simp] theorem State.modVec_svc (t : Tile) (f : VecSt → VecSt) : (s.modVec t f).svc = s.svc := (rfl)
@[simp] theorem State.modVec_tsclk (t : Tile) (f : VecSt → VecSt) : (s.modVec t f).tsclk = s.tsclk := (rfl)
@[simp] theorem State.modVec_freeCtr (t : Tile) (f : VecSt → VecSt) : (s.modVec t f).freeCtr = s.freeCtr := (rfl)
@[simp] theorem State.modVec_out (t : Tile) (f : VecSt → VecSt) : (s.modVec t f).out = s.out := (rfl)
@[simp] theorem State.modMem_pending (t : Tile) (f : MemSt → MemSt) : (s.modMem t f).pending = s.pending := (rfl)
@[simp] theorem State.modMem_regs (t : Tile) (f : MemSt → MemSt) : (s.modMem t f).regs = s.regs := (rfl)
@[simp] theorem State.modMem_spares (t : Tile) (f : MemSt → MemSt) : (s.modMem t f).spares = s.spares := (rfl)
@[simp] theorem State.modMem_wells (t : Tile) (f : MemSt → MemSt) : (s.modMem t f).wells = s.wells := (rfl)
@[simp] theorem State.modMem_wellUe (t : Tile) (f : MemSt → MemSt) : (s.modMem t f).wellUe = s.wellUe := (rfl)
@[simp] theorem State.modMem_wellCe (t : Tile) (f : MemSt → MemSt) : (s.modMem t f).wellCe = s.wellCe := (rfl)
@[simp] theorem State.modMem_banks (t : Tile) (f : MemSt → MemSt) : (s.modMem t f).banks = s.banks := (rfl)
@[simp] theorem State.modMem_fields (t : Tile) (f : MemSt → MemSt) : (s.modMem t f).fields = s.fields := (rfl)
@[simp] theorem State.modMem_arbs (t : Tile) (f : MemSt → MemSt) : (s.modMem t f).arbs = s.arbs := (rfl)
@[simp] theorem State.modMem_weirs (t : Tile) (f : MemSt → MemSt) : (s.modMem t f).weirs = s.weirs := (rfl)
@[simp] theorem State.modMem_parts (t : Tile) (f : MemSt → MemSt) : (s.modMem t f).parts = s.parts := (rfl)
@[simp] theorem State.modMem_ports (t : Tile) (f : MemSt → MemSt) : (s.modMem t f).ports = s.ports := (rfl)
@[simp] theorem State.modMem_hub (t : Tile) (f : MemSt → MemSt) : (s.modMem t f).hub = s.hub := (rfl)
@[simp] theorem State.modMem_gov (t : Tile) (f : MemSt → MemSt) : (s.modMem t f).gov = s.gov := (rfl)
@[simp] theorem State.modMem_svc (t : Tile) (f : MemSt → MemSt) : (s.modMem t f).svc = s.svc := (rfl)
@[simp] theorem State.modMem_tsclk (t : Tile) (f : MemSt → MemSt) : (s.modMem t f).tsclk = s.tsclk := (rfl)
@[simp] theorem State.modMem_freeCtr (t : Tile) (f : MemSt → MemSt) : (s.modMem t f).freeCtr = s.freeCtr := (rfl)
@[simp] theorem State.modMem_out (t : Tile) (f : MemSt → MemSt) : (s.modMem t f).out = s.out := (rfl)
@[simp] theorem State.setG_pending (t : Tile) (r : GReg) (w : Word) : (s.setG t r w).pending = s.pending := (rfl)
@[simp] theorem State.setG_regs (t : Tile) (r : GReg) (w : Word) : (s.setG t r w).regs = s.regs := (rfl)
@[simp] theorem State.setG_spares (t : Tile) (r : GReg) (w : Word) : (s.setG t r w).spares = s.spares := (rfl)
@[simp] theorem State.setG_wells (t : Tile) (r : GReg) (w : Word) : (s.setG t r w).wells = s.wells := (rfl)
@[simp] theorem State.setG_wellUe (t : Tile) (r : GReg) (w : Word) : (s.setG t r w).wellUe = s.wellUe := (rfl)
@[simp] theorem State.setG_wellCe (t : Tile) (r : GReg) (w : Word) : (s.setG t r w).wellCe = s.wellCe := (rfl)
@[simp] theorem State.setG_banks (t : Tile) (r : GReg) (w : Word) : (s.setG t r w).banks = s.banks := (rfl)
@[simp] theorem State.setG_fields (t : Tile) (r : GReg) (w : Word) : (s.setG t r w).fields = s.fields := (rfl)
@[simp] theorem State.setG_arbs (t : Tile) (r : GReg) (w : Word) : (s.setG t r w).arbs = s.arbs := (rfl)
@[simp] theorem State.setG_weirs (t : Tile) (r : GReg) (w : Word) : (s.setG t r w).weirs = s.weirs := (rfl)
@[simp] theorem State.setG_parts (t : Tile) (r : GReg) (w : Word) : (s.setG t r w).parts = s.parts := (rfl)
@[simp] theorem State.setG_ports (t : Tile) (r : GReg) (w : Word) : (s.setG t r w).ports = s.ports := (rfl)
@[simp] theorem State.setG_hub (t : Tile) (r : GReg) (w : Word) : (s.setG t r w).hub = s.hub := (rfl)
@[simp] theorem State.setG_gov (t : Tile) (r : GReg) (w : Word) : (s.setG t r w).gov = s.gov := (rfl)
@[simp] theorem State.setG_svc (t : Tile) (r : GReg) (w : Word) : (s.setG t r w).svc = s.svc := (rfl)
@[simp] theorem State.setG_tsclk (t : Tile) (r : GReg) (w : Word) : (s.setG t r w).tsclk = s.tsclk := (rfl)
@[simp] theorem State.setG_freeCtr (t : Tile) (r : GReg) (w : Word) : (s.setG t r w).freeCtr = s.freeCtr := (rfl)
@[simp] theorem State.setG_out (t : Tile) (r : GReg) (w : Word) : (s.setG t r w).out = s.out := (rfl)
@[simp] theorem State.setV_pending (t : Tile) (r : VReg) (w : VWord) : (s.setV t r w).pending = s.pending := (rfl)
@[simp] theorem State.setV_regs (t : Tile) (r : VReg) (w : VWord) : (s.setV t r w).regs = s.regs := (rfl)
@[simp] theorem State.setV_spares (t : Tile) (r : VReg) (w : VWord) : (s.setV t r w).spares = s.spares := (rfl)
@[simp] theorem State.setV_wells (t : Tile) (r : VReg) (w : VWord) : (s.setV t r w).wells = s.wells := (rfl)
@[simp] theorem State.setV_wellUe (t : Tile) (r : VReg) (w : VWord) : (s.setV t r w).wellUe = s.wellUe := (rfl)
@[simp] theorem State.setV_wellCe (t : Tile) (r : VReg) (w : VWord) : (s.setV t r w).wellCe = s.wellCe := (rfl)
@[simp] theorem State.setV_banks (t : Tile) (r : VReg) (w : VWord) : (s.setV t r w).banks = s.banks := (rfl)
@[simp] theorem State.setV_fields (t : Tile) (r : VReg) (w : VWord) : (s.setV t r w).fields = s.fields := (rfl)
@[simp] theorem State.setV_arbs (t : Tile) (r : VReg) (w : VWord) : (s.setV t r w).arbs = s.arbs := (rfl)
@[simp] theorem State.setV_weirs (t : Tile) (r : VReg) (w : VWord) : (s.setV t r w).weirs = s.weirs := (rfl)
@[simp] theorem State.setV_parts (t : Tile) (r : VReg) (w : VWord) : (s.setV t r w).parts = s.parts := (rfl)
@[simp] theorem State.setV_ports (t : Tile) (r : VReg) (w : VWord) : (s.setV t r w).ports = s.ports := (rfl)
@[simp] theorem State.setV_hub (t : Tile) (r : VReg) (w : VWord) : (s.setV t r w).hub = s.hub := (rfl)
@[simp] theorem State.setV_gov (t : Tile) (r : VReg) (w : VWord) : (s.setV t r w).gov = s.gov := (rfl)
@[simp] theorem State.setV_svc (t : Tile) (r : VReg) (w : VWord) : (s.setV t r w).svc = s.svc := (rfl)
@[simp] theorem State.setV_tsclk (t : Tile) (r : VReg) (w : VWord) : (s.setV t r w).tsclk = s.tsclk := (rfl)
@[simp] theorem State.setV_freeCtr (t : Tile) (r : VReg) (w : VWord) : (s.setV t r w).freeCtr = s.freeCtr := (rfl)
@[simp] theorem State.setV_out (t : Tile) (r : VReg) (w : VWord) : (s.setV t r w).out = s.out := (rfl)
@[simp] theorem State.modFld_pending (f : Field) (g : FieldSt → FieldSt) : (s.modFld f g).pending = s.pending := (rfl)
@[simp] theorem State.modFld_regs (f : Field) (g : FieldSt → FieldSt) : (s.modFld f g).regs = s.regs := (rfl)
@[simp] theorem State.modFld_cores (f : Field) (g : FieldSt → FieldSt) : (s.modFld f g).cores = s.cores := (rfl)
@[simp] theorem State.modFld_spares (f : Field) (g : FieldSt → FieldSt) : (s.modFld f g).spares = s.spares := (rfl)
@[simp] theorem State.modFld_wells (f : Field) (g : FieldSt → FieldSt) : (s.modFld f g).wells = s.wells := (rfl)
@[simp] theorem State.modFld_wellUe (f : Field) (g : FieldSt → FieldSt) : (s.modFld f g).wellUe = s.wellUe := (rfl)
@[simp] theorem State.modFld_wellCe (f : Field) (g : FieldSt → FieldSt) : (s.modFld f g).wellCe = s.wellCe := (rfl)
@[simp] theorem State.modFld_banks (f : Field) (g : FieldSt → FieldSt) : (s.modFld f g).banks = s.banks := (rfl)
@[simp] theorem State.modFld_arbs (f : Field) (g : FieldSt → FieldSt) : (s.modFld f g).arbs = s.arbs := (rfl)
@[simp] theorem State.modFld_weirs (f : Field) (g : FieldSt → FieldSt) : (s.modFld f g).weirs = s.weirs := (rfl)
@[simp] theorem State.modFld_parts (f : Field) (g : FieldSt → FieldSt) : (s.modFld f g).parts = s.parts := (rfl)
@[simp] theorem State.modFld_ports (f : Field) (g : FieldSt → FieldSt) : (s.modFld f g).ports = s.ports := (rfl)
@[simp] theorem State.modFld_hub (f : Field) (g : FieldSt → FieldSt) : (s.modFld f g).hub = s.hub := (rfl)
@[simp] theorem State.modFld_gov (f : Field) (g : FieldSt → FieldSt) : (s.modFld f g).gov = s.gov := (rfl)
@[simp] theorem State.modFld_svc (f : Field) (g : FieldSt → FieldSt) : (s.modFld f g).svc = s.svc := (rfl)
@[simp] theorem State.modFld_tsclk (f : Field) (g : FieldSt → FieldSt) : (s.modFld f g).tsclk = s.tsclk := (rfl)
@[simp] theorem State.modFld_freeCtr (f : Field) (g : FieldSt → FieldSt) : (s.modFld f g).freeCtr = s.freeCtr := (rfl)
@[simp] theorem State.modFld_out (f : Field) (g : FieldSt → FieldSt) : (s.modFld f g).out = s.out := (rfl)
@[simp] theorem State.modPart_pending (p : Part) (g : PartSt → PartSt) : (s.modPart p g).pending = s.pending := (rfl)
@[simp] theorem State.modPart_regs (p : Part) (g : PartSt → PartSt) : (s.modPart p g).regs = s.regs := (rfl)
@[simp] theorem State.modPart_cores (p : Part) (g : PartSt → PartSt) : (s.modPart p g).cores = s.cores := (rfl)
@[simp] theorem State.modPart_spares (p : Part) (g : PartSt → PartSt) : (s.modPart p g).spares = s.spares := (rfl)
@[simp] theorem State.modPart_wells (p : Part) (g : PartSt → PartSt) : (s.modPart p g).wells = s.wells := (rfl)
@[simp] theorem State.modPart_wellUe (p : Part) (g : PartSt → PartSt) : (s.modPart p g).wellUe = s.wellUe := (rfl)
@[simp] theorem State.modPart_wellCe (p : Part) (g : PartSt → PartSt) : (s.modPart p g).wellCe = s.wellCe := (rfl)
@[simp] theorem State.modPart_banks (p : Part) (g : PartSt → PartSt) : (s.modPart p g).banks = s.banks := (rfl)
@[simp] theorem State.modPart_fields (p : Part) (g : PartSt → PartSt) : (s.modPart p g).fields = s.fields := (rfl)
@[simp] theorem State.modPart_arbs (p : Part) (g : PartSt → PartSt) : (s.modPart p g).arbs = s.arbs := (rfl)
@[simp] theorem State.modPart_weirs (p : Part) (g : PartSt → PartSt) : (s.modPart p g).weirs = s.weirs := (rfl)
@[simp] theorem State.modPart_ports (p : Part) (g : PartSt → PartSt) : (s.modPart p g).ports = s.ports := (rfl)
@[simp] theorem State.modPart_hub (p : Part) (g : PartSt → PartSt) : (s.modPart p g).hub = s.hub := (rfl)
@[simp] theorem State.modPart_gov (p : Part) (g : PartSt → PartSt) : (s.modPart p g).gov = s.gov := (rfl)
@[simp] theorem State.modPart_svc (p : Part) (g : PartSt → PartSt) : (s.modPart p g).svc = s.svc := (rfl)
@[simp] theorem State.modPart_tsclk (p : Part) (g : PartSt → PartSt) : (s.modPart p g).tsclk = s.tsclk := (rfl)
@[simp] theorem State.modPart_freeCtr (p : Part) (g : PartSt → PartSt) : (s.modPart p g).freeCtr = s.freeCtr := (rfl)
@[simp] theorem State.modPart_out (p : Part) (g : PartSt → PartSt) : (s.modPart p g).out = s.out := (rfl)
@[simp] theorem State.modPort_pending (y : Port) (g : PortSt → PortSt) : (s.modPort y g).pending = s.pending := (rfl)
@[simp] theorem State.modPort_regs (y : Port) (g : PortSt → PortSt) : (s.modPort y g).regs = s.regs := (rfl)
@[simp] theorem State.modPort_cores (y : Port) (g : PortSt → PortSt) : (s.modPort y g).cores = s.cores := (rfl)
@[simp] theorem State.modPort_spares (y : Port) (g : PortSt → PortSt) : (s.modPort y g).spares = s.spares := (rfl)
@[simp] theorem State.modPort_wells (y : Port) (g : PortSt → PortSt) : (s.modPort y g).wells = s.wells := (rfl)
@[simp] theorem State.modPort_wellUe (y : Port) (g : PortSt → PortSt) : (s.modPort y g).wellUe = s.wellUe := (rfl)
@[simp] theorem State.modPort_wellCe (y : Port) (g : PortSt → PortSt) : (s.modPort y g).wellCe = s.wellCe := (rfl)
@[simp] theorem State.modPort_banks (y : Port) (g : PortSt → PortSt) : (s.modPort y g).banks = s.banks := (rfl)
@[simp] theorem State.modPort_fields (y : Port) (g : PortSt → PortSt) : (s.modPort y g).fields = s.fields := (rfl)
@[simp] theorem State.modPort_arbs (y : Port) (g : PortSt → PortSt) : (s.modPort y g).arbs = s.arbs := (rfl)
@[simp] theorem State.modPort_weirs (y : Port) (g : PortSt → PortSt) : (s.modPort y g).weirs = s.weirs := (rfl)
@[simp] theorem State.modPort_parts (y : Port) (g : PortSt → PortSt) : (s.modPort y g).parts = s.parts := (rfl)
@[simp] theorem State.modPort_hub (y : Port) (g : PortSt → PortSt) : (s.modPort y g).hub = s.hub := (rfl)
@[simp] theorem State.modPort_gov (y : Port) (g : PortSt → PortSt) : (s.modPort y g).gov = s.gov := (rfl)
@[simp] theorem State.modPort_svc (y : Port) (g : PortSt → PortSt) : (s.modPort y g).svc = s.svc := (rfl)
@[simp] theorem State.modPort_tsclk (y : Port) (g : PortSt → PortSt) : (s.modPort y g).tsclk = s.tsclk := (rfl)
@[simp] theorem State.modPort_freeCtr (y : Port) (g : PortSt → PortSt) : (s.modPort y g).freeCtr = s.freeCtr := (rfl)
@[simp] theorem State.modPort_out (y : Port) (g : PortSt → PortSt) : (s.modPort y g).out = s.out := (rfl)
@[simp] theorem State.modBank_pending (k : Nat) (g : EngBank → EngBank) : (s.modBank k g).pending = s.pending := (rfl)
@[simp] theorem State.modBank_regs (k : Nat) (g : EngBank → EngBank) : (s.modBank k g).regs = s.regs := (rfl)
@[simp] theorem State.modBank_cores (k : Nat) (g : EngBank → EngBank) : (s.modBank k g).cores = s.cores := (rfl)
@[simp] theorem State.modBank_spares (k : Nat) (g : EngBank → EngBank) : (s.modBank k g).spares = s.spares := (rfl)
@[simp] theorem State.modBank_wells (k : Nat) (g : EngBank → EngBank) : (s.modBank k g).wells = s.wells := (rfl)
@[simp] theorem State.modBank_wellUe (k : Nat) (g : EngBank → EngBank) : (s.modBank k g).wellUe = s.wellUe := (rfl)
@[simp] theorem State.modBank_wellCe (k : Nat) (g : EngBank → EngBank) : (s.modBank k g).wellCe = s.wellCe := (rfl)
@[simp] theorem State.modBank_fields (k : Nat) (g : EngBank → EngBank) : (s.modBank k g).fields = s.fields := (rfl)
@[simp] theorem State.modBank_arbs (k : Nat) (g : EngBank → EngBank) : (s.modBank k g).arbs = s.arbs := (rfl)
@[simp] theorem State.modBank_weirs (k : Nat) (g : EngBank → EngBank) : (s.modBank k g).weirs = s.weirs := (rfl)
@[simp] theorem State.modBank_parts (k : Nat) (g : EngBank → EngBank) : (s.modBank k g).parts = s.parts := (rfl)
@[simp] theorem State.modBank_ports (k : Nat) (g : EngBank → EngBank) : (s.modBank k g).ports = s.ports := (rfl)
@[simp] theorem State.modBank_hub (k : Nat) (g : EngBank → EngBank) : (s.modBank k g).hub = s.hub := (rfl)
@[simp] theorem State.modBank_gov (k : Nat) (g : EngBank → EngBank) : (s.modBank k g).gov = s.gov := (rfl)
@[simp] theorem State.modBank_svc (k : Nat) (g : EngBank → EngBank) : (s.modBank k g).svc = s.svc := (rfl)
@[simp] theorem State.modBank_tsclk (k : Nat) (g : EngBank → EngBank) : (s.modBank k g).tsclk = s.tsclk := (rfl)
@[simp] theorem State.modBank_freeCtr (k : Nat) (g : EngBank → EngBank) : (s.modBank k g).freeCtr = s.freeCtr := (rfl)
@[simp] theorem State.modBank_out (k : Nat) (g : EngBank → EngBank) : (s.modBank k g).out = s.out := (rfl)
@[simp] theorem State.modWeir_pending (k : Nat) (g : Weir → Weir) : (s.modWeir k g).pending = s.pending := (rfl)
@[simp] theorem State.modWeir_regs (k : Nat) (g : Weir → Weir) : (s.modWeir k g).regs = s.regs := (rfl)
@[simp] theorem State.modWeir_cores (k : Nat) (g : Weir → Weir) : (s.modWeir k g).cores = s.cores := (rfl)
@[simp] theorem State.modWeir_spares (k : Nat) (g : Weir → Weir) : (s.modWeir k g).spares = s.spares := (rfl)
@[simp] theorem State.modWeir_wells (k : Nat) (g : Weir → Weir) : (s.modWeir k g).wells = s.wells := (rfl)
@[simp] theorem State.modWeir_wellUe (k : Nat) (g : Weir → Weir) : (s.modWeir k g).wellUe = s.wellUe := (rfl)
@[simp] theorem State.modWeir_wellCe (k : Nat) (g : Weir → Weir) : (s.modWeir k g).wellCe = s.wellCe := (rfl)
@[simp] theorem State.modWeir_banks (k : Nat) (g : Weir → Weir) : (s.modWeir k g).banks = s.banks := (rfl)
@[simp] theorem State.modWeir_fields (k : Nat) (g : Weir → Weir) : (s.modWeir k g).fields = s.fields := (rfl)
@[simp] theorem State.modWeir_arbs (k : Nat) (g : Weir → Weir) : (s.modWeir k g).arbs = s.arbs := (rfl)
@[simp] theorem State.modWeir_parts (k : Nat) (g : Weir → Weir) : (s.modWeir k g).parts = s.parts := (rfl)
@[simp] theorem State.modWeir_ports (k : Nat) (g : Weir → Weir) : (s.modWeir k g).ports = s.ports := (rfl)
@[simp] theorem State.modWeir_hub (k : Nat) (g : Weir → Weir) : (s.modWeir k g).hub = s.hub := (rfl)
@[simp] theorem State.modWeir_gov (k : Nat) (g : Weir → Weir) : (s.modWeir k g).gov = s.gov := (rfl)
@[simp] theorem State.modWeir_svc (k : Nat) (g : Weir → Weir) : (s.modWeir k g).svc = s.svc := (rfl)
@[simp] theorem State.modWeir_tsclk (k : Nat) (g : Weir → Weir) : (s.modWeir k g).tsclk = s.tsclk := (rfl)
@[simp] theorem State.modWeir_freeCtr (k : Nat) (g : Weir → Weir) : (s.modWeir k g).freeCtr = s.freeCtr := (rfl)
@[simp] theorem State.modWeir_out (k : Nat) (g : Weir → Weir) : (s.modWeir k g).out = s.out := (rfl)
@[simp] theorem State.modArb_pending (k : Nat) (g : Arb → Arb) : (s.modArb k g).pending = s.pending := (rfl)
@[simp] theorem State.modArb_regs (k : Nat) (g : Arb → Arb) : (s.modArb k g).regs = s.regs := (rfl)
@[simp] theorem State.modArb_cores (k : Nat) (g : Arb → Arb) : (s.modArb k g).cores = s.cores := (rfl)
@[simp] theorem State.modArb_spares (k : Nat) (g : Arb → Arb) : (s.modArb k g).spares = s.spares := (rfl)
@[simp] theorem State.modArb_wells (k : Nat) (g : Arb → Arb) : (s.modArb k g).wells = s.wells := (rfl)
@[simp] theorem State.modArb_wellUe (k : Nat) (g : Arb → Arb) : (s.modArb k g).wellUe = s.wellUe := (rfl)
@[simp] theorem State.modArb_wellCe (k : Nat) (g : Arb → Arb) : (s.modArb k g).wellCe = s.wellCe := (rfl)
@[simp] theorem State.modArb_banks (k : Nat) (g : Arb → Arb) : (s.modArb k g).banks = s.banks := (rfl)
@[simp] theorem State.modArb_fields (k : Nat) (g : Arb → Arb) : (s.modArb k g).fields = s.fields := (rfl)
@[simp] theorem State.modArb_weirs (k : Nat) (g : Arb → Arb) : (s.modArb k g).weirs = s.weirs := (rfl)
@[simp] theorem State.modArb_parts (k : Nat) (g : Arb → Arb) : (s.modArb k g).parts = s.parts := (rfl)
@[simp] theorem State.modArb_ports (k : Nat) (g : Arb → Arb) : (s.modArb k g).ports = s.ports := (rfl)
@[simp] theorem State.modArb_hub (k : Nat) (g : Arb → Arb) : (s.modArb k g).hub = s.hub := (rfl)
@[simp] theorem State.modArb_gov (k : Nat) (g : Arb → Arb) : (s.modArb k g).gov = s.gov := (rfl)
@[simp] theorem State.modArb_svc (k : Nat) (g : Arb → Arb) : (s.modArb k g).svc = s.svc := (rfl)
@[simp] theorem State.modArb_tsclk (k : Nat) (g : Arb → Arb) : (s.modArb k g).tsclk = s.tsclk := (rfl)
@[simp] theorem State.modArb_freeCtr (k : Nat) (g : Arb → Arb) : (s.modArb k g).freeCtr = s.freeCtr := (rfl)
@[simp] theorem State.modArb_out (k : Nat) (g : Arb → Arb) : (s.modArb k g).out = s.out := (rfl)
@[simp] theorem State.modSvc_pending (g : SvcSt → SvcSt) : (s.modSvc g).pending = s.pending := (rfl)
@[simp] theorem State.modSvc_regs (g : SvcSt → SvcSt) : (s.modSvc g).regs = s.regs := (rfl)
@[simp] theorem State.modSvc_cores (g : SvcSt → SvcSt) : (s.modSvc g).cores = s.cores := (rfl)
@[simp] theorem State.modSvc_spares (g : SvcSt → SvcSt) : (s.modSvc g).spares = s.spares := (rfl)
@[simp] theorem State.modSvc_wells (g : SvcSt → SvcSt) : (s.modSvc g).wells = s.wells := (rfl)
@[simp] theorem State.modSvc_wellUe (g : SvcSt → SvcSt) : (s.modSvc g).wellUe = s.wellUe := (rfl)
@[simp] theorem State.modSvc_wellCe (g : SvcSt → SvcSt) : (s.modSvc g).wellCe = s.wellCe := (rfl)
@[simp] theorem State.modSvc_banks (g : SvcSt → SvcSt) : (s.modSvc g).banks = s.banks := (rfl)
@[simp] theorem State.modSvc_fields (g : SvcSt → SvcSt) : (s.modSvc g).fields = s.fields := (rfl)
@[simp] theorem State.modSvc_arbs (g : SvcSt → SvcSt) : (s.modSvc g).arbs = s.arbs := (rfl)
@[simp] theorem State.modSvc_weirs (g : SvcSt → SvcSt) : (s.modSvc g).weirs = s.weirs := (rfl)
@[simp] theorem State.modSvc_parts (g : SvcSt → SvcSt) : (s.modSvc g).parts = s.parts := (rfl)
@[simp] theorem State.modSvc_ports (g : SvcSt → SvcSt) : (s.modSvc g).ports = s.ports := (rfl)
@[simp] theorem State.modSvc_hub (g : SvcSt → SvcSt) : (s.modSvc g).hub = s.hub := (rfl)
@[simp] theorem State.modSvc_gov (g : SvcSt → SvcSt) : (s.modSvc g).gov = s.gov := (rfl)
@[simp] theorem State.modSvc_tsclk (g : SvcSt → SvcSt) : (s.modSvc g).tsclk = s.tsclk := (rfl)
@[simp] theorem State.modSvc_freeCtr (g : SvcSt → SvcSt) : (s.modSvc g).freeCtr = s.freeCtr := (rfl)
@[simp] theorem State.modSvc_out (g : SvcSt → SvcSt) : (s.modSvc g).out = s.out := (rfl)
@[simp] theorem State.modGov_pending (g : GovSt → GovSt) : (s.modGov g).pending = s.pending := (rfl)
@[simp] theorem State.modGov_regs (g : GovSt → GovSt) : (s.modGov g).regs = s.regs := (rfl)
@[simp] theorem State.modGov_cores (g : GovSt → GovSt) : (s.modGov g).cores = s.cores := (rfl)
@[simp] theorem State.modGov_spares (g : GovSt → GovSt) : (s.modGov g).spares = s.spares := (rfl)
@[simp] theorem State.modGov_wells (g : GovSt → GovSt) : (s.modGov g).wells = s.wells := (rfl)
@[simp] theorem State.modGov_wellUe (g : GovSt → GovSt) : (s.modGov g).wellUe = s.wellUe := (rfl)
@[simp] theorem State.modGov_wellCe (g : GovSt → GovSt) : (s.modGov g).wellCe = s.wellCe := (rfl)
@[simp] theorem State.modGov_banks (g : GovSt → GovSt) : (s.modGov g).banks = s.banks := (rfl)
@[simp] theorem State.modGov_fields (g : GovSt → GovSt) : (s.modGov g).fields = s.fields := (rfl)
@[simp] theorem State.modGov_arbs (g : GovSt → GovSt) : (s.modGov g).arbs = s.arbs := (rfl)
@[simp] theorem State.modGov_weirs (g : GovSt → GovSt) : (s.modGov g).weirs = s.weirs := (rfl)
@[simp] theorem State.modGov_parts (g : GovSt → GovSt) : (s.modGov g).parts = s.parts := (rfl)
@[simp] theorem State.modGov_ports (g : GovSt → GovSt) : (s.modGov g).ports = s.ports := (rfl)
@[simp] theorem State.modGov_hub (g : GovSt → GovSt) : (s.modGov g).hub = s.hub := (rfl)
@[simp] theorem State.modGov_svc (g : GovSt → GovSt) : (s.modGov g).svc = s.svc := (rfl)
@[simp] theorem State.modGov_tsclk (g : GovSt → GovSt) : (s.modGov g).tsclk = s.tsclk := (rfl)
@[simp] theorem State.modGov_freeCtr (g : GovSt → GovSt) : (s.modGov g).freeCtr = s.freeCtr := (rfl)
@[simp] theorem State.modGov_out (g : GovSt → GovSt) : (s.modGov g).out = s.out := (rfl)
@[simp] theorem State.modHub_pending (g : HubSt → HubSt) : (s.modHub g).pending = s.pending := (rfl)
@[simp] theorem State.modHub_regs (g : HubSt → HubSt) : (s.modHub g).regs = s.regs := (rfl)
@[simp] theorem State.modHub_cores (g : HubSt → HubSt) : (s.modHub g).cores = s.cores := (rfl)
@[simp] theorem State.modHub_spares (g : HubSt → HubSt) : (s.modHub g).spares = s.spares := (rfl)
@[simp] theorem State.modHub_wells (g : HubSt → HubSt) : (s.modHub g).wells = s.wells := (rfl)
@[simp] theorem State.modHub_wellUe (g : HubSt → HubSt) : (s.modHub g).wellUe = s.wellUe := (rfl)
@[simp] theorem State.modHub_wellCe (g : HubSt → HubSt) : (s.modHub g).wellCe = s.wellCe := (rfl)
@[simp] theorem State.modHub_banks (g : HubSt → HubSt) : (s.modHub g).banks = s.banks := (rfl)
@[simp] theorem State.modHub_fields (g : HubSt → HubSt) : (s.modHub g).fields = s.fields := (rfl)
@[simp] theorem State.modHub_arbs (g : HubSt → HubSt) : (s.modHub g).arbs = s.arbs := (rfl)
@[simp] theorem State.modHub_weirs (g : HubSt → HubSt) : (s.modHub g).weirs = s.weirs := (rfl)
@[simp] theorem State.modHub_parts (g : HubSt → HubSt) : (s.modHub g).parts = s.parts := (rfl)
@[simp] theorem State.modHub_ports (g : HubSt → HubSt) : (s.modHub g).ports = s.ports := (rfl)
@[simp] theorem State.modHub_gov (g : HubSt → HubSt) : (s.modHub g).gov = s.gov := (rfl)
@[simp] theorem State.modHub_svc (g : HubSt → HubSt) : (s.modHub g).svc = s.svc := (rfl)
@[simp] theorem State.modHub_tsclk (g : HubSt → HubSt) : (s.modHub g).tsclk = s.tsclk := (rfl)
@[simp] theorem State.modHub_freeCtr (g : HubSt → HubSt) : (s.modHub g).freeCtr = s.freeCtr := (rfl)
@[simp] theorem State.modHub_out (g : HubSt → HubSt) : (s.modHub g).out = s.out := (rfl)
@[simp] theorem State.emit_pending (o : Out) : (s.emit o).pending = s.pending := (rfl)
@[simp] theorem State.emit_regs (o : Out) : (s.emit o).regs = s.regs := (rfl)
@[simp] theorem State.emit_cores (o : Out) : (s.emit o).cores = s.cores := (rfl)
@[simp] theorem State.emit_spares (o : Out) : (s.emit o).spares = s.spares := (rfl)
@[simp] theorem State.emit_wells (o : Out) : (s.emit o).wells = s.wells := (rfl)
@[simp] theorem State.emit_wellUe (o : Out) : (s.emit o).wellUe = s.wellUe := (rfl)
@[simp] theorem State.emit_wellCe (o : Out) : (s.emit o).wellCe = s.wellCe := (rfl)
@[simp] theorem State.emit_banks (o : Out) : (s.emit o).banks = s.banks := (rfl)
@[simp] theorem State.emit_fields (o : Out) : (s.emit o).fields = s.fields := (rfl)
@[simp] theorem State.emit_arbs (o : Out) : (s.emit o).arbs = s.arbs := (rfl)
@[simp] theorem State.emit_weirs (o : Out) : (s.emit o).weirs = s.weirs := (rfl)
@[simp] theorem State.emit_parts (o : Out) : (s.emit o).parts = s.parts := (rfl)
@[simp] theorem State.emit_ports (o : Out) : (s.emit o).ports = s.ports := (rfl)
@[simp] theorem State.emit_hub (o : Out) : (s.emit o).hub = s.hub := (rfl)
@[simp] theorem State.emit_gov (o : Out) : (s.emit o).gov = s.gov := (rfl)
@[simp] theorem State.emit_svc (o : Out) : (s.emit o).svc = s.svc := (rfl)
@[simp] theorem State.emit_tsclk (o : Out) : (s.emit o).tsclk = s.tsclk := (rfl)
@[simp] theorem State.emit_freeCtr (o : Out) : (s.emit o).freeCtr = s.freeCtr := (rfl)

/-! ## Accessors an update does not reach -/

@[simp] theorem State.setReg_core (a : Nat) (w : Word) (u : Tile) : (s.setReg a w).core u = s.core u := (rfl)
@[simp] theorem State.setReg_seq (a : Nat) (w : Word) (u : Tile) : (s.setReg a w).seq u = s.seq u := (rfl)
@[simp] theorem State.setReg_arr (a : Nat) (w : Word) (u : Tile) : (s.setReg a w).arr u = s.arr u := (rfl)
@[simp] theorem State.setReg_vec (a : Nat) (w : Word) (u : Tile) : (s.setReg a w).vec u = s.vec u := (rfl)
@[simp] theorem State.setReg_mem (a : Nat) (w : Word) (u : Tile) : (s.setReg a w).mem u = s.mem u := (rfl)
@[simp] theorem State.setReg_g (a : Nat) (w : Word) (u : Tile) (r' : GReg) : (s.setReg a w).g u r' = s.g u r' := (rfl)
@[simp] theorem State.setReg_v (a : Nat) (w : Word) (u : Tile) (r' : VReg) : (s.setReg a w).v u r' = s.v u r' := (rfl)
@[simp] theorem State.setReg_pc (a : Nat) (w : Word) (u : Tile) : (s.setReg a w).pc u = s.pc u := (rfl)
@[simp] theorem State.setReg_fld (a : Nat) (w : Word) (h : Field) : (s.setReg a w).fld h = s.fld h := (rfl)
@[simp] theorem State.setReg_prt (a : Nat) (w : Word) (q : Part) : (s.setReg a w).prt q = s.prt q := (rfl)
@[simp] theorem State.setReg_port (a : Nat) (w : Word) (z : Port) : (s.setReg a w).port z = s.port z := (rfl)
@[simp] theorem State.setReg_bank (a : Nat) (w : Word) (j : Nat) : (s.setReg a w).bank j = s.bank j := (rfl)
@[simp] theorem State.setReg_weir (a : Nat) (w : Word) (j : Nat) : (s.setReg a w).weir j = s.weir j := (rfl)
@[simp] theorem State.setReg_arb (a : Nat) (w : Word) (j : Nat) : (s.setReg a w).arb j = s.arb j := (rfl)
@[simp] theorem State.modReg_core (a : Nat) (f : Word → Word) (u : Tile) : (s.modReg a f).core u = s.core u := (rfl)
@[simp] theorem State.modReg_seq (a : Nat) (f : Word → Word) (u : Tile) : (s.modReg a f).seq u = s.seq u := (rfl)
@[simp] theorem State.modReg_arr (a : Nat) (f : Word → Word) (u : Tile) : (s.modReg a f).arr u = s.arr u := (rfl)
@[simp] theorem State.modReg_vec (a : Nat) (f : Word → Word) (u : Tile) : (s.modReg a f).vec u = s.vec u := (rfl)
@[simp] theorem State.modReg_mem (a : Nat) (f : Word → Word) (u : Tile) : (s.modReg a f).mem u = s.mem u := (rfl)
@[simp] theorem State.modReg_g (a : Nat) (f : Word → Word) (u : Tile) (r' : GReg) : (s.modReg a f).g u r' = s.g u r' := (rfl)
@[simp] theorem State.modReg_v (a : Nat) (f : Word → Word) (u : Tile) (r' : VReg) : (s.modReg a f).v u r' = s.v u r' := (rfl)
@[simp] theorem State.modReg_pc (a : Nat) (f : Word → Word) (u : Tile) : (s.modReg a f).pc u = s.pc u := (rfl)
@[simp] theorem State.modReg_fld (a : Nat) (f : Word → Word) (h : Field) : (s.modReg a f).fld h = s.fld h := (rfl)
@[simp] theorem State.modReg_prt (a : Nat) (f : Word → Word) (q : Part) : (s.modReg a f).prt q = s.prt q := (rfl)
@[simp] theorem State.modReg_port (a : Nat) (f : Word → Word) (z : Port) : (s.modReg a f).port z = s.port z := (rfl)
@[simp] theorem State.modReg_bank (a : Nat) (f : Word → Word) (j : Nat) : (s.modReg a f).bank j = s.bank j := (rfl)
@[simp] theorem State.modReg_weir (a : Nat) (f : Word → Word) (j : Nat) : (s.modReg a f).weir j = s.weir j := (rfl)
@[simp] theorem State.modReg_arb (a : Nat) (f : Word → Word) (j : Nat) : (s.modReg a f).arb j = s.arb j := (rfl)
@[simp] theorem State.count_core (a n : Nat) (u : Tile) : (s.count a n).core u = s.core u := (rfl)
@[simp] theorem State.count_seq (a n : Nat) (u : Tile) : (s.count a n).seq u = s.seq u := (rfl)
@[simp] theorem State.count_arr (a n : Nat) (u : Tile) : (s.count a n).arr u = s.arr u := (rfl)
@[simp] theorem State.count_vec (a n : Nat) (u : Tile) : (s.count a n).vec u = s.vec u := (rfl)
@[simp] theorem State.count_mem (a n : Nat) (u : Tile) : (s.count a n).mem u = s.mem u := (rfl)
@[simp] theorem State.count_g (a n : Nat) (u : Tile) (r' : GReg) : (s.count a n).g u r' = s.g u r' := (rfl)
@[simp] theorem State.count_v (a n : Nat) (u : Tile) (r' : VReg) : (s.count a n).v u r' = s.v u r' := (rfl)
@[simp] theorem State.count_pc (a n : Nat) (u : Tile) : (s.count a n).pc u = s.pc u := (rfl)
@[simp] theorem State.count_fld (a n : Nat) (h : Field) : (s.count a n).fld h = s.fld h := (rfl)
@[simp] theorem State.count_prt (a n : Nat) (q : Part) : (s.count a n).prt q = s.prt q := (rfl)
@[simp] theorem State.count_port (a n : Nat) (z : Port) : (s.count a n).port z = s.port z := (rfl)
@[simp] theorem State.count_bank (a n : Nat) (j : Nat) : (s.count a n).bank j = s.bank j := (rfl)
@[simp] theorem State.count_weir (a n : Nat) (j : Nat) : (s.count a n).weir j = s.weir j := (rfl)
@[simp] theorem State.count_arb (a n : Nat) (j : Nat) : (s.count a n).arb j = s.arb j := (rfl)
@[simp] theorem State.setRbit_core (a i : Nat) (b : Bool) (u : Tile) : (s.setRbit a i b).core u = s.core u := (rfl)
@[simp] theorem State.setRbit_seq (a i : Nat) (b : Bool) (u : Tile) : (s.setRbit a i b).seq u = s.seq u := (rfl)
@[simp] theorem State.setRbit_arr (a i : Nat) (b : Bool) (u : Tile) : (s.setRbit a i b).arr u = s.arr u := (rfl)
@[simp] theorem State.setRbit_vec (a i : Nat) (b : Bool) (u : Tile) : (s.setRbit a i b).vec u = s.vec u := (rfl)
@[simp] theorem State.setRbit_mem (a i : Nat) (b : Bool) (u : Tile) : (s.setRbit a i b).mem u = s.mem u := (rfl)
@[simp] theorem State.setRbit_g (a i : Nat) (b : Bool) (u : Tile) (r' : GReg) : (s.setRbit a i b).g u r' = s.g u r' := (rfl)
@[simp] theorem State.setRbit_v (a i : Nat) (b : Bool) (u : Tile) (r' : VReg) : (s.setRbit a i b).v u r' = s.v u r' := (rfl)
@[simp] theorem State.setRbit_pc (a i : Nat) (b : Bool) (u : Tile) : (s.setRbit a i b).pc u = s.pc u := (rfl)
@[simp] theorem State.setRbit_fld (a i : Nat) (b : Bool) (h : Field) : (s.setRbit a i b).fld h = s.fld h := (rfl)
@[simp] theorem State.setRbit_prt (a i : Nat) (b : Bool) (q : Part) : (s.setRbit a i b).prt q = s.prt q := (rfl)
@[simp] theorem State.setRbit_port (a i : Nat) (b : Bool) (z : Port) : (s.setRbit a i b).port z = s.port z := (rfl)
@[simp] theorem State.setRbit_bank (a i : Nat) (b : Bool) (j : Nat) : (s.setRbit a i b).bank j = s.bank j := (rfl)
@[simp] theorem State.setRbit_weir (a i : Nat) (b : Bool) (j : Nat) : (s.setRbit a i b).weir j = s.weir j := (rfl)
@[simp] theorem State.setRbit_arb (a i : Nat) (b : Bool) (j : Nat) : (s.setRbit a i b).arb j = s.arb j := (rfl)
@[simp] theorem State.setCore_reg (t : Tile) (c : TileCore) (b : Nat) : (s.setCore t c).reg b = s.reg b := (rfl)
@[simp] theorem State.setCore_rbit (t : Tile) (c : TileCore) (b j : Nat) : (s.setCore t c).rbit b j = s.rbit b j := (rfl)
@[simp] theorem State.setCore_fld (t : Tile) (c : TileCore) (h : Field) : (s.setCore t c).fld h = s.fld h := (rfl)
@[simp] theorem State.setCore_prt (t : Tile) (c : TileCore) (q : Part) : (s.setCore t c).prt q = s.prt q := (rfl)
@[simp] theorem State.setCore_port (t : Tile) (c : TileCore) (z : Port) : (s.setCore t c).port z = s.port z := (rfl)
@[simp] theorem State.setCore_bank (t : Tile) (c : TileCore) (j : Nat) : (s.setCore t c).bank j = s.bank j := (rfl)
@[simp] theorem State.setCore_weir (t : Tile) (c : TileCore) (j : Nat) : (s.setCore t c).weir j = s.weir j := (rfl)
@[simp] theorem State.setCore_arb (t : Tile) (c : TileCore) (j : Nat) : (s.setCore t c).arb j = s.arb j := (rfl)
@[simp] theorem State.modCore_reg (t : Tile) (f : TileCore → TileCore) (b : Nat) : (s.modCore t f).reg b = s.reg b := (rfl)
@[simp] theorem State.modCore_rbit (t : Tile) (f : TileCore → TileCore) (b j : Nat) : (s.modCore t f).rbit b j = s.rbit b j := (rfl)
@[simp] theorem State.modCore_fld (t : Tile) (f : TileCore → TileCore) (h : Field) : (s.modCore t f).fld h = s.fld h := (rfl)
@[simp] theorem State.modCore_prt (t : Tile) (f : TileCore → TileCore) (q : Part) : (s.modCore t f).prt q = s.prt q := (rfl)
@[simp] theorem State.modCore_port (t : Tile) (f : TileCore → TileCore) (z : Port) : (s.modCore t f).port z = s.port z := (rfl)
@[simp] theorem State.modCore_bank (t : Tile) (f : TileCore → TileCore) (j : Nat) : (s.modCore t f).bank j = s.bank j := (rfl)
@[simp] theorem State.modCore_weir (t : Tile) (f : TileCore → TileCore) (j : Nat) : (s.modCore t f).weir j = s.weir j := (rfl)
@[simp] theorem State.modCore_arb (t : Tile) (f : TileCore → TileCore) (j : Nat) : (s.modCore t f).arb j = s.arb j := (rfl)
@[simp] theorem State.modSeq_reg (t : Tile) (f : SeqSt → SeqSt) (b : Nat) : (s.modSeq t f).reg b = s.reg b := (rfl)
@[simp] theorem State.modSeq_rbit (t : Tile) (f : SeqSt → SeqSt) (b j : Nat) : (s.modSeq t f).rbit b j = s.rbit b j := (rfl)
@[simp] theorem State.modSeq_fld (t : Tile) (f : SeqSt → SeqSt) (h : Field) : (s.modSeq t f).fld h = s.fld h := (rfl)
@[simp] theorem State.modSeq_prt (t : Tile) (f : SeqSt → SeqSt) (q : Part) : (s.modSeq t f).prt q = s.prt q := (rfl)
@[simp] theorem State.modSeq_port (t : Tile) (f : SeqSt → SeqSt) (z : Port) : (s.modSeq t f).port z = s.port z := (rfl)
@[simp] theorem State.modSeq_bank (t : Tile) (f : SeqSt → SeqSt) (j : Nat) : (s.modSeq t f).bank j = s.bank j := (rfl)
@[simp] theorem State.modSeq_weir (t : Tile) (f : SeqSt → SeqSt) (j : Nat) : (s.modSeq t f).weir j = s.weir j := (rfl)
@[simp] theorem State.modSeq_arb (t : Tile) (f : SeqSt → SeqSt) (j : Nat) : (s.modSeq t f).arb j = s.arb j := (rfl)
@[simp] theorem State.modArr_reg (t : Tile) (f : ArrSt → ArrSt) (b : Nat) : (s.modArr t f).reg b = s.reg b := (rfl)
@[simp] theorem State.modArr_rbit (t : Tile) (f : ArrSt → ArrSt) (b j : Nat) : (s.modArr t f).rbit b j = s.rbit b j := (rfl)
@[simp] theorem State.modArr_fld (t : Tile) (f : ArrSt → ArrSt) (h : Field) : (s.modArr t f).fld h = s.fld h := (rfl)
@[simp] theorem State.modArr_prt (t : Tile) (f : ArrSt → ArrSt) (q : Part) : (s.modArr t f).prt q = s.prt q := (rfl)
@[simp] theorem State.modArr_port (t : Tile) (f : ArrSt → ArrSt) (z : Port) : (s.modArr t f).port z = s.port z := (rfl)
@[simp] theorem State.modArr_bank (t : Tile) (f : ArrSt → ArrSt) (j : Nat) : (s.modArr t f).bank j = s.bank j := (rfl)
@[simp] theorem State.modArr_weir (t : Tile) (f : ArrSt → ArrSt) (j : Nat) : (s.modArr t f).weir j = s.weir j := (rfl)
@[simp] theorem State.modArr_arb (t : Tile) (f : ArrSt → ArrSt) (j : Nat) : (s.modArr t f).arb j = s.arb j := (rfl)
@[simp] theorem State.modVec_reg (t : Tile) (f : VecSt → VecSt) (b : Nat) : (s.modVec t f).reg b = s.reg b := (rfl)
@[simp] theorem State.modVec_rbit (t : Tile) (f : VecSt → VecSt) (b j : Nat) : (s.modVec t f).rbit b j = s.rbit b j := (rfl)
@[simp] theorem State.modVec_fld (t : Tile) (f : VecSt → VecSt) (h : Field) : (s.modVec t f).fld h = s.fld h := (rfl)
@[simp] theorem State.modVec_prt (t : Tile) (f : VecSt → VecSt) (q : Part) : (s.modVec t f).prt q = s.prt q := (rfl)
@[simp] theorem State.modVec_port (t : Tile) (f : VecSt → VecSt) (z : Port) : (s.modVec t f).port z = s.port z := (rfl)
@[simp] theorem State.modVec_bank (t : Tile) (f : VecSt → VecSt) (j : Nat) : (s.modVec t f).bank j = s.bank j := (rfl)
@[simp] theorem State.modVec_weir (t : Tile) (f : VecSt → VecSt) (j : Nat) : (s.modVec t f).weir j = s.weir j := (rfl)
@[simp] theorem State.modVec_arb (t : Tile) (f : VecSt → VecSt) (j : Nat) : (s.modVec t f).arb j = s.arb j := (rfl)
@[simp] theorem State.modMem_reg (t : Tile) (f : MemSt → MemSt) (b : Nat) : (s.modMem t f).reg b = s.reg b := (rfl)
@[simp] theorem State.modMem_rbit (t : Tile) (f : MemSt → MemSt) (b j : Nat) : (s.modMem t f).rbit b j = s.rbit b j := (rfl)
@[simp] theorem State.modMem_fld (t : Tile) (f : MemSt → MemSt) (h : Field) : (s.modMem t f).fld h = s.fld h := (rfl)
@[simp] theorem State.modMem_prt (t : Tile) (f : MemSt → MemSt) (q : Part) : (s.modMem t f).prt q = s.prt q := (rfl)
@[simp] theorem State.modMem_port (t : Tile) (f : MemSt → MemSt) (z : Port) : (s.modMem t f).port z = s.port z := (rfl)
@[simp] theorem State.modMem_bank (t : Tile) (f : MemSt → MemSt) (j : Nat) : (s.modMem t f).bank j = s.bank j := (rfl)
@[simp] theorem State.modMem_weir (t : Tile) (f : MemSt → MemSt) (j : Nat) : (s.modMem t f).weir j = s.weir j := (rfl)
@[simp] theorem State.modMem_arb (t : Tile) (f : MemSt → MemSt) (j : Nat) : (s.modMem t f).arb j = s.arb j := (rfl)
@[simp] theorem State.setG_reg (t : Tile) (r : GReg) (w : Word) (b : Nat) : (s.setG t r w).reg b = s.reg b := (rfl)
@[simp] theorem State.setG_rbit (t : Tile) (r : GReg) (w : Word) (b j : Nat) : (s.setG t r w).rbit b j = s.rbit b j := (rfl)
@[simp] theorem State.setG_fld (t : Tile) (r : GReg) (w : Word) (h : Field) : (s.setG t r w).fld h = s.fld h := (rfl)
@[simp] theorem State.setG_prt (t : Tile) (r : GReg) (w : Word) (q : Part) : (s.setG t r w).prt q = s.prt q := (rfl)
@[simp] theorem State.setG_port (t : Tile) (r : GReg) (w : Word) (z : Port) : (s.setG t r w).port z = s.port z := (rfl)
@[simp] theorem State.setG_bank (t : Tile) (r : GReg) (w : Word) (j : Nat) : (s.setG t r w).bank j = s.bank j := (rfl)
@[simp] theorem State.setG_weir (t : Tile) (r : GReg) (w : Word) (j : Nat) : (s.setG t r w).weir j = s.weir j := (rfl)
@[simp] theorem State.setG_arb (t : Tile) (r : GReg) (w : Word) (j : Nat) : (s.setG t r w).arb j = s.arb j := (rfl)
@[simp] theorem State.setV_reg (t : Tile) (r : VReg) (w : VWord) (b : Nat) : (s.setV t r w).reg b = s.reg b := (rfl)
@[simp] theorem State.setV_rbit (t : Tile) (r : VReg) (w : VWord) (b j : Nat) : (s.setV t r w).rbit b j = s.rbit b j := (rfl)
@[simp] theorem State.setV_fld (t : Tile) (r : VReg) (w : VWord) (h : Field) : (s.setV t r w).fld h = s.fld h := (rfl)
@[simp] theorem State.setV_prt (t : Tile) (r : VReg) (w : VWord) (q : Part) : (s.setV t r w).prt q = s.prt q := (rfl)
@[simp] theorem State.setV_port (t : Tile) (r : VReg) (w : VWord) (z : Port) : (s.setV t r w).port z = s.port z := (rfl)
@[simp] theorem State.setV_bank (t : Tile) (r : VReg) (w : VWord) (j : Nat) : (s.setV t r w).bank j = s.bank j := (rfl)
@[simp] theorem State.setV_weir (t : Tile) (r : VReg) (w : VWord) (j : Nat) : (s.setV t r w).weir j = s.weir j := (rfl)
@[simp] theorem State.setV_arb (t : Tile) (r : VReg) (w : VWord) (j : Nat) : (s.setV t r w).arb j = s.arb j := (rfl)
@[simp] theorem State.modFld_reg (f : Field) (g : FieldSt → FieldSt) (b : Nat) : (s.modFld f g).reg b = s.reg b := (rfl)
@[simp] theorem State.modFld_rbit (f : Field) (g : FieldSt → FieldSt) (b j : Nat) : (s.modFld f g).rbit b j = s.rbit b j := (rfl)
@[simp] theorem State.modFld_core (f : Field) (g : FieldSt → FieldSt) (u : Tile) : (s.modFld f g).core u = s.core u := (rfl)
@[simp] theorem State.modFld_seq (f : Field) (g : FieldSt → FieldSt) (u : Tile) : (s.modFld f g).seq u = s.seq u := (rfl)
@[simp] theorem State.modFld_arr (f : Field) (g : FieldSt → FieldSt) (u : Tile) : (s.modFld f g).arr u = s.arr u := (rfl)
@[simp] theorem State.modFld_vec (f : Field) (g : FieldSt → FieldSt) (u : Tile) : (s.modFld f g).vec u = s.vec u := (rfl)
@[simp] theorem State.modFld_mem (f : Field) (g : FieldSt → FieldSt) (u : Tile) : (s.modFld f g).mem u = s.mem u := (rfl)
@[simp] theorem State.modFld_g (f : Field) (g : FieldSt → FieldSt) (u : Tile) (r' : GReg) : (s.modFld f g).g u r' = s.g u r' := (rfl)
@[simp] theorem State.modFld_v (f : Field) (g : FieldSt → FieldSt) (u : Tile) (r' : VReg) : (s.modFld f g).v u r' = s.v u r' := (rfl)
@[simp] theorem State.modFld_pc (f : Field) (g : FieldSt → FieldSt) (u : Tile) : (s.modFld f g).pc u = s.pc u := (rfl)
@[simp] theorem State.modFld_prt (f : Field) (g : FieldSt → FieldSt) (q : Part) : (s.modFld f g).prt q = s.prt q := (rfl)
@[simp] theorem State.modFld_port (f : Field) (g : FieldSt → FieldSt) (z : Port) : (s.modFld f g).port z = s.port z := (rfl)
@[simp] theorem State.modFld_bank (f : Field) (g : FieldSt → FieldSt) (j : Nat) : (s.modFld f g).bank j = s.bank j := (rfl)
@[simp] theorem State.modFld_weir (f : Field) (g : FieldSt → FieldSt) (j : Nat) : (s.modFld f g).weir j = s.weir j := (rfl)
@[simp] theorem State.modFld_arb (f : Field) (g : FieldSt → FieldSt) (j : Nat) : (s.modFld f g).arb j = s.arb j := (rfl)
@[simp] theorem State.modPart_reg (p : Part) (g : PartSt → PartSt) (b : Nat) : (s.modPart p g).reg b = s.reg b := (rfl)
@[simp] theorem State.modPart_rbit (p : Part) (g : PartSt → PartSt) (b j : Nat) : (s.modPart p g).rbit b j = s.rbit b j := (rfl)
@[simp] theorem State.modPart_core (p : Part) (g : PartSt → PartSt) (u : Tile) : (s.modPart p g).core u = s.core u := (rfl)
@[simp] theorem State.modPart_seq (p : Part) (g : PartSt → PartSt) (u : Tile) : (s.modPart p g).seq u = s.seq u := (rfl)
@[simp] theorem State.modPart_arr (p : Part) (g : PartSt → PartSt) (u : Tile) : (s.modPart p g).arr u = s.arr u := (rfl)
@[simp] theorem State.modPart_vec (p : Part) (g : PartSt → PartSt) (u : Tile) : (s.modPart p g).vec u = s.vec u := (rfl)
@[simp] theorem State.modPart_mem (p : Part) (g : PartSt → PartSt) (u : Tile) : (s.modPart p g).mem u = s.mem u := (rfl)
@[simp] theorem State.modPart_g (p : Part) (g : PartSt → PartSt) (u : Tile) (r' : GReg) : (s.modPart p g).g u r' = s.g u r' := (rfl)
@[simp] theorem State.modPart_v (p : Part) (g : PartSt → PartSt) (u : Tile) (r' : VReg) : (s.modPart p g).v u r' = s.v u r' := (rfl)
@[simp] theorem State.modPart_pc (p : Part) (g : PartSt → PartSt) (u : Tile) : (s.modPart p g).pc u = s.pc u := (rfl)
@[simp] theorem State.modPart_fld (p : Part) (g : PartSt → PartSt) (h : Field) : (s.modPart p g).fld h = s.fld h := (rfl)
@[simp] theorem State.modPart_port (p : Part) (g : PartSt → PartSt) (z : Port) : (s.modPart p g).port z = s.port z := (rfl)
@[simp] theorem State.modPart_bank (p : Part) (g : PartSt → PartSt) (j : Nat) : (s.modPart p g).bank j = s.bank j := (rfl)
@[simp] theorem State.modPart_weir (p : Part) (g : PartSt → PartSt) (j : Nat) : (s.modPart p g).weir j = s.weir j := (rfl)
@[simp] theorem State.modPart_arb (p : Part) (g : PartSt → PartSt) (j : Nat) : (s.modPart p g).arb j = s.arb j := (rfl)
@[simp] theorem State.modPort_reg (y : Port) (g : PortSt → PortSt) (b : Nat) : (s.modPort y g).reg b = s.reg b := (rfl)
@[simp] theorem State.modPort_rbit (y : Port) (g : PortSt → PortSt) (b j : Nat) : (s.modPort y g).rbit b j = s.rbit b j := (rfl)
@[simp] theorem State.modPort_core (y : Port) (g : PortSt → PortSt) (u : Tile) : (s.modPort y g).core u = s.core u := (rfl)
@[simp] theorem State.modPort_seq (y : Port) (g : PortSt → PortSt) (u : Tile) : (s.modPort y g).seq u = s.seq u := (rfl)
@[simp] theorem State.modPort_arr (y : Port) (g : PortSt → PortSt) (u : Tile) : (s.modPort y g).arr u = s.arr u := (rfl)
@[simp] theorem State.modPort_vec (y : Port) (g : PortSt → PortSt) (u : Tile) : (s.modPort y g).vec u = s.vec u := (rfl)
@[simp] theorem State.modPort_mem (y : Port) (g : PortSt → PortSt) (u : Tile) : (s.modPort y g).mem u = s.mem u := (rfl)
@[simp] theorem State.modPort_g (y : Port) (g : PortSt → PortSt) (u : Tile) (r' : GReg) : (s.modPort y g).g u r' = s.g u r' := (rfl)
@[simp] theorem State.modPort_v (y : Port) (g : PortSt → PortSt) (u : Tile) (r' : VReg) : (s.modPort y g).v u r' = s.v u r' := (rfl)
@[simp] theorem State.modPort_pc (y : Port) (g : PortSt → PortSt) (u : Tile) : (s.modPort y g).pc u = s.pc u := (rfl)
@[simp] theorem State.modPort_fld (y : Port) (g : PortSt → PortSt) (h : Field) : (s.modPort y g).fld h = s.fld h := (rfl)
@[simp] theorem State.modPort_prt (y : Port) (g : PortSt → PortSt) (q : Part) : (s.modPort y g).prt q = s.prt q := (rfl)
@[simp] theorem State.modPort_bank (y : Port) (g : PortSt → PortSt) (j : Nat) : (s.modPort y g).bank j = s.bank j := (rfl)
@[simp] theorem State.modPort_weir (y : Port) (g : PortSt → PortSt) (j : Nat) : (s.modPort y g).weir j = s.weir j := (rfl)
@[simp] theorem State.modPort_arb (y : Port) (g : PortSt → PortSt) (j : Nat) : (s.modPort y g).arb j = s.arb j := (rfl)
@[simp] theorem State.modBank_reg (k : Nat) (g : EngBank → EngBank) (b : Nat) : (s.modBank k g).reg b = s.reg b := (rfl)
@[simp] theorem State.modBank_rbit (k : Nat) (g : EngBank → EngBank) (b j : Nat) : (s.modBank k g).rbit b j = s.rbit b j := (rfl)
@[simp] theorem State.modBank_core (k : Nat) (g : EngBank → EngBank) (u : Tile) : (s.modBank k g).core u = s.core u := (rfl)
@[simp] theorem State.modBank_seq (k : Nat) (g : EngBank → EngBank) (u : Tile) : (s.modBank k g).seq u = s.seq u := (rfl)
@[simp] theorem State.modBank_arr (k : Nat) (g : EngBank → EngBank) (u : Tile) : (s.modBank k g).arr u = s.arr u := (rfl)
@[simp] theorem State.modBank_vec (k : Nat) (g : EngBank → EngBank) (u : Tile) : (s.modBank k g).vec u = s.vec u := (rfl)
@[simp] theorem State.modBank_mem (k : Nat) (g : EngBank → EngBank) (u : Tile) : (s.modBank k g).mem u = s.mem u := (rfl)
@[simp] theorem State.modBank_g (k : Nat) (g : EngBank → EngBank) (u : Tile) (r' : GReg) : (s.modBank k g).g u r' = s.g u r' := (rfl)
@[simp] theorem State.modBank_v (k : Nat) (g : EngBank → EngBank) (u : Tile) (r' : VReg) : (s.modBank k g).v u r' = s.v u r' := (rfl)
@[simp] theorem State.modBank_pc (k : Nat) (g : EngBank → EngBank) (u : Tile) : (s.modBank k g).pc u = s.pc u := (rfl)
@[simp] theorem State.modBank_fld (k : Nat) (g : EngBank → EngBank) (h : Field) : (s.modBank k g).fld h = s.fld h := (rfl)
@[simp] theorem State.modBank_prt (k : Nat) (g : EngBank → EngBank) (q : Part) : (s.modBank k g).prt q = s.prt q := (rfl)
@[simp] theorem State.modBank_port (k : Nat) (g : EngBank → EngBank) (z : Port) : (s.modBank k g).port z = s.port z := (rfl)
@[simp] theorem State.modBank_weir (k : Nat) (g : EngBank → EngBank) (j : Nat) : (s.modBank k g).weir j = s.weir j := (rfl)
@[simp] theorem State.modBank_arb (k : Nat) (g : EngBank → EngBank) (j : Nat) : (s.modBank k g).arb j = s.arb j := (rfl)
@[simp] theorem State.modWeir_reg (k : Nat) (g : Weir → Weir) (b : Nat) : (s.modWeir k g).reg b = s.reg b := (rfl)
@[simp] theorem State.modWeir_rbit (k : Nat) (g : Weir → Weir) (b j : Nat) : (s.modWeir k g).rbit b j = s.rbit b j := (rfl)
@[simp] theorem State.modWeir_core (k : Nat) (g : Weir → Weir) (u : Tile) : (s.modWeir k g).core u = s.core u := (rfl)
@[simp] theorem State.modWeir_seq (k : Nat) (g : Weir → Weir) (u : Tile) : (s.modWeir k g).seq u = s.seq u := (rfl)
@[simp] theorem State.modWeir_arr (k : Nat) (g : Weir → Weir) (u : Tile) : (s.modWeir k g).arr u = s.arr u := (rfl)
@[simp] theorem State.modWeir_vec (k : Nat) (g : Weir → Weir) (u : Tile) : (s.modWeir k g).vec u = s.vec u := (rfl)
@[simp] theorem State.modWeir_mem (k : Nat) (g : Weir → Weir) (u : Tile) : (s.modWeir k g).mem u = s.mem u := (rfl)
@[simp] theorem State.modWeir_g (k : Nat) (g : Weir → Weir) (u : Tile) (r' : GReg) : (s.modWeir k g).g u r' = s.g u r' := (rfl)
@[simp] theorem State.modWeir_v (k : Nat) (g : Weir → Weir) (u : Tile) (r' : VReg) : (s.modWeir k g).v u r' = s.v u r' := (rfl)
@[simp] theorem State.modWeir_pc (k : Nat) (g : Weir → Weir) (u : Tile) : (s.modWeir k g).pc u = s.pc u := (rfl)
@[simp] theorem State.modWeir_fld (k : Nat) (g : Weir → Weir) (h : Field) : (s.modWeir k g).fld h = s.fld h := (rfl)
@[simp] theorem State.modWeir_prt (k : Nat) (g : Weir → Weir) (q : Part) : (s.modWeir k g).prt q = s.prt q := (rfl)
@[simp] theorem State.modWeir_port (k : Nat) (g : Weir → Weir) (z : Port) : (s.modWeir k g).port z = s.port z := (rfl)
@[simp] theorem State.modWeir_bank (k : Nat) (g : Weir → Weir) (j : Nat) : (s.modWeir k g).bank j = s.bank j := (rfl)
@[simp] theorem State.modWeir_arb (k : Nat) (g : Weir → Weir) (j : Nat) : (s.modWeir k g).arb j = s.arb j := (rfl)
@[simp] theorem State.modArb_reg (k : Nat) (g : Arb → Arb) (b : Nat) : (s.modArb k g).reg b = s.reg b := (rfl)
@[simp] theorem State.modArb_rbit (k : Nat) (g : Arb → Arb) (b j : Nat) : (s.modArb k g).rbit b j = s.rbit b j := (rfl)
@[simp] theorem State.modArb_core (k : Nat) (g : Arb → Arb) (u : Tile) : (s.modArb k g).core u = s.core u := (rfl)
@[simp] theorem State.modArb_seq (k : Nat) (g : Arb → Arb) (u : Tile) : (s.modArb k g).seq u = s.seq u := (rfl)
@[simp] theorem State.modArb_arr (k : Nat) (g : Arb → Arb) (u : Tile) : (s.modArb k g).arr u = s.arr u := (rfl)
@[simp] theorem State.modArb_vec (k : Nat) (g : Arb → Arb) (u : Tile) : (s.modArb k g).vec u = s.vec u := (rfl)
@[simp] theorem State.modArb_mem (k : Nat) (g : Arb → Arb) (u : Tile) : (s.modArb k g).mem u = s.mem u := (rfl)
@[simp] theorem State.modArb_g (k : Nat) (g : Arb → Arb) (u : Tile) (r' : GReg) : (s.modArb k g).g u r' = s.g u r' := (rfl)
@[simp] theorem State.modArb_v (k : Nat) (g : Arb → Arb) (u : Tile) (r' : VReg) : (s.modArb k g).v u r' = s.v u r' := (rfl)
@[simp] theorem State.modArb_pc (k : Nat) (g : Arb → Arb) (u : Tile) : (s.modArb k g).pc u = s.pc u := (rfl)
@[simp] theorem State.modArb_fld (k : Nat) (g : Arb → Arb) (h : Field) : (s.modArb k g).fld h = s.fld h := (rfl)
@[simp] theorem State.modArb_prt (k : Nat) (g : Arb → Arb) (q : Part) : (s.modArb k g).prt q = s.prt q := (rfl)
@[simp] theorem State.modArb_port (k : Nat) (g : Arb → Arb) (z : Port) : (s.modArb k g).port z = s.port z := (rfl)
@[simp] theorem State.modArb_bank (k : Nat) (g : Arb → Arb) (j : Nat) : (s.modArb k g).bank j = s.bank j := (rfl)
@[simp] theorem State.modArb_weir (k : Nat) (g : Arb → Arb) (j : Nat) : (s.modArb k g).weir j = s.weir j := (rfl)
@[simp] theorem State.modSvc_reg (g : SvcSt → SvcSt) (b : Nat) : (s.modSvc g).reg b = s.reg b := (rfl)
@[simp] theorem State.modSvc_rbit (g : SvcSt → SvcSt) (b j : Nat) : (s.modSvc g).rbit b j = s.rbit b j := (rfl)
@[simp] theorem State.modSvc_core (g : SvcSt → SvcSt) (u : Tile) : (s.modSvc g).core u = s.core u := (rfl)
@[simp] theorem State.modSvc_seq (g : SvcSt → SvcSt) (u : Tile) : (s.modSvc g).seq u = s.seq u := (rfl)
@[simp] theorem State.modSvc_arr (g : SvcSt → SvcSt) (u : Tile) : (s.modSvc g).arr u = s.arr u := (rfl)
@[simp] theorem State.modSvc_vec (g : SvcSt → SvcSt) (u : Tile) : (s.modSvc g).vec u = s.vec u := (rfl)
@[simp] theorem State.modSvc_mem (g : SvcSt → SvcSt) (u : Tile) : (s.modSvc g).mem u = s.mem u := (rfl)
@[simp] theorem State.modSvc_g (g : SvcSt → SvcSt) (u : Tile) (r' : GReg) : (s.modSvc g).g u r' = s.g u r' := (rfl)
@[simp] theorem State.modSvc_v (g : SvcSt → SvcSt) (u : Tile) (r' : VReg) : (s.modSvc g).v u r' = s.v u r' := (rfl)
@[simp] theorem State.modSvc_pc (g : SvcSt → SvcSt) (u : Tile) : (s.modSvc g).pc u = s.pc u := (rfl)
@[simp] theorem State.modSvc_fld (g : SvcSt → SvcSt) (h : Field) : (s.modSvc g).fld h = s.fld h := (rfl)
@[simp] theorem State.modSvc_prt (g : SvcSt → SvcSt) (q : Part) : (s.modSvc g).prt q = s.prt q := (rfl)
@[simp] theorem State.modSvc_port (g : SvcSt → SvcSt) (z : Port) : (s.modSvc g).port z = s.port z := (rfl)
@[simp] theorem State.modSvc_bank (g : SvcSt → SvcSt) (j : Nat) : (s.modSvc g).bank j = s.bank j := (rfl)
@[simp] theorem State.modSvc_weir (g : SvcSt → SvcSt) (j : Nat) : (s.modSvc g).weir j = s.weir j := (rfl)
@[simp] theorem State.modSvc_arb (g : SvcSt → SvcSt) (j : Nat) : (s.modSvc g).arb j = s.arb j := (rfl)
@[simp] theorem State.modGov_reg (g : GovSt → GovSt) (b : Nat) : (s.modGov g).reg b = s.reg b := (rfl)
@[simp] theorem State.modGov_rbit (g : GovSt → GovSt) (b j : Nat) : (s.modGov g).rbit b j = s.rbit b j := (rfl)
@[simp] theorem State.modGov_core (g : GovSt → GovSt) (u : Tile) : (s.modGov g).core u = s.core u := (rfl)
@[simp] theorem State.modGov_seq (g : GovSt → GovSt) (u : Tile) : (s.modGov g).seq u = s.seq u := (rfl)
@[simp] theorem State.modGov_arr (g : GovSt → GovSt) (u : Tile) : (s.modGov g).arr u = s.arr u := (rfl)
@[simp] theorem State.modGov_vec (g : GovSt → GovSt) (u : Tile) : (s.modGov g).vec u = s.vec u := (rfl)
@[simp] theorem State.modGov_mem (g : GovSt → GovSt) (u : Tile) : (s.modGov g).mem u = s.mem u := (rfl)
@[simp] theorem State.modGov_g (g : GovSt → GovSt) (u : Tile) (r' : GReg) : (s.modGov g).g u r' = s.g u r' := (rfl)
@[simp] theorem State.modGov_v (g : GovSt → GovSt) (u : Tile) (r' : VReg) : (s.modGov g).v u r' = s.v u r' := (rfl)
@[simp] theorem State.modGov_pc (g : GovSt → GovSt) (u : Tile) : (s.modGov g).pc u = s.pc u := (rfl)
@[simp] theorem State.modGov_fld (g : GovSt → GovSt) (h : Field) : (s.modGov g).fld h = s.fld h := (rfl)
@[simp] theorem State.modGov_prt (g : GovSt → GovSt) (q : Part) : (s.modGov g).prt q = s.prt q := (rfl)
@[simp] theorem State.modGov_port (g : GovSt → GovSt) (z : Port) : (s.modGov g).port z = s.port z := (rfl)
@[simp] theorem State.modGov_bank (g : GovSt → GovSt) (j : Nat) : (s.modGov g).bank j = s.bank j := (rfl)
@[simp] theorem State.modGov_weir (g : GovSt → GovSt) (j : Nat) : (s.modGov g).weir j = s.weir j := (rfl)
@[simp] theorem State.modGov_arb (g : GovSt → GovSt) (j : Nat) : (s.modGov g).arb j = s.arb j := (rfl)
@[simp] theorem State.modHub_reg (g : HubSt → HubSt) (b : Nat) : (s.modHub g).reg b = s.reg b := (rfl)
@[simp] theorem State.modHub_rbit (g : HubSt → HubSt) (b j : Nat) : (s.modHub g).rbit b j = s.rbit b j := (rfl)
@[simp] theorem State.modHub_core (g : HubSt → HubSt) (u : Tile) : (s.modHub g).core u = s.core u := (rfl)
@[simp] theorem State.modHub_seq (g : HubSt → HubSt) (u : Tile) : (s.modHub g).seq u = s.seq u := (rfl)
@[simp] theorem State.modHub_arr (g : HubSt → HubSt) (u : Tile) : (s.modHub g).arr u = s.arr u := (rfl)
@[simp] theorem State.modHub_vec (g : HubSt → HubSt) (u : Tile) : (s.modHub g).vec u = s.vec u := (rfl)
@[simp] theorem State.modHub_mem (g : HubSt → HubSt) (u : Tile) : (s.modHub g).mem u = s.mem u := (rfl)
@[simp] theorem State.modHub_g (g : HubSt → HubSt) (u : Tile) (r' : GReg) : (s.modHub g).g u r' = s.g u r' := (rfl)
@[simp] theorem State.modHub_v (g : HubSt → HubSt) (u : Tile) (r' : VReg) : (s.modHub g).v u r' = s.v u r' := (rfl)
@[simp] theorem State.modHub_pc (g : HubSt → HubSt) (u : Tile) : (s.modHub g).pc u = s.pc u := (rfl)
@[simp] theorem State.modHub_fld (g : HubSt → HubSt) (h : Field) : (s.modHub g).fld h = s.fld h := (rfl)
@[simp] theorem State.modHub_prt (g : HubSt → HubSt) (q : Part) : (s.modHub g).prt q = s.prt q := (rfl)
@[simp] theorem State.modHub_port (g : HubSt → HubSt) (z : Port) : (s.modHub g).port z = s.port z := (rfl)
@[simp] theorem State.modHub_bank (g : HubSt → HubSt) (j : Nat) : (s.modHub g).bank j = s.bank j := (rfl)
@[simp] theorem State.modHub_weir (g : HubSt → HubSt) (j : Nat) : (s.modHub g).weir j = s.weir j := (rfl)
@[simp] theorem State.modHub_arb (g : HubSt → HubSt) (j : Nat) : (s.modHub g).arb j = s.arb j := (rfl)
@[simp] theorem State.emit_reg (o : Out) (b : Nat) : (s.emit o).reg b = s.reg b := (rfl)
@[simp] theorem State.emit_rbit (o : Out) (b j : Nat) : (s.emit o).rbit b j = s.rbit b j := (rfl)
@[simp] theorem State.emit_core (o : Out) (u : Tile) : (s.emit o).core u = s.core u := (rfl)
@[simp] theorem State.emit_seq (o : Out) (u : Tile) : (s.emit o).seq u = s.seq u := (rfl)
@[simp] theorem State.emit_arr (o : Out) (u : Tile) : (s.emit o).arr u = s.arr u := (rfl)
@[simp] theorem State.emit_vec (o : Out) (u : Tile) : (s.emit o).vec u = s.vec u := (rfl)
@[simp] theorem State.emit_mem (o : Out) (u : Tile) : (s.emit o).mem u = s.mem u := (rfl)
@[simp] theorem State.emit_g (o : Out) (u : Tile) (r' : GReg) : (s.emit o).g u r' = s.g u r' := (rfl)
@[simp] theorem State.emit_v (o : Out) (u : Tile) (r' : VReg) : (s.emit o).v u r' = s.v u r' := (rfl)
@[simp] theorem State.emit_pc (o : Out) (u : Tile) : (s.emit o).pc u = s.pc u := (rfl)
@[simp] theorem State.emit_fld (o : Out) (h : Field) : (s.emit o).fld h = s.fld h := (rfl)
@[simp] theorem State.emit_prt (o : Out) (q : Part) : (s.emit o).prt q = s.prt q := (rfl)
@[simp] theorem State.emit_port (o : Out) (z : Port) : (s.emit o).port z = s.port z := (rfl)
@[simp] theorem State.emit_bank (o : Out) (j : Nat) : (s.emit o).bank j = s.bank j := (rfl)
@[simp] theorem State.emit_weir (o : Out) (j : Nat) : (s.emit o).weir j = s.weir j := (rfl)
@[simp] theorem State.emit_arb (o : Out) (j : Nat) : (s.emit o).arb j = s.arb j := (rfl)

/-! ## Registers -/

@[simp] theorem State.reg_setReg_same (a : Nat) (w : Word) : (s.setReg a w).reg a = w := SMap.get_set_same _ _ _ _
theorem State.reg_setReg_other (a b : Nat) (w : Word) (h : b ≠ a) : (s.setReg a w).reg b = s.reg b :=
  SMap.get_set_other _ _ _ _ _ h
theorem State.reg_setReg (a b : Nat) (w : Word) : (s.setReg a w).reg b = if b = a then w else s.reg b :=
  SMap.get_set _ _ _ _ _
@[simp] theorem State.reg_modReg_same (a : Nat) (f : Word → Word) : (s.modReg a f).reg a = f (s.reg a) :=
  s.reg_setReg_same a _
theorem State.reg_modReg_other (a b : Nat) (f : Word → Word) (h : b ≠ a) : (s.modReg a f).reg b = s.reg b :=
  s.reg_setReg_other a b _ h
theorem State.reg_modReg (a b : Nat) (f : Word → Word) : (s.modReg a f).reg b = if b = a then f (s.reg a) else s.reg b :=
  s.reg_setReg a b _
@[simp] theorem State.reg_count_same (a n : Nat) : (s.count a n).reg a = satAdd (s.reg a) n := s.reg_modReg_same a _
theorem State.reg_count_other (a b n : Nat) (h : b ≠ a) : (s.count a n).reg b = s.reg b := s.reg_modReg_other a b _ h
theorem State.reg_setRbit_other (a i b : Nat) (v : Bool) (h : b ≠ a) : (s.setRbit a i v).reg b = s.reg b :=
  s.reg_modReg_other a b _ h
@[simp] theorem State.reg_setRbit_same (a i : Nat) (v : Bool) : (s.setRbit a i v).reg a = setBit (s.reg a) i v :=
  s.reg_modReg_same a _
/-- A bit set reads back. -/
@[simp] theorem State.rbit_setRbit_same (a i : Nat) (v : Bool) (h : i < 32) : (s.setRbit a i v).rbit a i = v := by
  unfold State.rbit
  rw [State.reg_setRbit_same, bit_setBit_same _ _ _ h]
theorem State.rbit_setRbit_page (a i b j : Nat) (v : Bool) (h : b ≠ a) : (s.setRbit a i v).rbit b j = s.rbit b j := by
  unfold State.rbit
  rw [State.reg_setRbit_other _ _ _ _ _ h]
theorem State.rbit_setRbit_bit (a i j : Nat) (v : Bool) (h : j ≠ i) (hj : j < 32) :
    (s.setRbit a i v).rbit a j = s.rbit a j := by
  unfold State.rbit
  rw [State.reg_setRbit_same, bit_setBit_other _ _ _ _ h hj]
theorem State.rbit_setReg_other (a b j : Nat) (w : Word) (h : b ≠ a) : (s.setReg a w).rbit b j = s.rbit b j := by
  unfold State.rbit
  rw [State.reg_setReg_other _ _ _ _ h]
theorem State.rbit_modReg_other (a b j : Nat) (f : Word → Word) (h : b ≠ a) : (s.modReg a f).rbit b j = s.rbit b j :=
  s.rbit_setReg_other a b j _ h
theorem State.rbit_count_other (a b j n : Nat) (h : b ≠ a) : (s.count a n).rbit b j = s.rbit b j :=
  s.rbit_setReg_other a b j _ h

/-! ## Tile cores -/

@[simp] theorem State.core_setCore_same (t : Tile) (c : TileCore) : (s.setCore t c).core t = c := SMap.get_set_same _ _ _ _
theorem State.core_setCore_other (t u : Tile) (c : TileCore) (h : u ≠ t) : (s.setCore t c).core u = s.core u :=
  SMap.get_set_other _ _ _ _ _ (fun e => h (Fin.ext e))
theorem State.core_setCore (t u : Tile) (c : TileCore) : (s.setCore t c).core u = if u = t then c else s.core u := by
  split
  · rename_i h
    rw [h, State.core_setCore_same]
  · exact s.core_setCore_other t u c ‹_›
@[simp] theorem State.core_modCore_same (t : Tile) (f : TileCore → TileCore) : (s.modCore t f).core t = f (s.core t) :=
  s.core_setCore_same t _
theorem State.core_modCore_other (t u : Tile) (f : TileCore → TileCore) (h : u ≠ t) : (s.modCore t f).core u = s.core u :=
  s.core_setCore_other t u _ h

@[simp] theorem State.seq_modSeq_same (t : Tile) (f : SeqSt → SeqSt) : (s.modSeq t f).seq t = f (s.seq t) := by
  unfold State.modSeq State.seq
  rw [State.core_modCore_same]
theorem State.seq_modSeq_other (t u : Tile) (f : SeqSt → SeqSt) (h : u ≠ t) : (s.modSeq t f).seq u = s.seq u := by
  unfold State.modSeq State.seq
  rw [State.core_modCore_other _ _ _ _ h]
@[simp] theorem State.arr_modSeq (t u : Tile) (f : SeqSt → SeqSt) : (s.modSeq t f).arr u = s.arr u := by
  unfold State.modSeq State.arr State.modCore
  rw [State.core_setCore]
  split <;> simp_all
@[simp] theorem State.vec_modSeq (t u : Tile) (f : SeqSt → SeqSt) : (s.modSeq t f).vec u = s.vec u := by
  unfold State.modSeq State.vec State.modCore
  rw [State.core_setCore]
  split <;> simp_all
@[simp] theorem State.mem_modSeq (t u : Tile) (f : SeqSt → SeqSt) : (s.modSeq t f).mem u = s.mem u := by
  unfold State.modSeq State.mem State.modCore
  rw [State.core_setCore]
  split <;> simp_all
@[simp] theorem State.arr_modArr_same (t : Tile) (f : ArrSt → ArrSt) : (s.modArr t f).arr t = f (s.arr t) := by
  unfold State.modArr State.arr
  rw [State.core_modCore_same]
theorem State.arr_modArr_other (t u : Tile) (f : ArrSt → ArrSt) (h : u ≠ t) : (s.modArr t f).arr u = s.arr u := by
  unfold State.modArr State.arr
  rw [State.core_modCore_other _ _ _ _ h]
@[simp] theorem State.seq_modArr (t u : Tile) (f : ArrSt → ArrSt) : (s.modArr t f).seq u = s.seq u := by
  unfold State.modArr State.seq State.modCore
  rw [State.core_setCore]
  split <;> simp_all
@[simp] theorem State.vec_modArr (t u : Tile) (f : ArrSt → ArrSt) : (s.modArr t f).vec u = s.vec u := by
  unfold State.modArr State.vec State.modCore
  rw [State.core_setCore]
  split <;> simp_all
@[simp] theorem State.mem_modArr (t u : Tile) (f : ArrSt → ArrSt) : (s.modArr t f).mem u = s.mem u := by
  unfold State.modArr State.mem State.modCore
  rw [State.core_setCore]
  split <;> simp_all
@[simp] theorem State.vec_modVec_same (t : Tile) (f : VecSt → VecSt) : (s.modVec t f).vec t = f (s.vec t) := by
  unfold State.modVec State.vec
  rw [State.core_modCore_same]
theorem State.vec_modVec_other (t u : Tile) (f : VecSt → VecSt) (h : u ≠ t) : (s.modVec t f).vec u = s.vec u := by
  unfold State.modVec State.vec
  rw [State.core_modCore_other _ _ _ _ h]
@[simp] theorem State.seq_modVec (t u : Tile) (f : VecSt → VecSt) : (s.modVec t f).seq u = s.seq u := by
  unfold State.modVec State.seq State.modCore
  rw [State.core_setCore]
  split <;> simp_all
@[simp] theorem State.arr_modVec (t u : Tile) (f : VecSt → VecSt) : (s.modVec t f).arr u = s.arr u := by
  unfold State.modVec State.arr State.modCore
  rw [State.core_setCore]
  split <;> simp_all
@[simp] theorem State.mem_modVec (t u : Tile) (f : VecSt → VecSt) : (s.modVec t f).mem u = s.mem u := by
  unfold State.modVec State.mem State.modCore
  rw [State.core_setCore]
  split <;> simp_all
@[simp] theorem State.mem_modMem_same (t : Tile) (f : MemSt → MemSt) : (s.modMem t f).mem t = f (s.mem t) := by
  unfold State.modMem State.mem
  rw [State.core_modCore_same]
theorem State.mem_modMem_other (t u : Tile) (f : MemSt → MemSt) (h : u ≠ t) : (s.modMem t f).mem u = s.mem u := by
  unfold State.modMem State.mem
  rw [State.core_modCore_other _ _ _ _ h]
@[simp] theorem State.seq_modMem (t u : Tile) (f : MemSt → MemSt) : (s.modMem t f).seq u = s.seq u := by
  unfold State.modMem State.seq State.modCore
  rw [State.core_setCore]
  split <;> simp_all
@[simp] theorem State.arr_modMem (t u : Tile) (f : MemSt → MemSt) : (s.modMem t f).arr u = s.arr u := by
  unfold State.modMem State.arr State.modCore
  rw [State.core_setCore]
  split <;> simp_all
@[simp] theorem State.vec_modMem (t u : Tile) (f : MemSt → MemSt) : (s.modMem t f).vec u = s.vec u := by
  unfold State.modMem State.vec State.modCore
  rw [State.core_setCore]
  split <;> simp_all

/-! ## General registers, vector registers, program counter -/

/-- g0 reads as zero. -/
@[simp] theorem State.g_zero (t : Tile) : s.g t 0 = 0 := (rfl)

@[simp] theorem State.g_modArr (t u : Tile) (f : ArrSt → ArrSt) (r : GReg) : (s.modArr t f).g u r = s.g u r := by
  unfold State.g
  rw [State.seq_modArr]
@[simp] theorem State.g_modVec (t u : Tile) (f : VecSt → VecSt) (r : GReg) : (s.modVec t f).g u r = s.g u r := by
  unfold State.g
  rw [State.seq_modVec]
@[simp] theorem State.g_modMem (t u : Tile) (f : MemSt → MemSt) (r : GReg) : (s.modMem t f).g u r = s.g u r := by
  unfold State.g
  rw [State.seq_modMem]
@[simp] theorem State.pc_modArr (t u : Tile) (f : ArrSt → ArrSt) : (s.modArr t f).pc u = s.pc u := by
  unfold State.pc
  rw [State.seq_modArr]
@[simp] theorem State.pc_modVec (t u : Tile) (f : VecSt → VecSt) : (s.modVec t f).pc u = s.pc u := by
  unfold State.pc
  rw [State.seq_modVec]
@[simp] theorem State.pc_modMem (t u : Tile) (f : MemSt → MemSt) : (s.modMem t f).pc u = s.pc u := by
  unfold State.pc
  rw [State.seq_modMem]
@[simp] theorem State.v_modSeq (t u : Tile) (f : SeqSt → SeqSt) (r : VReg) : (s.modSeq t f).v u r = s.v u r := by
  unfold State.v
  rw [State.vec_modSeq]
@[simp] theorem State.v_modArr (t u : Tile) (f : ArrSt → ArrSt) (r : VReg) : (s.modArr t f).v u r = s.v u r := by
  unfold State.v
  rw [State.vec_modArr]
@[simp] theorem State.v_modMem (t u : Tile) (f : MemSt → MemSt) (r : VReg) : (s.modMem t f).v u r = s.v u r := by
  unfold State.v
  rw [State.vec_modMem]
@[simp] theorem State.v_setG (t u : Tile) (r : GReg) (w : Word) (r' : VReg) : (s.setG t r w).v u r' = s.v u r' :=
  s.v_modSeq t u _ r'
@[simp] theorem State.arr_setG (t u : Tile) (r : GReg) (w : Word) : (s.setG t r w).arr u = s.arr u := s.arr_modSeq t u _
@[simp] theorem State.vec_setG (t u : Tile) (r : GReg) (w : Word) : (s.setG t r w).vec u = s.vec u := s.vec_modSeq t u _
@[simp] theorem State.mem_setG (t u : Tile) (r : GReg) (w : Word) : (s.setG t r w).mem u = s.mem u := s.mem_modSeq t u _
@[simp] theorem State.seq_setV (t u : Tile) (r : VReg) (w : VWord) : (s.setV t r w).seq u = s.seq u := s.seq_modVec t u _
@[simp] theorem State.arr_setV (t u : Tile) (r : VReg) (w : VWord) : (s.setV t r w).arr u = s.arr u := s.arr_modVec t u _
@[simp] theorem State.mem_setV (t u : Tile) (r : VReg) (w : VWord) : (s.setV t r w).mem u = s.mem u := s.mem_modVec t u _
@[simp] theorem State.g_setV (t u : Tile) (r : VReg) (w : VWord) (r' : GReg) : (s.setV t r w).g u r' = s.g u r' :=
  s.g_modVec t u _ r'
@[simp] theorem State.pc_setV (t u : Tile) (r : VReg) (w : VWord) : (s.setV t r w).pc u = s.pc u := s.pc_modVec t u _

/-- A general register reads back as written; g0 stays zero (R35). -/
theorem SeqSt.reg_setReg (q : SeqSt) (r r' : GReg) (w : Word) :
    (q.setReg r w).reg r' = if r' = r ∧ r ≠ 0 then w else q.reg r' := by
  unfold SeqSt.setReg SeqSt.reg
  by_cases h : r = 0
  · simp [h]
  · by_cases h' : r' = 0
    · subst h'
      simp [h, Ne.symm h]
    · simp only [h, h', if_false, ne_eq, not_false_eq_true, and_true]
      rw [SMap.get_set]
      by_cases e : r' = r
      · simp [e]
      · have : r'.val ≠ r.val := fun h => e (Fin.ext h)
        simp [e, this]

theorem State.g_setG (t : Tile) (r r' : GReg) (w : Word) :
    (s.setG t r w).g t r' = if r' = r ∧ r ≠ 0 then w else s.g t r' := by
  unfold State.setG State.g
  rw [State.seq_modSeq_same, SeqSt.reg_setReg]
theorem State.g_setG_other (t u : Tile) (r r' : GReg) (w : Word) (h : u ≠ t) : (s.setG t r w).g u r' = s.g u r' := by
  unfold State.setG State.g
  rw [State.seq_modSeq_other _ _ _ _ h]

@[simp] theorem SeqSt.setReg_pc (q : SeqSt) (r : GReg) (w : Word) : (q.setReg r w).pc = q.pc := by
  unfold SeqSt.setReg
  split <;> rfl
@[simp] theorem State.pc_setG (t u : Tile) (r : GReg) (w : Word) : (s.setG t r w).pc u = s.pc u := by
  unfold State.setG State.pc
  by_cases h : u = t
  · subst h
    rw [State.seq_modSeq_same, SeqSt.setReg_pc]
  · rw [State.seq_modSeq_other _ _ _ _ h]

/-- A vector register reads back as written. -/
theorem State.v_setV (t : Tile) (r r' : VReg) (w : VWord) : (s.setV t r w).v t r' = if r' = r then w else s.v t r' := by
  unfold State.setV State.v
  rw [State.vec_modVec_same]
  simp only
  rw [SMap.get_set]
  by_cases e : r' = r
  · simp [e]
  · have : r'.val ≠ r.val := fun h => e (Fin.ext h)
    simp [e, this]

/-! ## Fields, partitions, ports, banks, weirs, arbiters -/

@[simp] theorem State.fld_modFld_same (k : Field) (g : FieldSt → FieldSt) : (s.modFld k g).fld k = g (s.fld k) := SMap.get_set_same _ _ _ _
theorem State.fld_modFld_other (k j : Field) (g : FieldSt → FieldSt) (h : j ≠ k) : (s.modFld k g).fld j = s.fld j :=
  SMap.get_set_other _ _ _ _ _ (fun e => h (Fin.ext e))
@[simp] theorem State.prt_modPart_same (k : Part) (g : PartSt → PartSt) : (s.modPart k g).prt k = g (s.prt k) := SMap.get_set_same _ _ _ _
theorem State.prt_modPart_other (k j : Part) (g : PartSt → PartSt) (h : j ≠ k) : (s.modPart k g).prt j = s.prt j :=
  SMap.get_set_other _ _ _ _ _ (fun e => h (Fin.ext e))
@[simp] theorem State.port_modPort_same (k : Port) (g : PortSt → PortSt) : (s.modPort k g).port k = g (s.port k) := SMap.get_set_same _ _ _ _
theorem State.port_modPort_other (k j : Port) (g : PortSt → PortSt) (h : j ≠ k) : (s.modPort k g).port j = s.port j :=
  SMap.get_set_other _ _ _ _ _ (fun e => h (Fin.ext e))
@[simp] theorem State.bank_modBank_same (k : Nat) (g : EngBank → EngBank) : (s.modBank k g).bank k = g (s.bank k) := SMap.get_set_same _ _ _ _
theorem State.bank_modBank_other (k j : Nat) (g : EngBank → EngBank) (h : j ≠ k) : (s.modBank k g).bank j = s.bank j :=
  SMap.get_set_other _ _ _ _ _ h
@[simp] theorem State.weir_modWeir_same (k : Nat) (g : Weir → Weir) : (s.modWeir k g).weir k = g (s.weir k) := SMap.get_set_same _ _ _ _
theorem State.weir_modWeir_other (k j : Nat) (g : Weir → Weir) (h : j ≠ k) : (s.modWeir k g).weir j = s.weir j :=
  SMap.get_set_other _ _ _ _ _ h
@[simp] theorem State.arb_modArb_same (k : Nat) (g : Arb → Arb) : (s.modArb k g).arb k = g (s.arb k) := SMap.get_set_same _ _ _ _
@[simp] theorem State.svc_modSvc (g : SvcSt → SvcSt) : (s.modSvc g).svc = g s.svc := (rfl)
@[simp] theorem State.gov_modGov (g : GovSt → GovSt) : (s.modGov g).gov = g s.gov := (rfl)
@[simp] theorem State.hub_modHub (g : HubSt → HubSt) : (s.modHub g).hub = g s.hub := (rfl)
@[simp] theorem State.out_emit (o : Out) : (s.emit o).out = s.out ++ [o] := (rfl)
@[simp] theorem State.each_nil {α : Type} (f : State → α → State) : s.each [] f = s := (rfl)
@[simp] theorem State.each_cons {α : Type} (x : α) (l : List α) (f : State → α → State) :
    s.each (x :: l) f = (f s x).each l f := (rfl)

end Sys2Proof.Machine
end

