-- ==== Sys2Proof/Laws/Ops.lean ====
section
/-!
SUPPORT. Laws of the shared operations of Ops.lean: what events, log entries, counters, ownership and safety checks do,
and what they leave alone.
-/

namespace Sys2Proof.Machine

variable (s : State)

/-! ## Folds -/

/-- What every turn of a fold keeps, the fold keeps. -/
theorem State.each_keeps {α β : Type} (P : State → β) (l : List α) (f : State → α → State) (h : ∀ s a, P (f s a) = P s) :
    P (s.each l f) = P s := by
  induction l generalizing s with
  | nil => rfl
  | cons a l ih => rw [State.each_cons, ih, h]

/-- A property that every turn of a fold keeps holds after it. -/
theorem State.each_inv {α : Type} (P : State → Prop) (l : List α) (f : State → α → State) (h : ∀ s a, P s → P (f s a))
    (h0 : P s) : P (s.each l f) := by
  induction l generalizing s with
  | nil => exact h0
  | cons a l ih => exact ih _ (h s a h0)

/-! ## Events (R253, R256) -/

/-- All that sendMsix can change. -/
theorem sendMsix_only (fn : Option Part) (hp : HostPort) (v : BitVec 11) :
    sendMsix s fn hp v = { s with hub := (sendMsix s fn hp v).hub, out := (sendMsix s fn hp v).out } := by
  unfold sendMsix
  split <;> rfl
@[simp] theorem sendMsix_pending (fn : Option Part) (hp : HostPort) (v : BitVec 11) : (sendMsix s fn hp v).pending = s.pending := by
  rw [sendMsix_only s fn hp v]
@[simp] theorem sendMsix_regs (fn : Option Part) (hp : HostPort) (v : BitVec 11) : (sendMsix s fn hp v).regs = s.regs := by
  rw [sendMsix_only s fn hp v]
@[simp] theorem sendMsix_cores (fn : Option Part) (hp : HostPort) (v : BitVec 11) : (sendMsix s fn hp v).cores = s.cores := by
  rw [sendMsix_only s fn hp v]
@[simp] theorem sendMsix_spares (fn : Option Part) (hp : HostPort) (v : BitVec 11) : (sendMsix s fn hp v).spares = s.spares := by
  rw [sendMsix_only s fn hp v]
@[simp] theorem sendMsix_wells (fn : Option Part) (hp : HostPort) (v : BitVec 11) : (sendMsix s fn hp v).wells = s.wells := by
  rw [sendMsix_only s fn hp v]
@[simp] theorem sendMsix_wellUe (fn : Option Part) (hp : HostPort) (v : BitVec 11) : (sendMsix s fn hp v).wellUe = s.wellUe := by
  rw [sendMsix_only s fn hp v]
@[simp] theorem sendMsix_wellCe (fn : Option Part) (hp : HostPort) (v : BitVec 11) : (sendMsix s fn hp v).wellCe = s.wellCe := by
  rw [sendMsix_only s fn hp v]
@[simp] theorem sendMsix_banks (fn : Option Part) (hp : HostPort) (v : BitVec 11) : (sendMsix s fn hp v).banks = s.banks := by
  rw [sendMsix_only s fn hp v]
@[simp] theorem sendMsix_fields (fn : Option Part) (hp : HostPort) (v : BitVec 11) : (sendMsix s fn hp v).fields = s.fields := by
  rw [sendMsix_only s fn hp v]
@[simp] theorem sendMsix_arbs (fn : Option Part) (hp : HostPort) (v : BitVec 11) : (sendMsix s fn hp v).arbs = s.arbs := by
  rw [sendMsix_only s fn hp v]
@[simp] theorem sendMsix_weirs (fn : Option Part) (hp : HostPort) (v : BitVec 11) : (sendMsix s fn hp v).weirs = s.weirs := by
  rw [sendMsix_only s fn hp v]
@[simp] theorem sendMsix_parts (fn : Option Part) (hp : HostPort) (v : BitVec 11) : (sendMsix s fn hp v).parts = s.parts := by
  rw [sendMsix_only s fn hp v]
@[simp] theorem sendMsix_ports (fn : Option Part) (hp : HostPort) (v : BitVec 11) : (sendMsix s fn hp v).ports = s.ports := by
  rw [sendMsix_only s fn hp v]
@[simp] theorem sendMsix_gov (fn : Option Part) (hp : HostPort) (v : BitVec 11) : (sendMsix s fn hp v).gov = s.gov := by
  rw [sendMsix_only s fn hp v]
@[simp] theorem sendMsix_svc (fn : Option Part) (hp : HostPort) (v : BitVec 11) : (sendMsix s fn hp v).svc = s.svc := by
  rw [sendMsix_only s fn hp v]
@[simp] theorem sendMsix_tsclk (fn : Option Part) (hp : HostPort) (v : BitVec 11) : (sendMsix s fn hp v).tsclk = s.tsclk := by
  rw [sendMsix_only s fn hp v]
@[simp] theorem sendMsix_freeCtr (fn : Option Part) (hp : HostPort) (v : BitVec 11) : (sendMsix s fn hp v).freeCtr = s.freeCtr := by
  rw [sendMsix_only s fn hp v]
@[simp] theorem sendMsix_reg (fn : Option Part) (hp : HostPort) (v : BitVec 11) (b : Nat) : (sendMsix s fn hp v).reg b = s.reg b := by
  simp only [State.reg, sendMsix_regs]
@[simp] theorem sendMsix_rbit (fn : Option Part) (hp : HostPort) (v : BitVec 11) (b j : Nat) : (sendMsix s fn hp v).rbit b j = s.rbit b j := by
  simp only [State.rbit, State.reg, sendMsix_regs]
@[simp] theorem sendMsix_core (fn : Option Part) (hp : HostPort) (v : BitVec 11) (u : Tile) : (sendMsix s fn hp v).core u = s.core u := by
  simp only [State.core, sendMsix_cores]
@[simp] theorem sendMsix_seq (fn : Option Part) (hp : HostPort) (v : BitVec 11) (u : Tile) : (sendMsix s fn hp v).seq u = s.seq u := by
  simp only [State.seq, State.core, sendMsix_cores]
@[simp] theorem sendMsix_arr (fn : Option Part) (hp : HostPort) (v : BitVec 11) (u : Tile) : (sendMsix s fn hp v).arr u = s.arr u := by
  simp only [State.arr, State.core, sendMsix_cores]
@[simp] theorem sendMsix_vec (fn : Option Part) (hp : HostPort) (v : BitVec 11) (u : Tile) : (sendMsix s fn hp v).vec u = s.vec u := by
  simp only [State.vec, State.core, sendMsix_cores]
@[simp] theorem sendMsix_mem (fn : Option Part) (hp : HostPort) (v : BitVec 11) (u : Tile) : (sendMsix s fn hp v).mem u = s.mem u := by
  simp only [State.mem, State.core, sendMsix_cores]
@[simp] theorem sendMsix_g (fn : Option Part) (hp : HostPort) (v : BitVec 11) (u : Tile) (r' : GReg) : (sendMsix s fn hp v).g u r' = s.g u r' := by
  simp only [State.g, State.seq, State.core, sendMsix_cores]
@[simp] theorem sendMsix_v (fn : Option Part) (hp : HostPort) (v : BitVec 11) (u : Tile) (r' : VReg) : (sendMsix s fn hp v).v u r' = s.v u r' := by
  simp only [State.v, State.vec, State.core, sendMsix_cores]
@[simp] theorem sendMsix_pc (fn : Option Part) (hp : HostPort) (v : BitVec 11) (u : Tile) : (sendMsix s fn hp v).pc u = s.pc u := by
  simp only [State.pc, State.seq, State.core, sendMsix_cores]
@[simp] theorem sendMsix_fld (fn : Option Part) (hp : HostPort) (v : BitVec 11) (h : Field) : (sendMsix s fn hp v).fld h = s.fld h := by
  simp only [State.fld, sendMsix_fields]
@[simp] theorem sendMsix_prt (fn : Option Part) (hp : HostPort) (v : BitVec 11) (q : Part) : (sendMsix s fn hp v).prt q = s.prt q := by
  simp only [State.prt, sendMsix_parts]
@[simp] theorem sendMsix_port (fn : Option Part) (hp : HostPort) (v : BitVec 11) (z : Port) : (sendMsix s fn hp v).port z = s.port z := by
  simp only [State.port, sendMsix_ports]
@[simp] theorem sendMsix_bank (fn : Option Part) (hp : HostPort) (v : BitVec 11) (j : Nat) : (sendMsix s fn hp v).bank j = s.bank j := by
  simp only [State.bank, sendMsix_banks]
@[simp] theorem sendMsix_weir (fn : Option Part) (hp : HostPort) (v : BitVec 11) (j : Nat) : (sendMsix s fn hp v).weir j = s.weir j := by
  simp only [State.weir, sendMsix_weirs]
@[simp] theorem sendMsix_arb (fn : Option Part) (hp : HostPort) (v : BitVec 11) (j : Nat) : (sendMsix s fn hp v).arb j = s.arb j := by
  simp only [State.arb, sendMsix_arbs]
/-- All that raiseEvent can change. -/
theorem raiseEvent_only (page : Nat) :
    raiseEvent s page = { s with hub := (raiseEvent s page).hub, out := (raiseEvent s page).out, regs := (raiseEvent s page).regs } := by
  unfold raiseEvent
  dsimp only
  split
  · split
    · rw [sendMsix_only]
    · rfl
  · cases pagePart s page
    · rfl
    · dsimp only
      rw [sendMsix_only]
@[simp] theorem raiseEvent_pending (page : Nat) : (raiseEvent s page).pending = s.pending := by
  rw [raiseEvent_only s page]
@[simp] theorem raiseEvent_cores (page : Nat) : (raiseEvent s page).cores = s.cores := by
  rw [raiseEvent_only s page]
@[simp] theorem raiseEvent_spares (page : Nat) : (raiseEvent s page).spares = s.spares := by
  rw [raiseEvent_only s page]
@[simp] theorem raiseEvent_wells (page : Nat) : (raiseEvent s page).wells = s.wells := by
  rw [raiseEvent_only s page]
@[simp] theorem raiseEvent_wellUe (page : Nat) : (raiseEvent s page).wellUe = s.wellUe := by
  rw [raiseEvent_only s page]
@[simp] theorem raiseEvent_wellCe (page : Nat) : (raiseEvent s page).wellCe = s.wellCe := by
  rw [raiseEvent_only s page]
@[simp] theorem raiseEvent_banks (page : Nat) : (raiseEvent s page).banks = s.banks := by
  rw [raiseEvent_only s page]
@[simp] theorem raiseEvent_fields (page : Nat) : (raiseEvent s page).fields = s.fields := by
  rw [raiseEvent_only s page]
@[simp] theorem raiseEvent_arbs (page : Nat) : (raiseEvent s page).arbs = s.arbs := by
  rw [raiseEvent_only s page]
@[simp] theorem raiseEvent_weirs (page : Nat) : (raiseEvent s page).weirs = s.weirs := by
  rw [raiseEvent_only s page]
@[simp] theorem raiseEvent_parts (page : Nat) : (raiseEvent s page).parts = s.parts := by
  rw [raiseEvent_only s page]
@[simp] theorem raiseEvent_ports (page : Nat) : (raiseEvent s page).ports = s.ports := by
  rw [raiseEvent_only s page]
@[simp] theorem raiseEvent_gov (page : Nat) : (raiseEvent s page).gov = s.gov := by
  rw [raiseEvent_only s page]
@[simp] theorem raiseEvent_svc (page : Nat) : (raiseEvent s page).svc = s.svc := by
  rw [raiseEvent_only s page]
@[simp] theorem raiseEvent_tsclk (page : Nat) : (raiseEvent s page).tsclk = s.tsclk := by
  rw [raiseEvent_only s page]
@[simp] theorem raiseEvent_freeCtr (page : Nat) : (raiseEvent s page).freeCtr = s.freeCtr := by
  rw [raiseEvent_only s page]
@[simp] theorem raiseEvent_core (page : Nat) (u : Tile) : (raiseEvent s page).core u = s.core u := by
  simp only [State.core, raiseEvent_cores]
@[simp] theorem raiseEvent_seq (page : Nat) (u : Tile) : (raiseEvent s page).seq u = s.seq u := by
  simp only [State.seq, State.core, raiseEvent_cores]
@[simp] theorem raiseEvent_arr (page : Nat) (u : Tile) : (raiseEvent s page).arr u = s.arr u := by
  simp only [State.arr, State.core, raiseEvent_cores]
@[simp] theorem raiseEvent_vec (page : Nat) (u : Tile) : (raiseEvent s page).vec u = s.vec u := by
  simp only [State.vec, State.core, raiseEvent_cores]
@[simp] theorem raiseEvent_mem (page : Nat) (u : Tile) : (raiseEvent s page).mem u = s.mem u := by
  simp only [State.mem, State.core, raiseEvent_cores]
@[simp] theorem raiseEvent_g (page : Nat) (u : Tile) (r' : GReg) : (raiseEvent s page).g u r' = s.g u r' := by
  simp only [State.g, State.seq, State.core, raiseEvent_cores]
@[simp] theorem raiseEvent_v (page : Nat) (u : Tile) (r' : VReg) : (raiseEvent s page).v u r' = s.v u r' := by
  simp only [State.v, State.vec, State.core, raiseEvent_cores]
@[simp] theorem raiseEvent_pc (page : Nat) (u : Tile) : (raiseEvent s page).pc u = s.pc u := by
  simp only [State.pc, State.seq, State.core, raiseEvent_cores]
@[simp] theorem raiseEvent_fld (page : Nat) (h : Field) : (raiseEvent s page).fld h = s.fld h := by
  simp only [State.fld, raiseEvent_fields]
@[simp] theorem raiseEvent_prt (page : Nat) (q : Part) : (raiseEvent s page).prt q = s.prt q := by
  simp only [State.prt, raiseEvent_parts]
@[simp] theorem raiseEvent_port (page : Nat) (z : Port) : (raiseEvent s page).port z = s.port z := by
  simp only [State.port, raiseEvent_ports]
@[simp] theorem raiseEvent_bank (page : Nat) (j : Nat) : (raiseEvent s page).bank j = s.bank j := by
  simp only [State.bank, raiseEvent_banks]
@[simp] theorem raiseEvent_weir (page : Nat) (j : Nat) : (raiseEvent s page).weir j = s.weir j := by
  simp only [State.weir, raiseEvent_weirs]
@[simp] theorem raiseEvent_arb (page : Nat) (j : Nat) : (raiseEvent s page).arb j = s.arb j := by
  simp only [State.arb, raiseEvent_arbs]
/-- All that setEvt can change. -/
theorem setEvt_only (page i : Nat) :
    setEvt s page i = { s with hub := (setEvt s page i).hub, out := (setEvt s page i).out, regs := (setEvt s page i).regs } := by
  unfold setEvt
  dsimp only
  split
  · rw [raiseEvent_only]
    rfl
  · rfl
@[simp] theorem setEvt_pending (page i : Nat) : (setEvt s page i).pending = s.pending := by
  rw [setEvt_only s page i]
@[simp] theorem setEvt_cores (page i : Nat) : (setEvt s page i).cores = s.cores := by
  rw [setEvt_only s page i]
@[simp] theorem setEvt_spares (page i : Nat) : (setEvt s page i).spares = s.spares := by
  rw [setEvt_only s page i]
@[simp] theorem setEvt_wells (page i : Nat) : (setEvt s page i).wells = s.wells := by
  rw [setEvt_only s page i]
@[simp] theorem setEvt_wellUe (page i : Nat) : (setEvt s page i).wellUe = s.wellUe := by
  rw [setEvt_only s page i]
@[simp] theorem setEvt_wellCe (page i : Nat) : (setEvt s page i).wellCe = s.wellCe := by
  rw [setEvt_only s page i]
@[simp] theorem setEvt_banks (page i : Nat) : (setEvt s page i).banks = s.banks := by
  rw [setEvt_only s page i]
@[simp] theorem setEvt_fields (page i : Nat) : (setEvt s page i).fields = s.fields := by
  rw [setEvt_only s page i]
@[simp] theorem setEvt_arbs (page i : Nat) : (setEvt s page i).arbs = s.arbs := by
  rw [setEvt_only s page i]
@[simp] theorem setEvt_weirs (page i : Nat) : (setEvt s page i).weirs = s.weirs := by
  rw [setEvt_only s page i]
@[simp] theorem setEvt_parts (page i : Nat) : (setEvt s page i).parts = s.parts := by
  rw [setEvt_only s page i]
@[simp] theorem setEvt_ports (page i : Nat) : (setEvt s page i).ports = s.ports := by
  rw [setEvt_only s page i]
@[simp] theorem setEvt_gov (page i : Nat) : (setEvt s page i).gov = s.gov := by
  rw [setEvt_only s page i]
@[simp] theorem setEvt_svc (page i : Nat) : (setEvt s page i).svc = s.svc := by
  rw [setEvt_only s page i]
@[simp] theorem setEvt_tsclk (page i : Nat) : (setEvt s page i).tsclk = s.tsclk := by
  rw [setEvt_only s page i]
@[simp] theorem setEvt_freeCtr (page i : Nat) : (setEvt s page i).freeCtr = s.freeCtr := by
  rw [setEvt_only s page i]
@[simp] theorem setEvt_core (page i : Nat) (u : Tile) : (setEvt s page i).core u = s.core u := by
  simp only [State.core, setEvt_cores]
@[simp] theorem setEvt_seq (page i : Nat) (u : Tile) : (setEvt s page i).seq u = s.seq u := by
  simp only [State.seq, State.core, setEvt_cores]
@[simp] theorem setEvt_arr (page i : Nat) (u : Tile) : (setEvt s page i).arr u = s.arr u := by
  simp only [State.arr, State.core, setEvt_cores]
@[simp] theorem setEvt_vec (page i : Nat) (u : Tile) : (setEvt s page i).vec u = s.vec u := by
  simp only [State.vec, State.core, setEvt_cores]
@[simp] theorem setEvt_mem (page i : Nat) (u : Tile) : (setEvt s page i).mem u = s.mem u := by
  simp only [State.mem, State.core, setEvt_cores]
@[simp] theorem setEvt_g (page i : Nat) (u : Tile) (r' : GReg) : (setEvt s page i).g u r' = s.g u r' := by
  simp only [State.g, State.seq, State.core, setEvt_cores]
@[simp] theorem setEvt_v (page i : Nat) (u : Tile) (r' : VReg) : (setEvt s page i).v u r' = s.v u r' := by
  simp only [State.v, State.vec, State.core, setEvt_cores]
@[simp] theorem setEvt_pc (page i : Nat) (u : Tile) : (setEvt s page i).pc u = s.pc u := by
  simp only [State.pc, State.seq, State.core, setEvt_cores]
@[simp] theorem setEvt_fld (page i : Nat) (h : Field) : (setEvt s page i).fld h = s.fld h := by
  simp only [State.fld, setEvt_fields]
@[simp] theorem setEvt_prt (page i : Nat) (q : Part) : (setEvt s page i).prt q = s.prt q := by
  simp only [State.prt, setEvt_parts]
@[simp] theorem setEvt_port (page i : Nat) (z : Port) : (setEvt s page i).port z = s.port z := by
  simp only [State.port, setEvt_ports]
@[simp] theorem setEvt_bank (page i : Nat) (j : Nat) : (setEvt s page i).bank j = s.bank j := by
  simp only [State.bank, setEvt_banks]
@[simp] theorem setEvt_weir (page i : Nat) (j : Nat) : (setEvt s page i).weir j = s.weir j := by
  simp only [State.weir, setEvt_weirs]
@[simp] theorem setEvt_arb (page i : Nat) (j : Nat) : (setEvt s page i).arb j = s.arb j := by
  simp only [State.arb, setEvt_arbs]

/-- Raising an event writes no register but the count of bad vectors. -/
theorem raiseEvent_reg (page b : Nat) (h : b ≠ hubPage 0 + 0x04C) : (raiseEvent s page).reg b = s.reg b := by
  unfold raiseEvent
  dsimp only
  split
  · split
    · rw [sendMsix_reg]
    · rw [State.reg_count_other _ _ _ _ h]
  · split
    · rw [sendMsix_reg]
    · rw [State.reg_count_other _ _ _ _ h]

/-- Setting an event bit writes that page's EVT_STS and no other register but the count of bad vectors. -/
theorem setEvt_reg (page i b : Nat) (h : b ≠ hubPage 0 + 0x04C) (h' : b ≠ page + 0x010) :
    (setEvt s page i).reg b = s.reg b := by
  unfold setEvt
  dsimp only
  split
  · rw [raiseEvent_reg _ _ _ h, State.reg_setRbit_other _ _ _ _ _ h']
  · rw [State.reg_setRbit_other _ _ _ _ _ h']

theorem setEvt_rbit (page i b j : Nat) (h : b ≠ hubPage 0 + 0x04C) (h' : b ≠ page + 0x010) :
    (setEvt s page i).rbit b j = s.rbit b j := by
  unfold State.rbit
  rw [setEvt_reg _ _ _ _ h h']

/-- The event bit is set afterwards. -/
theorem setEvt_sets (page i : Nat) (hi : i < 32) (h : page + 0x010 ≠ hubPage 0 + 0x04C) :
    (setEvt s page i).rbit (page + 0x010) i = true := by
  unfold setEvt State.rbit
  dsimp only
  split
  · rw [raiseEvent_reg _ _ _ h, State.reg_setRbit_same, bit_setBit_same _ _ _ hi]
  · rw [State.reg_setRbit_same, bit_setBit_same _ _ _ hi]

/-- The other event bits of the page stay. -/
theorem setEvt_keeps (page i j : Nat) (hj : j < 32) (hne : j ≠ i) (h : page + 0x010 ≠ hubPage 0 + 0x04C) :
    (setEvt s page i).rbit (page + 0x010) j = s.rbit (page + 0x010) j := by
  unfold setEvt State.rbit
  dsimp only
  split
  · rw [raiseEvent_reg _ _ _ h, State.reg_setRbit_same, bit_setBit_other _ _ _ _ hne hj]
  · rw [State.reg_setRbit_same, bit_setBit_other _ _ _ _ hne hj]

/-! ## Event log (R337) -/


theorem emitAll_only {α : Type} (l : List α) (f : State → α → Out) :
    s.each l (fun s a => s.emit (f s a)) = { s with out := (s.each l fun s a => s.emit (f s a)).out } := by
  induction l generalizing s with
  | nil => rfl
  | cons a l ih =>
    rw [State.each_cons, ih]
    rfl

/-- All that platformEvent can change. -/
theorem platformEvent_only (cls : Nat) :
    platformEvent s cls = { s with out := (platformEvent s cls).out } := by
  unfold platformEvent
  split
  · exact emitAll_only s _ (fun s (e : Endpoint × BitVec 8) => Out.svc (some e.1) (SvcMsg.event s.svc.logSeq))
  · rfl
@[simp] theorem platformEvent_pending (cls : Nat) : (platformEvent s cls).pending = s.pending := by
  rw [platformEvent_only s cls]
@[simp] theorem platformEvent_regs (cls : Nat) : (platformEvent s cls).regs = s.regs := by
  rw [platformEvent_only s cls]
@[simp] theorem platformEvent_cores (cls : Nat) : (platformEvent s cls).cores = s.cores := by
  rw [platformEvent_only s cls]
@[simp] theorem platformEvent_spares (cls : Nat) : (platformEvent s cls).spares = s.spares := by
  rw [platformEvent_only s cls]
@[simp] theorem platformEvent_wells (cls : Nat) : (platformEvent s cls).wells = s.wells := by
  rw [platformEvent_only s cls]
@[simp] theorem platformEvent_wellUe (cls : Nat) : (platformEvent s cls).wellUe = s.wellUe := by
  rw [platformEvent_only s cls]
@[simp] theorem platformEvent_wellCe (cls : Nat) : (platformEvent s cls).wellCe = s.wellCe := by
  rw [platformEvent_only s cls]
@[simp] theorem platformEvent_banks (cls : Nat) : (platformEvent s cls).banks = s.banks := by
  rw [platformEvent_only s cls]
@[simp] theorem platformEvent_fields (cls : Nat) : (platformEvent s cls).fields = s.fields := by
  rw [platformEvent_only s cls]
@[simp] theorem platformEvent_arbs (cls : Nat) : (platformEvent s cls).arbs = s.arbs := by
  rw [platformEvent_only s cls]
@[simp] theorem platformEvent_weirs (cls : Nat) : (platformEvent s cls).weirs = s.weirs := by
  rw [platformEvent_only s cls]
@[simp] theorem platformEvent_parts (cls : Nat) : (platformEvent s cls).parts = s.parts := by
  rw [platformEvent_only s cls]
@[simp] theorem platformEvent_ports (cls : Nat) : (platformEvent s cls).ports = s.ports := by
  rw [platformEvent_only s cls]
@[simp] theorem platformEvent_hub (cls : Nat) : (platformEvent s cls).hub = s.hub := by
  rw [platformEvent_only s cls]
@[simp] theorem platformEvent_gov (cls : Nat) : (platformEvent s cls).gov = s.gov := by
  rw [platformEvent_only s cls]
@[simp] theorem platformEvent_svc (cls : Nat) : (platformEvent s cls).svc = s.svc := by
  rw [platformEvent_only s cls]
@[simp] theorem platformEvent_tsclk (cls : Nat) : (platformEvent s cls).tsclk = s.tsclk := by
  rw [platformEvent_only s cls]
@[simp] theorem platformEvent_freeCtr (cls : Nat) : (platformEvent s cls).freeCtr = s.freeCtr := by
  rw [platformEvent_only s cls]
@[simp] theorem platformEvent_reg (cls : Nat) (b : Nat) : (platformEvent s cls).reg b = s.reg b := by
  simp only [State.reg, platformEvent_regs]
@[simp] theorem platformEvent_rbit (cls : Nat) (b j : Nat) : (platformEvent s cls).rbit b j = s.rbit b j := by
  simp only [State.rbit, State.reg, platformEvent_regs]
@[simp] theorem platformEvent_core (cls : Nat) (u : Tile) : (platformEvent s cls).core u = s.core u := by
  simp only [State.core, platformEvent_cores]
@[simp] theorem platformEvent_seq (cls : Nat) (u : Tile) : (platformEvent s cls).seq u = s.seq u := by
  simp only [State.seq, State.core, platformEvent_cores]
@[simp] theorem platformEvent_arr (cls : Nat) (u : Tile) : (platformEvent s cls).arr u = s.arr u := by
  simp only [State.arr, State.core, platformEvent_cores]
@[simp] theorem platformEvent_vec (cls : Nat) (u : Tile) : (platformEvent s cls).vec u = s.vec u := by
  simp only [State.vec, State.core, platformEvent_cores]
@[simp] theorem platformEvent_mem (cls : Nat) (u : Tile) : (platformEvent s cls).mem u = s.mem u := by
  simp only [State.mem, State.core, platformEvent_cores]
@[simp] theorem platformEvent_g (cls : Nat) (u : Tile) (r' : GReg) : (platformEvent s cls).g u r' = s.g u r' := by
  simp only [State.g, State.seq, State.core, platformEvent_cores]
@[simp] theorem platformEvent_v (cls : Nat) (u : Tile) (r' : VReg) : (platformEvent s cls).v u r' = s.v u r' := by
  simp only [State.v, State.vec, State.core, platformEvent_cores]
@[simp] theorem platformEvent_pc (cls : Nat) (u : Tile) : (platformEvent s cls).pc u = s.pc u := by
  simp only [State.pc, State.seq, State.core, platformEvent_cores]
@[simp] theorem platformEvent_fld (cls : Nat) (h : Field) : (platformEvent s cls).fld h = s.fld h := by
  simp only [State.fld, platformEvent_fields]
@[simp] theorem platformEvent_prt (cls : Nat) (q : Part) : (platformEvent s cls).prt q = s.prt q := by
  simp only [State.prt, platformEvent_parts]
@[simp] theorem platformEvent_port (cls : Nat) (z : Port) : (platformEvent s cls).port z = s.port z := by
  simp only [State.port, platformEvent_ports]
@[simp] theorem platformEvent_bank (cls : Nat) (j : Nat) : (platformEvent s cls).bank j = s.bank j := by
  simp only [State.bank, platformEvent_banks]
@[simp] theorem platformEvent_weir (cls : Nat) (j : Nat) : (platformEvent s cls).weir j = s.weir j := by
  simp only [State.weir, platformEvent_weirs]
@[simp] theorem platformEvent_arb (cls : Nat) (j : Nat) : (platformEvent s cls).arb j = s.arb j := by
  simp only [State.arb, platformEvent_arbs]
/-- All that logEv can change. -/
theorem logEv_only (cls cause : Nat) (un : BitVec 16) (a : Nat) (m : Option Master) (d : Nat) :
    logEv s cls cause un a m d = { s with out := (logEv s cls cause un a m d).out, svc := (logEv s cls cause un a m d).svc } := by
  unfold logEv
  rw [platformEvent_only]
  rfl
@[simp] theorem logEv_pending (cls cause : Nat) (un : BitVec 16) (a : Nat) (m : Option Master) (d : Nat) : (logEv s cls cause un a m d).pending = s.pending := by
  rw [logEv_only s cls cause un a m d]
@[simp] theorem logEv_regs (cls cause : Nat) (un : BitVec 16) (a : Nat) (m : Option Master) (d : Nat) : (logEv s cls cause un a m d).regs = s.regs := by
  rw [logEv_only s cls cause un a m d]
@[simp] theorem logEv_cores (cls cause : Nat) (un : BitVec 16) (a : Nat) (m : Option Master) (d : Nat) : (logEv s cls cause un a m d).cores = s.cores := by
  rw [logEv_only s cls cause un a m d]
@[simp] theorem logEv_spares (cls cause : Nat) (un : BitVec 16) (a : Nat) (m : Option Master) (d : Nat) : (logEv s cls cause un a m d).spares = s.spares := by
  rw [logEv_only s cls cause un a m d]
@[simp] theorem logEv_wells (cls cause : Nat) (un : BitVec 16) (a : Nat) (m : Option Master) (d : Nat) : (logEv s cls cause un a m d).wells = s.wells := by
  rw [logEv_only s cls cause un a m d]
@[simp] theorem logEv_wellUe (cls cause : Nat) (un : BitVec 16) (a : Nat) (m : Option Master) (d : Nat) : (logEv s cls cause un a m d).wellUe = s.wellUe := by
  rw [logEv_only s cls cause un a m d]
@[simp] theorem logEv_wellCe (cls cause : Nat) (un : BitVec 16) (a : Nat) (m : Option Master) (d : Nat) : (logEv s cls cause un a m d).wellCe = s.wellCe := by
  rw [logEv_only s cls cause un a m d]
@[simp] theorem logEv_banks (cls cause : Nat) (un : BitVec 16) (a : Nat) (m : Option Master) (d : Nat) : (logEv s cls cause un a m d).banks = s.banks := by
  rw [logEv_only s cls cause un a m d]
@[simp] theorem logEv_fields (cls cause : Nat) (un : BitVec 16) (a : Nat) (m : Option Master) (d : Nat) : (logEv s cls cause un a m d).fields = s.fields := by
  rw [logEv_only s cls cause un a m d]
@[simp] theorem logEv_arbs (cls cause : Nat) (un : BitVec 16) (a : Nat) (m : Option Master) (d : Nat) : (logEv s cls cause un a m d).arbs = s.arbs := by
  rw [logEv_only s cls cause un a m d]
@[simp] theorem logEv_weirs (cls cause : Nat) (un : BitVec 16) (a : Nat) (m : Option Master) (d : Nat) : (logEv s cls cause un a m d).weirs = s.weirs := by
  rw [logEv_only s cls cause un a m d]
@[simp] theorem logEv_parts (cls cause : Nat) (un : BitVec 16) (a : Nat) (m : Option Master) (d : Nat) : (logEv s cls cause un a m d).parts = s.parts := by
  rw [logEv_only s cls cause un a m d]
@[simp] theorem logEv_ports (cls cause : Nat) (un : BitVec 16) (a : Nat) (m : Option Master) (d : Nat) : (logEv s cls cause un a m d).ports = s.ports := by
  rw [logEv_only s cls cause un a m d]
@[simp] theorem logEv_hub (cls cause : Nat) (un : BitVec 16) (a : Nat) (m : Option Master) (d : Nat) : (logEv s cls cause un a m d).hub = s.hub := by
  rw [logEv_only s cls cause un a m d]
@[simp] theorem logEv_gov (cls cause : Nat) (un : BitVec 16) (a : Nat) (m : Option Master) (d : Nat) : (logEv s cls cause un a m d).gov = s.gov := by
  rw [logEv_only s cls cause un a m d]
@[simp] theorem logEv_tsclk (cls cause : Nat) (un : BitVec 16) (a : Nat) (m : Option Master) (d : Nat) : (logEv s cls cause un a m d).tsclk = s.tsclk := by
  rw [logEv_only s cls cause un a m d]
@[simp] theorem logEv_freeCtr (cls cause : Nat) (un : BitVec 16) (a : Nat) (m : Option Master) (d : Nat) : (logEv s cls cause un a m d).freeCtr = s.freeCtr := by
  rw [logEv_only s cls cause un a m d]
@[simp] theorem logEv_reg (cls cause : Nat) (un : BitVec 16) (a : Nat) (m : Option Master) (d : Nat) (b : Nat) : (logEv s cls cause un a m d).reg b = s.reg b := by
  simp only [State.reg, logEv_regs]
@[simp] theorem logEv_rbit (cls cause : Nat) (un : BitVec 16) (a : Nat) (m : Option Master) (d : Nat) (b j : Nat) : (logEv s cls cause un a m d).rbit b j = s.rbit b j := by
  simp only [State.rbit, State.reg, logEv_regs]
@[simp] theorem logEv_core (cls cause : Nat) (un : BitVec 16) (a : Nat) (m : Option Master) (d : Nat) (u : Tile) : (logEv s cls cause un a m d).core u = s.core u := by
  simp only [State.core, logEv_cores]
@[simp] theorem logEv_seq (cls cause : Nat) (un : BitVec 16) (a : Nat) (m : Option Master) (d : Nat) (u : Tile) : (logEv s cls cause un a m d).seq u = s.seq u := by
  simp only [State.seq, State.core, logEv_cores]
@[simp] theorem logEv_arr (cls cause : Nat) (un : BitVec 16) (a : Nat) (m : Option Master) (d : Nat) (u : Tile) : (logEv s cls cause un a m d).arr u = s.arr u := by
  simp only [State.arr, State.core, logEv_cores]
@[simp] theorem logEv_vec (cls cause : Nat) (un : BitVec 16) (a : Nat) (m : Option Master) (d : Nat) (u : Tile) : (logEv s cls cause un a m d).vec u = s.vec u := by
  simp only [State.vec, State.core, logEv_cores]
@[simp] theorem logEv_mem (cls cause : Nat) (un : BitVec 16) (a : Nat) (m : Option Master) (d : Nat) (u : Tile) : (logEv s cls cause un a m d).mem u = s.mem u := by
  simp only [State.mem, State.core, logEv_cores]
@[simp] theorem logEv_g (cls cause : Nat) (un : BitVec 16) (a : Nat) (m : Option Master) (d : Nat) (u : Tile) (r' : GReg) : (logEv s cls cause un a m d).g u r' = s.g u r' := by
  simp only [State.g, State.seq, State.core, logEv_cores]
@[simp] theorem logEv_v (cls cause : Nat) (un : BitVec 16) (a : Nat) (m : Option Master) (d : Nat) (u : Tile) (r' : VReg) : (logEv s cls cause un a m d).v u r' = s.v u r' := by
  simp only [State.v, State.vec, State.core, logEv_cores]
@[simp] theorem logEv_pc (cls cause : Nat) (un : BitVec 16) (a : Nat) (m : Option Master) (d : Nat) (u : Tile) : (logEv s cls cause un a m d).pc u = s.pc u := by
  simp only [State.pc, State.seq, State.core, logEv_cores]
@[simp] theorem logEv_fld (cls cause : Nat) (un : BitVec 16) (a : Nat) (m : Option Master) (d : Nat) (h : Field) : (logEv s cls cause un a m d).fld h = s.fld h := by
  simp only [State.fld, logEv_fields]
@[simp] theorem logEv_prt (cls cause : Nat) (un : BitVec 16) (a : Nat) (m : Option Master) (d : Nat) (q : Part) : (logEv s cls cause un a m d).prt q = s.prt q := by
  simp only [State.prt, logEv_parts]
@[simp] theorem logEv_port (cls cause : Nat) (un : BitVec 16) (a : Nat) (m : Option Master) (d : Nat) (z : Port) : (logEv s cls cause un a m d).port z = s.port z := by
  simp only [State.port, logEv_ports]
@[simp] theorem logEv_bank (cls cause : Nat) (un : BitVec 16) (a : Nat) (m : Option Master) (d : Nat) (j : Nat) : (logEv s cls cause un a m d).bank j = s.bank j := by
  simp only [State.bank, logEv_banks]
@[simp] theorem logEv_weir (cls cause : Nat) (un : BitVec 16) (a : Nat) (m : Option Master) (d : Nat) (j : Nat) : (logEv s cls cause un a m d).weir j = s.weir j := by
  simp only [State.weir, logEv_weirs]
@[simp] theorem logEv_arb (cls cause : Nat) (un : BitVec 16) (a : Nat) (m : Option Master) (d : Nat) (j : Nat) : (logEv s cls cause un a m d).arb j = s.arb j := by
  simp only [State.arb, logEv_arbs]
/-- All that reportLoss can change. -/
theorem reportLoss_only (un : BitVec 16) (page dpa : Nat) :
    reportLoss s un page dpa = { s with out := (reportLoss s un page dpa).out, svc := (reportLoss s un page dpa).svc } := by
  unfold reportLoss
  rw [logEv_only]
@[simp] theorem reportLoss_pending (un : BitVec 16) (page dpa : Nat) : (reportLoss s un page dpa).pending = s.pending := by
  rw [reportLoss_only s un page dpa]
@[simp] theorem reportLoss_regs (un : BitVec 16) (page dpa : Nat) : (reportLoss s un page dpa).regs = s.regs := by
  rw [reportLoss_only s un page dpa]
@[simp] theorem reportLoss_cores (un : BitVec 16) (page dpa : Nat) : (reportLoss s un page dpa).cores = s.cores := by
  rw [reportLoss_only s un page dpa]
@[simp] theorem reportLoss_spares (un : BitVec 16) (page dpa : Nat) : (reportLoss s un page dpa).spares = s.spares := by
  rw [reportLoss_only s un page dpa]
@[simp] theorem reportLoss_wells (un : BitVec 16) (page dpa : Nat) : (reportLoss s un page dpa).wells = s.wells := by
  rw [reportLoss_only s un page dpa]
@[simp] theorem reportLoss_wellUe (un : BitVec 16) (page dpa : Nat) : (reportLoss s un page dpa).wellUe = s.wellUe := by
  rw [reportLoss_only s un page dpa]
@[simp] theorem reportLoss_wellCe (un : BitVec 16) (page dpa : Nat) : (reportLoss s un page dpa).wellCe = s.wellCe := by
  rw [reportLoss_only s un page dpa]
@[simp] theorem reportLoss_banks (un : BitVec 16) (page dpa : Nat) : (reportLoss s un page dpa).banks = s.banks := by
  rw [reportLoss_only s un page dpa]
@[simp] theorem reportLoss_fields (un : BitVec 16) (page dpa : Nat) : (reportLoss s un page dpa).fields = s.fields := by
  rw [reportLoss_only s un page dpa]
@[simp] theorem reportLoss_arbs (un : BitVec 16) (page dpa : Nat) : (reportLoss s un page dpa).arbs = s.arbs := by
  rw [reportLoss_only s un page dpa]
@[simp] theorem reportLoss_weirs (un : BitVec 16) (page dpa : Nat) : (reportLoss s un page dpa).weirs = s.weirs := by
  rw [reportLoss_only s un page dpa]
@[simp] theorem reportLoss_parts (un : BitVec 16) (page dpa : Nat) : (reportLoss s un page dpa).parts = s.parts := by
  rw [reportLoss_only s un page dpa]
@[simp] theorem reportLoss_ports (un : BitVec 16) (page dpa : Nat) : (reportLoss s un page dpa).ports = s.ports := by
  rw [reportLoss_only s un page dpa]
@[simp] theorem reportLoss_hub (un : BitVec 16) (page dpa : Nat) : (reportLoss s un page dpa).hub = s.hub := by
  rw [reportLoss_only s un page dpa]
@[simp] theorem reportLoss_gov (un : BitVec 16) (page dpa : Nat) : (reportLoss s un page dpa).gov = s.gov := by
  rw [reportLoss_only s un page dpa]
@[simp] theorem reportLoss_tsclk (un : BitVec 16) (page dpa : Nat) : (reportLoss s un page dpa).tsclk = s.tsclk := by
  rw [reportLoss_only s un page dpa]
@[simp] theorem reportLoss_freeCtr (un : BitVec 16) (page dpa : Nat) : (reportLoss s un page dpa).freeCtr = s.freeCtr := by
  rw [reportLoss_only s un page dpa]
@[simp] theorem reportLoss_reg (un : BitVec 16) (page dpa : Nat) (b : Nat) : (reportLoss s un page dpa).reg b = s.reg b := by
  simp only [State.reg, reportLoss_regs]
@[simp] theorem reportLoss_rbit (un : BitVec 16) (page dpa : Nat) (b j : Nat) : (reportLoss s un page dpa).rbit b j = s.rbit b j := by
  simp only [State.rbit, State.reg, reportLoss_regs]
@[simp] theorem reportLoss_core (un : BitVec 16) (page dpa : Nat) (u : Tile) : (reportLoss s un page dpa).core u = s.core u := by
  simp only [State.core, reportLoss_cores]
@[simp] theorem reportLoss_seq (un : BitVec 16) (page dpa : Nat) (u : Tile) : (reportLoss s un page dpa).seq u = s.seq u := by
  simp only [State.seq, State.core, reportLoss_cores]
@[simp] theorem reportLoss_arr (un : BitVec 16) (page dpa : Nat) (u : Tile) : (reportLoss s un page dpa).arr u = s.arr u := by
  simp only [State.arr, State.core, reportLoss_cores]
@[simp] theorem reportLoss_vec (un : BitVec 16) (page dpa : Nat) (u : Tile) : (reportLoss s un page dpa).vec u = s.vec u := by
  simp only [State.vec, State.core, reportLoss_cores]
@[simp] theorem reportLoss_mem (un : BitVec 16) (page dpa : Nat) (u : Tile) : (reportLoss s un page dpa).mem u = s.mem u := by
  simp only [State.mem, State.core, reportLoss_cores]
@[simp] theorem reportLoss_g (un : BitVec 16) (page dpa : Nat) (u : Tile) (r' : GReg) : (reportLoss s un page dpa).g u r' = s.g u r' := by
  simp only [State.g, State.seq, State.core, reportLoss_cores]
@[simp] theorem reportLoss_v (un : BitVec 16) (page dpa : Nat) (u : Tile) (r' : VReg) : (reportLoss s un page dpa).v u r' = s.v u r' := by
  simp only [State.v, State.vec, State.core, reportLoss_cores]
@[simp] theorem reportLoss_pc (un : BitVec 16) (page dpa : Nat) (u : Tile) : (reportLoss s un page dpa).pc u = s.pc u := by
  simp only [State.pc, State.seq, State.core, reportLoss_cores]
@[simp] theorem reportLoss_fld (un : BitVec 16) (page dpa : Nat) (h : Field) : (reportLoss s un page dpa).fld h = s.fld h := by
  simp only [State.fld, reportLoss_fields]
@[simp] theorem reportLoss_prt (un : BitVec 16) (page dpa : Nat) (q : Part) : (reportLoss s un page dpa).prt q = s.prt q := by
  simp only [State.prt, reportLoss_parts]
@[simp] theorem reportLoss_port (un : BitVec 16) (page dpa : Nat) (z : Port) : (reportLoss s un page dpa).port z = s.port z := by
  simp only [State.port, reportLoss_ports]
@[simp] theorem reportLoss_bank (un : BitVec 16) (page dpa : Nat) (j : Nat) : (reportLoss s un page dpa).bank j = s.bank j := by
  simp only [State.bank, reportLoss_banks]
@[simp] theorem reportLoss_weir (un : BitVec 16) (page dpa : Nat) (j : Nat) : (reportLoss s un page dpa).weir j = s.weir j := by
  simp only [State.weir, reportLoss_weirs]
@[simp] theorem reportLoss_arb (un : BitVec 16) (page dpa : Nat) (j : Nat) : (reportLoss s un page dpa).arb j = s.arb j := by
  simp only [State.arb, reportLoss_arbs]

/-- The newest entry of the log, as written. -/
theorem logEv_entry (cls cause : Nat) (u : BitVec 16) (a : Nat) (m : Option Master) (d : Nat) :
    ∃ e, (logEv s cls cause u a m d).svc.log = (e :: s.svc.log).take 4096 ∧ e.cls = BitVec.ofNat 8 cls
      ∧ e.time = s.tsclk ∧ e.seq = s.svc.logSeq ∧ e.unit = u ∧ e.data = BitVec.ofNat 64 d := by
  refine ⟨_, by unfold logEv; simp only [State.svc_modSvc, platformEvent_svc]; rfl, rfl, rfl, rfl, rfl, rfl⟩

theorem logEv_logSeq (cls cause : Nat) (u : BitVec 16) (a : Nat) (m : Option Master) (d : Nat) :
    (logEv s cls cause u a m d).svc.logSeq = s.svc.logSeq + 1 := by
  unfold logEv
  simp

/-! ## Ownership and safety of writes (R257, R259) -/

/-- A master that may write does. -/
theorem owned_yes (m : Master) (a v : Nat) (k : State → State) (h : mayWrite s m (pageBase a) = true) :
    owned s m a v k = k s := by
  unfold owned
  rw [if_pos h]

/-- A master that may not write is turned away: the write is counted and logged, and nothing else happens. -/
theorem owned_no (m : Master) (a v : Nat) (k : State → State) (h : mayWrite s m (pageBase a) = false) :
    owned s m a v k = ownReject s m a v := by
  unfold owned
  rw [if_neg (by simp [h])]

@[simp] theorem mayWrite_svp (page : Nat) : mayWrite s .svp page = true := rfl
@[simp] theorem mayWrite_pf (h : HostPort) (page : Nat) : mayWrite s (.pf h) page = true := rfl

/-- All that ownReject can change. -/
theorem ownReject_only (m : Master) (a v : Nat) :
    ownReject s m a v = { s with out := (ownReject s m a v).out, svc := (ownReject s m a v).svc, regs := (ownReject s m a v).regs } := by
  unfold ownReject
  rw [logEv_only]
  rfl
@[simp] theorem ownReject_pending (m : Master) (a v : Nat) : (ownReject s m a v).pending = s.pending := by
  rw [ownReject_only s m a v]
@[simp] theorem ownReject_cores (m : Master) (a v : Nat) : (ownReject s m a v).cores = s.cores := by
  rw [ownReject_only s m a v]
@[simp] theorem ownReject_spares (m : Master) (a v : Nat) : (ownReject s m a v).spares = s.spares := by
  rw [ownReject_only s m a v]
@[simp] theorem ownReject_wells (m : Master) (a v : Nat) : (ownReject s m a v).wells = s.wells := by
  rw [ownReject_only s m a v]
@[simp] theorem ownReject_wellUe (m : Master) (a v : Nat) : (ownReject s m a v).wellUe = s.wellUe := by
  rw [ownReject_only s m a v]
@[simp] theorem ownReject_wellCe (m : Master) (a v : Nat) : (ownReject s m a v).wellCe = s.wellCe := by
  rw [ownReject_only s m a v]
@[simp] theorem ownReject_banks (m : Master) (a v : Nat) : (ownReject s m a v).banks = s.banks := by
  rw [ownReject_only s m a v]
@[simp] theorem ownReject_fields (m : Master) (a v : Nat) : (ownReject s m a v).fields = s.fields := by
  rw [ownReject_only s m a v]
@[simp] theorem ownReject_arbs (m : Master) (a v : Nat) : (ownReject s m a v).arbs = s.arbs := by
  rw [ownReject_only s m a v]
@[simp] theorem ownReject_weirs (m : Master) (a v : Nat) : (ownReject s m a v).weirs = s.weirs := by
  rw [ownReject_only s m a v]
@[simp] theorem ownReject_parts (m : Master) (a v : Nat) : (ownReject s m a v).parts = s.parts := by
  rw [ownReject_only s m a v]
@[simp] theorem ownReject_ports (m : Master) (a v : Nat) : (ownReject s m a v).ports = s.ports := by
  rw [ownReject_only s m a v]
@[simp] theorem ownReject_hub (m : Master) (a v : Nat) : (ownReject s m a v).hub = s.hub := by
  rw [ownReject_only s m a v]
@[simp] theorem ownReject_gov (m : Master) (a v : Nat) : (ownReject s m a v).gov = s.gov := by
  rw [ownReject_only s m a v]
@[simp] theorem ownReject_tsclk (m : Master) (a v : Nat) : (ownReject s m a v).tsclk = s.tsclk := by
  rw [ownReject_only s m a v]
@[simp] theorem ownReject_freeCtr (m : Master) (a v : Nat) : (ownReject s m a v).freeCtr = s.freeCtr := by
  rw [ownReject_only s m a v]
@[simp] theorem ownReject_core (m : Master) (a v : Nat) (u : Tile) : (ownReject s m a v).core u = s.core u := by
  simp only [State.core, ownReject_cores]
@[simp] theorem ownReject_seq (m : Master) (a v : Nat) (u : Tile) : (ownReject s m a v).seq u = s.seq u := by
  simp only [State.seq, State.core, ownReject_cores]
@[simp] theorem ownReject_arr (m : Master) (a v : Nat) (u : Tile) : (ownReject s m a v).arr u = s.arr u := by
  simp only [State.arr, State.core, ownReject_cores]
@[simp] theorem ownReject_vec (m : Master) (a v : Nat) (u : Tile) : (ownReject s m a v).vec u = s.vec u := by
  simp only [State.vec, State.core, ownReject_cores]
@[simp] theorem ownReject_mem (m : Master) (a v : Nat) (u : Tile) : (ownReject s m a v).mem u = s.mem u := by
  simp only [State.mem, State.core, ownReject_cores]
@[simp] theorem ownReject_g (m : Master) (a v : Nat) (u : Tile) (r' : GReg) : (ownReject s m a v).g u r' = s.g u r' := by
  simp only [State.g, State.seq, State.core, ownReject_cores]
@[simp] theorem ownReject_v (m : Master) (a v : Nat) (u : Tile) (r' : VReg) : (ownReject s m a v).v u r' = s.v u r' := by
  simp only [State.v, State.vec, State.core, ownReject_cores]
@[simp] theorem ownReject_pc (m : Master) (a v : Nat) (u : Tile) : (ownReject s m a v).pc u = s.pc u := by
  simp only [State.pc, State.seq, State.core, ownReject_cores]
@[simp] theorem ownReject_fld (m : Master) (a v : Nat) (h : Field) : (ownReject s m a v).fld h = s.fld h := by
  simp only [State.fld, ownReject_fields]
@[simp] theorem ownReject_prt (m : Master) (a v : Nat) (q : Part) : (ownReject s m a v).prt q = s.prt q := by
  simp only [State.prt, ownReject_parts]
@[simp] theorem ownReject_port (m : Master) (a v : Nat) (z : Port) : (ownReject s m a v).port z = s.port z := by
  simp only [State.port, ownReject_ports]
@[simp] theorem ownReject_bank (m : Master) (a v : Nat) (j : Nat) : (ownReject s m a v).bank j = s.bank j := by
  simp only [State.bank, ownReject_banks]
@[simp] theorem ownReject_weir (m : Master) (a v : Nat) (j : Nat) : (ownReject s m a v).weir j = s.weir j := by
  simp only [State.weir, ownReject_weirs]
@[simp] theorem ownReject_arb (m : Master) (a v : Nat) (j : Nat) : (ownReject s m a v).arb j = s.arb j := by
  simp only [State.arb, ownReject_arbs]

/-- A rejected write leaves every register but its own count. -/
theorem ownReject_reg (m : Master) (a v b : Nat) (h : b ≠ hubPage 0 + 0x044) : (ownReject s m a v).reg b = s.reg b := by
  unfold ownReject
  rw [logEv_reg, State.reg_count_other _ _ _ _ h]

/-- HUB_OWN_REJ counts it. -/
theorem ownReject_count (m : Master) (a v : Nat) :
    (ownReject s m a v).reg (hubPage 0 + 0x044) = satAdd (s.reg (hubPage 0 + 0x044)) 1 := by
  unfold ownReject
  rw [logEv_reg, State.reg_count_same]

/-- All that safeNote can change. -/
theorem safeNote_only (a : Nat) (m : Master) :
    safeNote s a m = { s with hub := (safeNote s a m).hub } := by
  rfl
@[simp] theorem safeNote_pending (a : Nat) (m : Master) : (safeNote s a m).pending = s.pending := by
  rw [safeNote_only s a m]
@[simp] theorem safeNote_regs (a : Nat) (m : Master) : (safeNote s a m).regs = s.regs := by
  rw [safeNote_only s a m]
@[simp] theorem safeNote_cores (a : Nat) (m : Master) : (safeNote s a m).cores = s.cores := by
  rw [safeNote_only s a m]
@[simp] theorem safeNote_spares (a : Nat) (m : Master) : (safeNote s a m).spares = s.spares := by
  rw [safeNote_only s a m]
@[simp] theorem safeNote_wells (a : Nat) (m : Master) : (safeNote s a m).wells = s.wells := by
  rw [safeNote_only s a m]
@[simp] theorem safeNote_wellUe (a : Nat) (m : Master) : (safeNote s a m).wellUe = s.wellUe := by
  rw [safeNote_only s a m]
@[simp] theorem safeNote_wellCe (a : Nat) (m : Master) : (safeNote s a m).wellCe = s.wellCe := by
  rw [safeNote_only s a m]
@[simp] theorem safeNote_banks (a : Nat) (m : Master) : (safeNote s a m).banks = s.banks := by
  rw [safeNote_only s a m]
@[simp] theorem safeNote_fields (a : Nat) (m : Master) : (safeNote s a m).fields = s.fields := by
  rw [safeNote_only s a m]
@[simp] theorem safeNote_arbs (a : Nat) (m : Master) : (safeNote s a m).arbs = s.arbs := by
  rw [safeNote_only s a m]
@[simp] theorem safeNote_weirs (a : Nat) (m : Master) : (safeNote s a m).weirs = s.weirs := by
  rw [safeNote_only s a m]
@[simp] theorem safeNote_parts (a : Nat) (m : Master) : (safeNote s a m).parts = s.parts := by
  rw [safeNote_only s a m]
@[simp] theorem safeNote_ports (a : Nat) (m : Master) : (safeNote s a m).ports = s.ports := by
  rw [safeNote_only s a m]
@[simp] theorem safeNote_gov (a : Nat) (m : Master) : (safeNote s a m).gov = s.gov := by
  rw [safeNote_only s a m]
@[simp] theorem safeNote_svc (a : Nat) (m : Master) : (safeNote s a m).svc = s.svc := by
  rw [safeNote_only s a m]
@[simp] theorem safeNote_tsclk (a : Nat) (m : Master) : (safeNote s a m).tsclk = s.tsclk := by
  rw [safeNote_only s a m]
@[simp] theorem safeNote_freeCtr (a : Nat) (m : Master) : (safeNote s a m).freeCtr = s.freeCtr := by
  rw [safeNote_only s a m]
@[simp] theorem safeNote_out (a : Nat) (m : Master) : (safeNote s a m).out = s.out := by
  rw [safeNote_only s a m]
@[simp] theorem safeNote_reg (a : Nat) (m : Master) (b : Nat) : (safeNote s a m).reg b = s.reg b := by
  simp only [State.reg, safeNote_regs]
@[simp] theorem safeNote_rbit (a : Nat) (m : Master) (b j : Nat) : (safeNote s a m).rbit b j = s.rbit b j := by
  simp only [State.rbit, State.reg, safeNote_regs]
@[simp] theorem safeNote_core (a : Nat) (m : Master) (u : Tile) : (safeNote s a m).core u = s.core u := by
  simp only [State.core, safeNote_cores]
@[simp] theorem safeNote_seq (a : Nat) (m : Master) (u : Tile) : (safeNote s a m).seq u = s.seq u := by
  simp only [State.seq, State.core, safeNote_cores]
@[simp] theorem safeNote_arr (a : Nat) (m : Master) (u : Tile) : (safeNote s a m).arr u = s.arr u := by
  simp only [State.arr, State.core, safeNote_cores]
@[simp] theorem safeNote_vec (a : Nat) (m : Master) (u : Tile) : (safeNote s a m).vec u = s.vec u := by
  simp only [State.vec, State.core, safeNote_cores]
@[simp] theorem safeNote_mem (a : Nat) (m : Master) (u : Tile) : (safeNote s a m).mem u = s.mem u := by
  simp only [State.mem, State.core, safeNote_cores]
@[simp] theorem safeNote_g (a : Nat) (m : Master) (u : Tile) (r' : GReg) : (safeNote s a m).g u r' = s.g u r' := by
  simp only [State.g, State.seq, State.core, safeNote_cores]
@[simp] theorem safeNote_v (a : Nat) (m : Master) (u : Tile) (r' : VReg) : (safeNote s a m).v u r' = s.v u r' := by
  simp only [State.v, State.vec, State.core, safeNote_cores]
@[simp] theorem safeNote_pc (a : Nat) (m : Master) (u : Tile) : (safeNote s a m).pc u = s.pc u := by
  simp only [State.pc, State.seq, State.core, safeNote_cores]
@[simp] theorem safeNote_fld (a : Nat) (m : Master) (h : Field) : (safeNote s a m).fld h = s.fld h := by
  simp only [State.fld, safeNote_fields]
@[simp] theorem safeNote_prt (a : Nat) (m : Master) (q : Part) : (safeNote s a m).prt q = s.prt q := by
  simp only [State.prt, safeNote_parts]
@[simp] theorem safeNote_port (a : Nat) (m : Master) (z : Port) : (safeNote s a m).port z = s.port z := by
  simp only [State.port, safeNote_ports]
@[simp] theorem safeNote_bank (a : Nat) (m : Master) (j : Nat) : (safeNote s a m).bank j = s.bank j := by
  simp only [State.bank, safeNote_banks]
@[simp] theorem safeNote_weir (a : Nat) (m : Master) (j : Nat) : (safeNote s a m).weir j = s.weir j := by
  simp only [State.weir, safeNote_weirs]
@[simp] theorem safeNote_arb (a : Nat) (m : Master) (j : Nat) : (safeNote s a m).arb j = s.arb j := by
  simp only [State.arb, safeNote_arbs]

/-! ## Counters -/

/-- All that countUe can change. -/
theorem countUe_only (page n : Nat) :
    countUe s page n = { s with regs := (countUe s page n).regs } := by
  rfl
@[simp] theorem countUe_pending (page n : Nat) : (countUe s page n).pending = s.pending := by
  rw [countUe_only s page n]
@[simp] theorem countUe_cores (page n : Nat) : (countUe s page n).cores = s.cores := by
  rw [countUe_only s page n]
@[simp] theorem countUe_spares (page n : Nat) : (countUe s page n).spares = s.spares := by
  rw [countUe_only s page n]
@[simp] theorem countUe_wells (page n : Nat) : (countUe s page n).wells = s.wells := by
  rw [countUe_only s page n]
@[simp] theorem countUe_wellUe (page n : Nat) : (countUe s page n).wellUe = s.wellUe := by
  rw [countUe_only s page n]
@[simp] theorem countUe_wellCe (page n : Nat) : (countUe s page n).wellCe = s.wellCe := by
  rw [countUe_only s page n]
@[simp] theorem countUe_banks (page n : Nat) : (countUe s page n).banks = s.banks := by
  rw [countUe_only s page n]
@[simp] theorem countUe_fields (page n : Nat) : (countUe s page n).fields = s.fields := by
  rw [countUe_only s page n]
@[simp] theorem countUe_arbs (page n : Nat) : (countUe s page n).arbs = s.arbs := by
  rw [countUe_only s page n]
@[simp] theorem countUe_weirs (page n : Nat) : (countUe s page n).weirs = s.weirs := by
  rw [countUe_only s page n]
@[simp] theorem countUe_parts (page n : Nat) : (countUe s page n).parts = s.parts := by
  rw [countUe_only s page n]
@[simp] theorem countUe_ports (page n : Nat) : (countUe s page n).ports = s.ports := by
  rw [countUe_only s page n]
@[simp] theorem countUe_hub (page n : Nat) : (countUe s page n).hub = s.hub := by
  rw [countUe_only s page n]
@[simp] theorem countUe_gov (page n : Nat) : (countUe s page n).gov = s.gov := by
  rw [countUe_only s page n]
@[simp] theorem countUe_svc (page n : Nat) : (countUe s page n).svc = s.svc := by
  rw [countUe_only s page n]
@[simp] theorem countUe_tsclk (page n : Nat) : (countUe s page n).tsclk = s.tsclk := by
  rw [countUe_only s page n]
@[simp] theorem countUe_freeCtr (page n : Nat) : (countUe s page n).freeCtr = s.freeCtr := by
  rw [countUe_only s page n]
@[simp] theorem countUe_out (page n : Nat) : (countUe s page n).out = s.out := by
  rw [countUe_only s page n]
@[simp] theorem countUe_core (page n : Nat) (u : Tile) : (countUe s page n).core u = s.core u := by
  simp only [State.core, countUe_cores]
@[simp] theorem countUe_seq (page n : Nat) (u : Tile) : (countUe s page n).seq u = s.seq u := by
  simp only [State.seq, State.core, countUe_cores]
@[simp] theorem countUe_arr (page n : Nat) (u : Tile) : (countUe s page n).arr u = s.arr u := by
  simp only [State.arr, State.core, countUe_cores]
@[simp] theorem countUe_vec (page n : Nat) (u : Tile) : (countUe s page n).vec u = s.vec u := by
  simp only [State.vec, State.core, countUe_cores]
@[simp] theorem countUe_mem (page n : Nat) (u : Tile) : (countUe s page n).mem u = s.mem u := by
  simp only [State.mem, State.core, countUe_cores]
@[simp] theorem countUe_g (page n : Nat) (u : Tile) (r' : GReg) : (countUe s page n).g u r' = s.g u r' := by
  simp only [State.g, State.seq, State.core, countUe_cores]
@[simp] theorem countUe_v (page n : Nat) (u : Tile) (r' : VReg) : (countUe s page n).v u r' = s.v u r' := by
  simp only [State.v, State.vec, State.core, countUe_cores]
@[simp] theorem countUe_pc (page n : Nat) (u : Tile) : (countUe s page n).pc u = s.pc u := by
  simp only [State.pc, State.seq, State.core, countUe_cores]
@[simp] theorem countUe_fld (page n : Nat) (h : Field) : (countUe s page n).fld h = s.fld h := by
  simp only [State.fld, countUe_fields]
@[simp] theorem countUe_prt (page n : Nat) (q : Part) : (countUe s page n).prt q = s.prt q := by
  simp only [State.prt, countUe_parts]
@[simp] theorem countUe_port (page n : Nat) (z : Port) : (countUe s page n).port z = s.port z := by
  simp only [State.port, countUe_ports]
@[simp] theorem countUe_bank (page n : Nat) (j : Nat) : (countUe s page n).bank j = s.bank j := by
  simp only [State.bank, countUe_banks]
@[simp] theorem countUe_weir (page n : Nat) (j : Nat) : (countUe s page n).weir j = s.weir j := by
  simp only [State.weir, countUe_weirs]
@[simp] theorem countUe_arb (page n : Nat) (j : Nat) : (countUe s page n).arb j = s.arb j := by
  simp only [State.arb, countUe_arbs]
/-- All that countCe can change. -/
theorem countCe_only (page n : Nat) :
    countCe s page n = { s with regs := (countCe s page n).regs } := by
  rfl
@[simp] theorem countCe_pending (page n : Nat) : (countCe s page n).pending = s.pending := by
  rw [countCe_only s page n]
@[simp] theorem countCe_cores (page n : Nat) : (countCe s page n).cores = s.cores := by
  rw [countCe_only s page n]
@[simp] theorem countCe_spares (page n : Nat) : (countCe s page n).spares = s.spares := by
  rw [countCe_only s page n]
@[simp] theorem countCe_wells (page n : Nat) : (countCe s page n).wells = s.wells := by
  rw [countCe_only s page n]
@[simp] theorem countCe_wellUe (page n : Nat) : (countCe s page n).wellUe = s.wellUe := by
  rw [countCe_only s page n]
@[simp] theorem countCe_wellCe (page n : Nat) : (countCe s page n).wellCe = s.wellCe := by
  rw [countCe_only s page n]
@[simp] theorem countCe_banks (page n : Nat) : (countCe s page n).banks = s.banks := by
  rw [countCe_only s page n]
@[simp] theorem countCe_fields (page n : Nat) : (countCe s page n).fields = s.fields := by
  rw [countCe_only s page n]
@[simp] theorem countCe_arbs (page n : Nat) : (countCe s page n).arbs = s.arbs := by
  rw [countCe_only s page n]
@[simp] theorem countCe_weirs (page n : Nat) : (countCe s page n).weirs = s.weirs := by
  rw [countCe_only s page n]
@[simp] theorem countCe_parts (page n : Nat) : (countCe s page n).parts = s.parts := by
  rw [countCe_only s page n]
@[simp] theorem countCe_ports (page n : Nat) : (countCe s page n).ports = s.ports := by
  rw [countCe_only s page n]
@[simp] theorem countCe_hub (page n : Nat) : (countCe s page n).hub = s.hub := by
  rw [countCe_only s page n]
@[simp] theorem countCe_gov (page n : Nat) : (countCe s page n).gov = s.gov := by
  rw [countCe_only s page n]
@[simp] theorem countCe_svc (page n : Nat) : (countCe s page n).svc = s.svc := by
  rw [countCe_only s page n]
@[simp] theorem countCe_tsclk (page n : Nat) : (countCe s page n).tsclk = s.tsclk := by
  rw [countCe_only s page n]
@[simp] theorem countCe_freeCtr (page n : Nat) : (countCe s page n).freeCtr = s.freeCtr := by
  rw [countCe_only s page n]
@[simp] theorem countCe_out (page n : Nat) : (countCe s page n).out = s.out := by
  rw [countCe_only s page n]
@[simp] theorem countCe_core (page n : Nat) (u : Tile) : (countCe s page n).core u = s.core u := by
  simp only [State.core, countCe_cores]
@[simp] theorem countCe_seq (page n : Nat) (u : Tile) : (countCe s page n).seq u = s.seq u := by
  simp only [State.seq, State.core, countCe_cores]
@[simp] theorem countCe_arr (page n : Nat) (u : Tile) : (countCe s page n).arr u = s.arr u := by
  simp only [State.arr, State.core, countCe_cores]
@[simp] theorem countCe_vec (page n : Nat) (u : Tile) : (countCe s page n).vec u = s.vec u := by
  simp only [State.vec, State.core, countCe_cores]
@[simp] theorem countCe_mem (page n : Nat) (u : Tile) : (countCe s page n).mem u = s.mem u := by
  simp only [State.mem, State.core, countCe_cores]
@[simp] theorem countCe_g (page n : Nat) (u : Tile) (r' : GReg) : (countCe s page n).g u r' = s.g u r' := by
  simp only [State.g, State.seq, State.core, countCe_cores]
@[simp] theorem countCe_v (page n : Nat) (u : Tile) (r' : VReg) : (countCe s page n).v u r' = s.v u r' := by
  simp only [State.v, State.vec, State.core, countCe_cores]
@[simp] theorem countCe_pc (page n : Nat) (u : Tile) : (countCe s page n).pc u = s.pc u := by
  simp only [State.pc, State.seq, State.core, countCe_cores]
@[simp] theorem countCe_fld (page n : Nat) (h : Field) : (countCe s page n).fld h = s.fld h := by
  simp only [State.fld, countCe_fields]
@[simp] theorem countCe_prt (page n : Nat) (q : Part) : (countCe s page n).prt q = s.prt q := by
  simp only [State.prt, countCe_parts]
@[simp] theorem countCe_port (page n : Nat) (z : Port) : (countCe s page n).port z = s.port z := by
  simp only [State.port, countCe_ports]
@[simp] theorem countCe_bank (page n : Nat) (j : Nat) : (countCe s page n).bank j = s.bank j := by
  simp only [State.bank, countCe_banks]
@[simp] theorem countCe_weir (page n : Nat) (j : Nat) : (countCe s page n).weir j = s.weir j := by
  simp only [State.weir, countCe_weirs]
@[simp] theorem countCe_arb (page n : Nat) (j : Nat) : (countCe s page n).arb j = s.arb j := by
  simp only [State.arb, countCe_arbs]
/-- All that countCtr can change. -/
theorem countCtr_only (t : Tile) (n k : Nat) :
    countCtr s t n k = { s with regs := (countCtr s t n k).regs, hub := (countCtr s t n k).hub, out := (countCtr s t n k).out } := by
  unfold countCtr
  split
  · rfl
  · rw [setEvt_only]
    rfl
@[simp] theorem countCtr_pending (t : Tile) (n k : Nat) : (countCtr s t n k).pending = s.pending := by
  rw [countCtr_only s t n k]
@[simp] theorem countCtr_cores (t : Tile) (n k : Nat) : (countCtr s t n k).cores = s.cores := by
  rw [countCtr_only s t n k]
@[simp] theorem countCtr_spares (t : Tile) (n k : Nat) : (countCtr s t n k).spares = s.spares := by
  rw [countCtr_only s t n k]
@[simp] theorem countCtr_wells (t : Tile) (n k : Nat) : (countCtr s t n k).wells = s.wells := by
  rw [countCtr_only s t n k]
@[simp] theorem countCtr_wellUe (t : Tile) (n k : Nat) : (countCtr s t n k).wellUe = s.wellUe := by
  rw [countCtr_only s t n k]
@[simp] theorem countCtr_wellCe (t : Tile) (n k : Nat) : (countCtr s t n k).wellCe = s.wellCe := by
  rw [countCtr_only s t n k]
@[simp] theorem countCtr_banks (t : Tile) (n k : Nat) : (countCtr s t n k).banks = s.banks := by
  rw [countCtr_only s t n k]
@[simp] theorem countCtr_fields (t : Tile) (n k : Nat) : (countCtr s t n k).fields = s.fields := by
  rw [countCtr_only s t n k]
@[simp] theorem countCtr_arbs (t : Tile) (n k : Nat) : (countCtr s t n k).arbs = s.arbs := by
  rw [countCtr_only s t n k]
@[simp] theorem countCtr_weirs (t : Tile) (n k : Nat) : (countCtr s t n k).weirs = s.weirs := by
  rw [countCtr_only s t n k]
@[simp] theorem countCtr_parts (t : Tile) (n k : Nat) : (countCtr s t n k).parts = s.parts := by
  rw [countCtr_only s t n k]
@[simp] theorem countCtr_ports (t : Tile) (n k : Nat) : (countCtr s t n k).ports = s.ports := by
  rw [countCtr_only s t n k]
@[simp] theorem countCtr_gov (t : Tile) (n k : Nat) : (countCtr s t n k).gov = s.gov := by
  rw [countCtr_only s t n k]
@[simp] theorem countCtr_svc (t : Tile) (n k : Nat) : (countCtr s t n k).svc = s.svc := by
  rw [countCtr_only s t n k]
@[simp] theorem countCtr_tsclk (t : Tile) (n k : Nat) : (countCtr s t n k).tsclk = s.tsclk := by
  rw [countCtr_only s t n k]
@[simp] theorem countCtr_freeCtr (t : Tile) (n k : Nat) : (countCtr s t n k).freeCtr = s.freeCtr := by
  rw [countCtr_only s t n k]
@[simp] theorem countCtr_core (t : Tile) (n k : Nat) (u : Tile) : (countCtr s t n k).core u = s.core u := by
  simp only [State.core, countCtr_cores]
@[simp] theorem countCtr_seq (t : Tile) (n k : Nat) (u : Tile) : (countCtr s t n k).seq u = s.seq u := by
  simp only [State.seq, State.core, countCtr_cores]
@[simp] theorem countCtr_arr (t : Tile) (n k : Nat) (u : Tile) : (countCtr s t n k).arr u = s.arr u := by
  simp only [State.arr, State.core, countCtr_cores]
@[simp] theorem countCtr_vec (t : Tile) (n k : Nat) (u : Tile) : (countCtr s t n k).vec u = s.vec u := by
  simp only [State.vec, State.core, countCtr_cores]
@[simp] theorem countCtr_mem (t : Tile) (n k : Nat) (u : Tile) : (countCtr s t n k).mem u = s.mem u := by
  simp only [State.mem, State.core, countCtr_cores]
@[simp] theorem countCtr_g (t : Tile) (n k : Nat) (u : Tile) (r' : GReg) : (countCtr s t n k).g u r' = s.g u r' := by
  simp only [State.g, State.seq, State.core, countCtr_cores]
@[simp] theorem countCtr_v (t : Tile) (n k : Nat) (u : Tile) (r' : VReg) : (countCtr s t n k).v u r' = s.v u r' := by
  simp only [State.v, State.vec, State.core, countCtr_cores]
@[simp] theorem countCtr_pc (t : Tile) (n k : Nat) (u : Tile) : (countCtr s t n k).pc u = s.pc u := by
  simp only [State.pc, State.seq, State.core, countCtr_cores]
@[simp] theorem countCtr_fld (t : Tile) (n k : Nat) (h : Field) : (countCtr s t n k).fld h = s.fld h := by
  simp only [State.fld, countCtr_fields]
@[simp] theorem countCtr_prt (t : Tile) (n k : Nat) (q : Part) : (countCtr s t n k).prt q = s.prt q := by
  simp only [State.prt, countCtr_parts]
@[simp] theorem countCtr_port (t : Tile) (n k : Nat) (z : Port) : (countCtr s t n k).port z = s.port z := by
  simp only [State.port, countCtr_ports]
@[simp] theorem countCtr_bank (t : Tile) (n k : Nat) (j : Nat) : (countCtr s t n k).bank j = s.bank j := by
  simp only [State.bank, countCtr_banks]
@[simp] theorem countCtr_weir (t : Tile) (n k : Nat) (j : Nat) : (countCtr s t n k).weir j = s.weir j := by
  simp only [State.weir, countCtr_weirs]
@[simp] theorem countCtr_arb (t : Tile) (n k : Nat) (j : Nat) : (countCtr s t n k).arb j = s.arb j := by
  simp only [State.arb, countCtr_arbs]

end Sys2Proof.Machine
end

