-- ==== Sys2Proof/Laws/Dma.lean ====
section
/-!
SUPPORT. Laws of the DMA channels: a channel reads back as changed, a change leaves the other channels, the cistern and
everything outside the tile's memory unit alone, and what the wait for a full store buffer does.
-/

namespace Sys2Proof.Machine

/-! ## One channel of a memory unit -/

@[simp] theorem MemSt.chan_modChan_same (m : MemSt) (ch : Chan) (f : DmaChan → DmaChan) : (m.modChan ch f).chan ch = f (m.chan ch) := by
  unfold MemSt.chan MemSt.modChan
  split <;> rfl

theorem MemSt.chan_modChan_other (m : MemSt) (ch c : Chan) (f : DmaChan → DmaChan) (h : c ≠ ch) : (m.modChan ch f).chan c = m.chan c := by
  unfold MemSt.chan MemSt.modChan
  split <;> split <;> first | rfl | exact absurd rfl h

@[simp] theorem MemSt.modChan_cist (m : MemSt) (ch : Chan) (f : DmaChan → DmaChan) : (m.modChan ch f).cist = m.cist := by
  unfold MemSt.modChan
  split <;> rfl

@[simp] theorem MemSt.modChan_sb (m : MemSt) (ch : Chan) (f : DmaChan → DmaChan) : (m.modChan ch f).sb = m.sb := by
  unfold MemSt.modChan
  split <;> rfl

@[simp] theorem MemSt.modChan_engQ (m : MemSt) (ch : Chan) (f : DmaChan → DmaChan) : (m.modChan ch f).engQ = m.engQ := by
  unfold MemSt.modChan
  split <;> rfl

@[simp] theorem MemSt.modChan_launch (m : MemSt) (ch : Chan) (f : DmaChan → DmaChan) : (m.modChan ch f).launch = m.launch := by
  unfold MemSt.modChan
  split <;> rfl

/-! ## One channel of a tile -/

variable (s : State)

@[simp] theorem State.dma_modDma_same (t : Tile) (ch : Chan) (f : DmaChan → DmaChan) : (s.modDma t ch f).dma t ch = f (s.dma t ch) := by
  unfold State.modDma State.dma
  rw [State.mem_modMem_same, MemSt.chan_modChan_same]

theorem State.dma_modDma_other (t : Tile) (ch c : Chan) (f : DmaChan → DmaChan) (h : c ≠ ch) :
    (s.modDma t ch f).dma t c = s.dma t c := by
  unfold State.modDma State.dma
  rw [State.mem_modMem_same, MemSt.chan_modChan_other _ _ _ _ h]

theorem State.dma_modDma_tile (t u : Tile) (ch c : Chan) (f : DmaChan → DmaChan) (h : u ≠ t) :
    (s.modDma t ch f).dma u c = s.dma u c := by
  unfold State.modDma State.dma
  rw [State.mem_modMem_other _ _ _ _ h]

@[simp] theorem State.modDma_regs (t : Tile) (ch : Chan) (f : DmaChan → DmaChan) : (s.modDma t ch f).regs = s.regs := (rfl)
@[simp] theorem State.modDma_wells (t : Tile) (ch : Chan) (f : DmaChan → DmaChan) : (s.modDma t ch f).wells = s.wells := (rfl)
@[simp] theorem State.modDma_reg (t : Tile) (ch : Chan) (f : DmaChan → DmaChan) (a : Nat) : (s.modDma t ch f).reg a = s.reg a := (rfl)
@[simp] theorem State.seq_modDma (t u : Tile) (ch : Chan) (f : DmaChan → DmaChan) : (s.modDma t ch f).seq u = s.seq u :=
  s.seq_modMem t u _
@[simp] theorem State.arr_modDma (t u : Tile) (ch : Chan) (f : DmaChan → DmaChan) : (s.modDma t ch f).arr u = s.arr u :=
  s.arr_modMem t u _

@[simp] theorem State.cist_modDma (t u : Tile) (ch : Chan) (f : DmaChan → DmaChan) :
    ((s.modDma t ch f).mem u).cist = (s.mem u).cist := by
  by_cases h : u = t
  · subst h
    unfold State.modDma
    rw [State.mem_modMem_same, MemSt.modChan_cist]
  · unfold State.modDma
    rw [State.mem_modMem_other _ _ _ _ h]

/-! ## The wait for a full store buffer (R56) -/

/-- A channel that stands at a full store buffer only notes from when. -/
theorem sbStall_dma (t : Tile) (ch : Chan) :
    (sbStall s t ch).dma t ch = { s.dma t ch with sbWait := some (s.cyc (tileField t)) } := s.dma_modDma_same t ch _

/-- Counting a stall ends it, and changes nothing else of the channel. -/
theorem sbStallCount_dma (t : Tile) (ch : Chan) : (sbStallCount s t ch).dma t ch = { s.dma t ch with sbWait := none } := by
  unfold sbStallCount
  split
  · unfold State.dma
    rw [countCtr_mem]
    exact s.dma_modDma_same t ch _
  · rename_i h
    rw [← h]

/-- Counting a stall leaves every byte of every cistern and well. -/
theorem sbStallCount_memory (t : Tile) (ch : Chan) :
    (sbStallCount s t ch).wells = s.wells ∧ ∀ u, ((sbStallCount s t ch).mem u).cist = (s.mem u).cist := by
  unfold sbStallCount
  split
  · exact ⟨by rw [countCtr_wells, State.modDma_wells], fun u => by rw [countCtr_mem, State.cist_modDma]⟩
  · exact ⟨rfl, fun _ => rfl⟩

end Sys2Proof.Machine
end

