-- ==== Sys2Proof/Laws/Seq.lean ====
section
/-!
SUPPORT. Laws of the sequencer: what issuing, advancing, trapping and an instruction boundary do, and what they leave alone.
-/

namespace Sys2Proof.Machine

variable (s : State)

/-! ## Small updates of one sequencer -/

/-- All that noteIssue can change. -/
theorem noteIssue_only (t : Tile) :
    noteIssue s t = { s with cores := (noteIssue s t).cores } := by
  rfl
@[simp] theorem noteIssue_pending (t : Tile) : (noteIssue s t).pending = s.pending := by
  rw [noteIssue_only s t]
@[simp] theorem noteIssue_regs (t : Tile) : (noteIssue s t).regs = s.regs := by
  rw [noteIssue_only s t]
@[simp] theorem noteIssue_spares (t : Tile) : (noteIssue s t).spares = s.spares := by
  rw [noteIssue_only s t]
@[simp] theorem noteIssue_wells (t : Tile) : (noteIssue s t).wells = s.wells := by
  rw [noteIssue_only s t]
@[simp] theorem noteIssue_wellUe (t : Tile) : (noteIssue s t).wellUe = s.wellUe := by
  rw [noteIssue_only s t]
@[simp] theorem noteIssue_wellCe (t : Tile) : (noteIssue s t).wellCe = s.wellCe := by
  rw [noteIssue_only s t]
@[simp] theorem noteIssue_banks (t : Tile) : (noteIssue s t).banks = s.banks := by
  rw [noteIssue_only s t]
@[simp] theorem noteIssue_fields (t : Tile) : (noteIssue s t).fields = s.fields := by
  rw [noteIssue_only s t]
@[simp] theorem noteIssue_arbs (t : Tile) : (noteIssue s t).arbs = s.arbs := by
  rw [noteIssue_only s t]
@[simp] theorem noteIssue_weirs (t : Tile) : (noteIssue s t).weirs = s.weirs := by
  rw [noteIssue_only s t]
@[simp] theorem noteIssue_parts (t : Tile) : (noteIssue s t).parts = s.parts := by
  rw [noteIssue_only s t]
@[simp] theorem noteIssue_ports (t : Tile) : (noteIssue s t).ports = s.ports := by
  rw [noteIssue_only s t]
@[simp] theorem noteIssue_hub (t : Tile) : (noteIssue s t).hub = s.hub := by
  rw [noteIssue_only s t]
@[simp] theorem noteIssue_gov (t : Tile) : (noteIssue s t).gov = s.gov := by
  rw [noteIssue_only s t]
@[simp] theorem noteIssue_svc (t : Tile) : (noteIssue s t).svc = s.svc := by
  rw [noteIssue_only s t]
@[simp] theorem noteIssue_tsclk (t : Tile) : (noteIssue s t).tsclk = s.tsclk := by
  rw [noteIssue_only s t]
@[simp] theorem noteIssue_freeCtr (t : Tile) : (noteIssue s t).freeCtr = s.freeCtr := by
  rw [noteIssue_only s t]
@[simp] theorem noteIssue_out (t : Tile) : (noteIssue s t).out = s.out := by
  rw [noteIssue_only s t]
@[simp] theorem noteIssue_reg (t : Tile) (b : Nat) : (noteIssue s t).reg b = s.reg b := by
  simp only [State.reg, noteIssue_regs]
@[simp] theorem noteIssue_rbit (t : Tile) (b j : Nat) : (noteIssue s t).rbit b j = s.rbit b j := by
  simp only [State.rbit, State.reg, noteIssue_regs]
@[simp] theorem noteIssue_fld (t : Tile) (h : Field) : (noteIssue s t).fld h = s.fld h := by
  simp only [State.fld, noteIssue_fields]
@[simp] theorem noteIssue_prt (t : Tile) (q : Part) : (noteIssue s t).prt q = s.prt q := by
  simp only [State.prt, noteIssue_parts]
@[simp] theorem noteIssue_port (t : Tile) (z : Port) : (noteIssue s t).port z = s.port z := by
  simp only [State.port, noteIssue_ports]
@[simp] theorem noteIssue_bank (t : Tile) (j : Nat) : (noteIssue s t).bank j = s.bank j := by
  simp only [State.bank, noteIssue_banks]
@[simp] theorem noteIssue_weir (t : Tile) (j : Nat) : (noteIssue s t).weir j = s.weir j := by
  simp only [State.weir, noteIssue_weirs]
@[simp] theorem noteIssue_arb (t : Tile) (j : Nat) : (noteIssue s t).arb j = s.arb j := by
  simp only [State.arb, noteIssue_arbs]
@[simp] theorem noteIssue_arr (t : Tile) (u : Tile) : (noteIssue s t).arr u = s.arr u := s.arr_modSeq t u _
@[simp] theorem noteIssue_vec (t : Tile) (u : Tile) : (noteIssue s t).vec u = s.vec u := s.vec_modSeq t u _
@[simp] theorem noteIssue_mem (t : Tile) (u : Tile) : (noteIssue s t).mem u = s.mem u := s.mem_modSeq t u _
@[simp] theorem noteIssue_v (t : Tile) (u : Tile) (r : VReg) : (noteIssue s t).v u r = s.v u r := s.v_modSeq t u _ r
theorem noteIssue_core_other (t : Tile) (u : Tile) (hu : u ≠ t) : (noteIssue s t).core u = s.core u := s.core_modCore_other t u _ hu
/-- All that advance can change. -/
theorem advance_only (t : Tile) :
    advance s t = { s with cores := (advance s t).cores } := by
  rfl
@[simp] theorem advance_pending (t : Tile) : (advance s t).pending = s.pending := by
  rw [advance_only s t]
@[simp] theorem advance_regs (t : Tile) : (advance s t).regs = s.regs := by
  rw [advance_only s t]
@[simp] theorem advance_spares (t : Tile) : (advance s t).spares = s.spares := by
  rw [advance_only s t]
@[simp] theorem advance_wells (t : Tile) : (advance s t).wells = s.wells := by
  rw [advance_only s t]
@[simp] theorem advance_wellUe (t : Tile) : (advance s t).wellUe = s.wellUe := by
  rw [advance_only s t]
@[simp] theorem advance_wellCe (t : Tile) : (advance s t).wellCe = s.wellCe := by
  rw [advance_only s t]
@[simp] theorem advance_banks (t : Tile) : (advance s t).banks = s.banks := by
  rw [advance_only s t]
@[simp] theorem advance_fields (t : Tile) : (advance s t).fields = s.fields := by
  rw [advance_only s t]
@[simp] theorem advance_arbs (t : Tile) : (advance s t).arbs = s.arbs := by
  rw [advance_only s t]
@[simp] theorem advance_weirs (t : Tile) : (advance s t).weirs = s.weirs := by
  rw [advance_only s t]
@[simp] theorem advance_parts (t : Tile) : (advance s t).parts = s.parts := by
  rw [advance_only s t]
@[simp] theorem advance_ports (t : Tile) : (advance s t).ports = s.ports := by
  rw [advance_only s t]
@[simp] theorem advance_hub (t : Tile) : (advance s t).hub = s.hub := by
  rw [advance_only s t]
@[simp] theorem advance_gov (t : Tile) : (advance s t).gov = s.gov := by
  rw [advance_only s t]
@[simp] theorem advance_svc (t : Tile) : (advance s t).svc = s.svc := by
  rw [advance_only s t]
@[simp] theorem advance_tsclk (t : Tile) : (advance s t).tsclk = s.tsclk := by
  rw [advance_only s t]
@[simp] theorem advance_freeCtr (t : Tile) : (advance s t).freeCtr = s.freeCtr := by
  rw [advance_only s t]
@[simp] theorem advance_out (t : Tile) : (advance s t).out = s.out := by
  rw [advance_only s t]
@[simp] theorem advance_reg (t : Tile) (b : Nat) : (advance s t).reg b = s.reg b := by
  simp only [State.reg, advance_regs]
@[simp] theorem advance_rbit (t : Tile) (b j : Nat) : (advance s t).rbit b j = s.rbit b j := by
  simp only [State.rbit, State.reg, advance_regs]
@[simp] theorem advance_fld (t : Tile) (h : Field) : (advance s t).fld h = s.fld h := by
  simp only [State.fld, advance_fields]
@[simp] theorem advance_prt (t : Tile) (q : Part) : (advance s t).prt q = s.prt q := by
  simp only [State.prt, advance_parts]
@[simp] theorem advance_port (t : Tile) (z : Port) : (advance s t).port z = s.port z := by
  simp only [State.port, advance_ports]
@[simp] theorem advance_bank (t : Tile) (j : Nat) : (advance s t).bank j = s.bank j := by
  simp only [State.bank, advance_banks]
@[simp] theorem advance_weir (t : Tile) (j : Nat) : (advance s t).weir j = s.weir j := by
  simp only [State.weir, advance_weirs]
@[simp] theorem advance_arb (t : Tile) (j : Nat) : (advance s t).arb j = s.arb j := by
  simp only [State.arb, advance_arbs]
@[simp] theorem advance_arr (t : Tile) (u : Tile) : (advance s t).arr u = s.arr u := s.arr_modSeq t u _
@[simp] theorem advance_vec (t : Tile) (u : Tile) : (advance s t).vec u = s.vec u := s.vec_modSeq t u _
@[simp] theorem advance_mem (t : Tile) (u : Tile) : (advance s t).mem u = s.mem u := s.mem_modSeq t u _
@[simp] theorem advance_v (t : Tile) (u : Tile) (r : VReg) : (advance s t).v u r = s.v u r := s.v_modSeq t u _ r
theorem advance_core_other (t : Tile) (u : Tile) (hu : u ≠ t) : (advance s t).core u = s.core u := s.core_modCore_other t u _ hu
/-- All that setPc can change. -/
theorem setPc_only (t : Tile) (x : Nat) :
    setPc s t x = { s with cores := (setPc s t x).cores } := by
  rfl
@[simp] theorem setPc_pending (t : Tile) (x : Nat) : (setPc s t x).pending = s.pending := by
  rw [setPc_only s t x]
@[simp] theorem setPc_regs (t : Tile) (x : Nat) : (setPc s t x).regs = s.regs := by
  rw [setPc_only s t x]
@[simp] theorem setPc_spares (t : Tile) (x : Nat) : (setPc s t x).spares = s.spares := by
  rw [setPc_only s t x]
@[simp] theorem setPc_wells (t : Tile) (x : Nat) : (setPc s t x).wells = s.wells := by
  rw [setPc_only s t x]
@[simp] theorem setPc_wellUe (t : Tile) (x : Nat) : (setPc s t x).wellUe = s.wellUe := by
  rw [setPc_only s t x]
@[simp] theorem setPc_wellCe (t : Tile) (x : Nat) : (setPc s t x).wellCe = s.wellCe := by
  rw [setPc_only s t x]
@[simp] theorem setPc_banks (t : Tile) (x : Nat) : (setPc s t x).banks = s.banks := by
  rw [setPc_only s t x]
@[simp] theorem setPc_fields (t : Tile) (x : Nat) : (setPc s t x).fields = s.fields := by
  rw [setPc_only s t x]
@[simp] theorem setPc_arbs (t : Tile) (x : Nat) : (setPc s t x).arbs = s.arbs := by
  rw [setPc_only s t x]
@[simp] theorem setPc_weirs (t : Tile) (x : Nat) : (setPc s t x).weirs = s.weirs := by
  rw [setPc_only s t x]
@[simp] theorem setPc_parts (t : Tile) (x : Nat) : (setPc s t x).parts = s.parts := by
  rw [setPc_only s t x]
@[simp] theorem setPc_ports (t : Tile) (x : Nat) : (setPc s t x).ports = s.ports := by
  rw [setPc_only s t x]
@[simp] theorem setPc_hub (t : Tile) (x : Nat) : (setPc s t x).hub = s.hub := by
  rw [setPc_only s t x]
@[simp] theorem setPc_gov (t : Tile) (x : Nat) : (setPc s t x).gov = s.gov := by
  rw [setPc_only s t x]
@[simp] theorem setPc_svc (t : Tile) (x : Nat) : (setPc s t x).svc = s.svc := by
  rw [setPc_only s t x]
@[simp] theorem setPc_tsclk (t : Tile) (x : Nat) : (setPc s t x).tsclk = s.tsclk := by
  rw [setPc_only s t x]
@[simp] theorem setPc_freeCtr (t : Tile) (x : Nat) : (setPc s t x).freeCtr = s.freeCtr := by
  rw [setPc_only s t x]
@[simp] theorem setPc_out (t : Tile) (x : Nat) : (setPc s t x).out = s.out := by
  rw [setPc_only s t x]
@[simp] theorem setPc_reg (t : Tile) (x : Nat) (b : Nat) : (setPc s t x).reg b = s.reg b := by
  simp only [State.reg, setPc_regs]
@[simp] theorem setPc_rbit (t : Tile) (x : Nat) (b j : Nat) : (setPc s t x).rbit b j = s.rbit b j := by
  simp only [State.rbit, State.reg, setPc_regs]
@[simp] theorem setPc_fld (t : Tile) (x : Nat) (h : Field) : (setPc s t x).fld h = s.fld h := by
  simp only [State.fld, setPc_fields]
@[simp] theorem setPc_prt (t : Tile) (x : Nat) (q : Part) : (setPc s t x).prt q = s.prt q := by
  simp only [State.prt, setPc_parts]
@[simp] theorem setPc_port (t : Tile) (x : Nat) (z : Port) : (setPc s t x).port z = s.port z := by
  simp only [State.port, setPc_ports]
@[simp] theorem setPc_bank (t : Tile) (x : Nat) (j : Nat) : (setPc s t x).bank j = s.bank j := by
  simp only [State.bank, setPc_banks]
@[simp] theorem setPc_weir (t : Tile) (x : Nat) (j : Nat) : (setPc s t x).weir j = s.weir j := by
  simp only [State.weir, setPc_weirs]
@[simp] theorem setPc_arb (t : Tile) (x : Nat) (j : Nat) : (setPc s t x).arb j = s.arb j := by
  simp only [State.arb, setPc_arbs]
@[simp] theorem setPc_arr (t : Tile) (x : Nat) (u : Tile) : (setPc s t x).arr u = s.arr u := s.arr_modSeq t u _
@[simp] theorem setPc_vec (t : Tile) (x : Nat) (u : Tile) : (setPc s t x).vec u = s.vec u := s.vec_modSeq t u _
@[simp] theorem setPc_mem (t : Tile) (x : Nat) (u : Tile) : (setPc s t x).mem u = s.mem u := s.mem_modSeq t u _
@[simp] theorem setPc_v (t : Tile) (x : Nat) (u : Tile) (r : VReg) : (setPc s t x).v u r = s.v u r := s.v_modSeq t u _ r
theorem setPc_core_other (t : Tile) (x : Nat) (u : Tile) (hu : u ≠ t) : (setPc s t x).core u = s.core u := s.core_modCore_other t u _ hu
/-- All that stallOn can change. -/
theorem stallOn_only (t : Tile) (i : Instr) (n : Option Nat) :
    stallOn s t i n = { s with cores := (stallOn s t i n).cores } := by
  rfl
@[simp] theorem stallOn_pending (t : Tile) (i : Instr) (n : Option Nat) : (stallOn s t i n).pending = s.pending := by
  rw [stallOn_only s t i n]
@[simp] theorem stallOn_regs (t : Tile) (i : Instr) (n : Option Nat) : (stallOn s t i n).regs = s.regs := by
  rw [stallOn_only s t i n]
@[simp] theorem stallOn_spares (t : Tile) (i : Instr) (n : Option Nat) : (stallOn s t i n).spares = s.spares := by
  rw [stallOn_only s t i n]
@[simp] theorem stallOn_wells (t : Tile) (i : Instr) (n : Option Nat) : (stallOn s t i n).wells = s.wells := by
  rw [stallOn_only s t i n]
@[simp] theorem stallOn_wellUe (t : Tile) (i : Instr) (n : Option Nat) : (stallOn s t i n).wellUe = s.wellUe := by
  rw [stallOn_only s t i n]
@[simp] theorem stallOn_wellCe (t : Tile) (i : Instr) (n : Option Nat) : (stallOn s t i n).wellCe = s.wellCe := by
  rw [stallOn_only s t i n]
@[simp] theorem stallOn_banks (t : Tile) (i : Instr) (n : Option Nat) : (stallOn s t i n).banks = s.banks := by
  rw [stallOn_only s t i n]
@[simp] theorem stallOn_fields (t : Tile) (i : Instr) (n : Option Nat) : (stallOn s t i n).fields = s.fields := by
  rw [stallOn_only s t i n]
@[simp] theorem stallOn_arbs (t : Tile) (i : Instr) (n : Option Nat) : (stallOn s t i n).arbs = s.arbs := by
  rw [stallOn_only s t i n]
@[simp] theorem stallOn_weirs (t : Tile) (i : Instr) (n : Option Nat) : (stallOn s t i n).weirs = s.weirs := by
  rw [stallOn_only s t i n]
@[simp] theorem stallOn_parts (t : Tile) (i : Instr) (n : Option Nat) : (stallOn s t i n).parts = s.parts := by
  rw [stallOn_only s t i n]
@[simp] theorem stallOn_ports (t : Tile) (i : Instr) (n : Option Nat) : (stallOn s t i n).ports = s.ports := by
  rw [stallOn_only s t i n]
@[simp] theorem stallOn_hub (t : Tile) (i : Instr) (n : Option Nat) : (stallOn s t i n).hub = s.hub := by
  rw [stallOn_only s t i n]
@[simp] theorem stallOn_gov (t : Tile) (i : Instr) (n : Option Nat) : (stallOn s t i n).gov = s.gov := by
  rw [stallOn_only s t i n]
@[simp] theorem stallOn_svc (t : Tile) (i : Instr) (n : Option Nat) : (stallOn s t i n).svc = s.svc := by
  rw [stallOn_only s t i n]
@[simp] theorem stallOn_tsclk (t : Tile) (i : Instr) (n : Option Nat) : (stallOn s t i n).tsclk = s.tsclk := by
  rw [stallOn_only s t i n]
@[simp] theorem stallOn_freeCtr (t : Tile) (i : Instr) (n : Option Nat) : (stallOn s t i n).freeCtr = s.freeCtr := by
  rw [stallOn_only s t i n]
@[simp] theorem stallOn_out (t : Tile) (i : Instr) (n : Option Nat) : (stallOn s t i n).out = s.out := by
  rw [stallOn_only s t i n]
@[simp] theorem stallOn_reg (t : Tile) (i : Instr) (n : Option Nat) (b : Nat) : (stallOn s t i n).reg b = s.reg b := by
  simp only [State.reg, stallOn_regs]
@[simp] theorem stallOn_rbit (t : Tile) (i : Instr) (n : Option Nat) (b j : Nat) : (stallOn s t i n).rbit b j = s.rbit b j := by
  simp only [State.rbit, State.reg, stallOn_regs]
@[simp] theorem stallOn_fld (t : Tile) (i : Instr) (n : Option Nat) (h : Field) : (stallOn s t i n).fld h = s.fld h := by
  simp only [State.fld, stallOn_fields]
@[simp] theorem stallOn_prt (t : Tile) (i : Instr) (n : Option Nat) (q : Part) : (stallOn s t i n).prt q = s.prt q := by
  simp only [State.prt, stallOn_parts]
@[simp] theorem stallOn_port (t : Tile) (i : Instr) (n : Option Nat) (z : Port) : (stallOn s t i n).port z = s.port z := by
  simp only [State.port, stallOn_ports]
@[simp] theorem stallOn_bank (t : Tile) (i : Instr) (n : Option Nat) (j : Nat) : (stallOn s t i n).bank j = s.bank j := by
  simp only [State.bank, stallOn_banks]
@[simp] theorem stallOn_weir (t : Tile) (i : Instr) (n : Option Nat) (j : Nat) : (stallOn s t i n).weir j = s.weir j := by
  simp only [State.weir, stallOn_weirs]
@[simp] theorem stallOn_arb (t : Tile) (i : Instr) (n : Option Nat) (j : Nat) : (stallOn s t i n).arb j = s.arb j := by
  simp only [State.arb, stallOn_arbs]
@[simp] theorem stallOn_arr (t : Tile) (i : Instr) (n : Option Nat) (u : Tile) : (stallOn s t i n).arr u = s.arr u := s.arr_modSeq t u _
@[simp] theorem stallOn_vec (t : Tile) (i : Instr) (n : Option Nat) (u : Tile) : (stallOn s t i n).vec u = s.vec u := s.vec_modSeq t u _
@[simp] theorem stallOn_mem (t : Tile) (i : Instr) (n : Option Nat) (u : Tile) : (stallOn s t i n).mem u = s.mem u := s.mem_modSeq t u _
@[simp] theorem stallOn_v (t : Tile) (i : Instr) (n : Option Nat) (u : Tile) (r : VReg) : (stallOn s t i n).v u r = s.v u r := s.v_modSeq t u _ r
theorem stallOn_core_other (t : Tile) (i : Instr) (n : Option Nat) (u : Tile) (hu : u ≠ t) : (stallOn s t i n).core u = s.core u := s.core_modCore_other t u _ hu
/-- All that setHalf can change. -/
theorem setHalf_only (t : Tile) (hb : Bool) (x : HalfState) :
    setHalf s t hb x = { s with cores := (setHalf s t hb x).cores } := by
  rfl
@[simp] theorem setHalf_pending (t : Tile) (hb : Bool) (x : HalfState) : (setHalf s t hb x).pending = s.pending := by
  rw [setHalf_only s t hb x]
@[simp] theorem setHalf_regs (t : Tile) (hb : Bool) (x : HalfState) : (setHalf s t hb x).regs = s.regs := by
  rw [setHalf_only s t hb x]
@[simp] theorem setHalf_spares (t : Tile) (hb : Bool) (x : HalfState) : (setHalf s t hb x).spares = s.spares := by
  rw [setHalf_only s t hb x]
@[simp] theorem setHalf_wells (t : Tile) (hb : Bool) (x : HalfState) : (setHalf s t hb x).wells = s.wells := by
  rw [setHalf_only s t hb x]
@[simp] theorem setHalf_wellUe (t : Tile) (hb : Bool) (x : HalfState) : (setHalf s t hb x).wellUe = s.wellUe := by
  rw [setHalf_only s t hb x]
@[simp] theorem setHalf_wellCe (t : Tile) (hb : Bool) (x : HalfState) : (setHalf s t hb x).wellCe = s.wellCe := by
  rw [setHalf_only s t hb x]
@[simp] theorem setHalf_banks (t : Tile) (hb : Bool) (x : HalfState) : (setHalf s t hb x).banks = s.banks := by
  rw [setHalf_only s t hb x]
@[simp] theorem setHalf_fields (t : Tile) (hb : Bool) (x : HalfState) : (setHalf s t hb x).fields = s.fields := by
  rw [setHalf_only s t hb x]
@[simp] theorem setHalf_arbs (t : Tile) (hb : Bool) (x : HalfState) : (setHalf s t hb x).arbs = s.arbs := by
  rw [setHalf_only s t hb x]
@[simp] theorem setHalf_weirs (t : Tile) (hb : Bool) (x : HalfState) : (setHalf s t hb x).weirs = s.weirs := by
  rw [setHalf_only s t hb x]
@[simp] theorem setHalf_parts (t : Tile) (hb : Bool) (x : HalfState) : (setHalf s t hb x).parts = s.parts := by
  rw [setHalf_only s t hb x]
@[simp] theorem setHalf_ports (t : Tile) (hb : Bool) (x : HalfState) : (setHalf s t hb x).ports = s.ports := by
  rw [setHalf_only s t hb x]
@[simp] theorem setHalf_hub (t : Tile) (hb : Bool) (x : HalfState) : (setHalf s t hb x).hub = s.hub := by
  rw [setHalf_only s t hb x]
@[simp] theorem setHalf_gov (t : Tile) (hb : Bool) (x : HalfState) : (setHalf s t hb x).gov = s.gov := by
  rw [setHalf_only s t hb x]
@[simp] theorem setHalf_svc (t : Tile) (hb : Bool) (x : HalfState) : (setHalf s t hb x).svc = s.svc := by
  rw [setHalf_only s t hb x]
@[simp] theorem setHalf_tsclk (t : Tile) (hb : Bool) (x : HalfState) : (setHalf s t hb x).tsclk = s.tsclk := by
  rw [setHalf_only s t hb x]
@[simp] theorem setHalf_freeCtr (t : Tile) (hb : Bool) (x : HalfState) : (setHalf s t hb x).freeCtr = s.freeCtr := by
  rw [setHalf_only s t hb x]
@[simp] theorem setHalf_out (t : Tile) (hb : Bool) (x : HalfState) : (setHalf s t hb x).out = s.out := by
  rw [setHalf_only s t hb x]
@[simp] theorem setHalf_reg (t : Tile) (hb : Bool) (x : HalfState) (b : Nat) : (setHalf s t hb x).reg b = s.reg b := by
  simp only [State.reg, setHalf_regs]
@[simp] theorem setHalf_rbit (t : Tile) (hb : Bool) (x : HalfState) (b j : Nat) : (setHalf s t hb x).rbit b j = s.rbit b j := by
  simp only [State.rbit, State.reg, setHalf_regs]
@[simp] theorem setHalf_fld (t : Tile) (hb : Bool) (x : HalfState) (h : Field) : (setHalf s t hb x).fld h = s.fld h := by
  simp only [State.fld, setHalf_fields]
@[simp] theorem setHalf_prt (t : Tile) (hb : Bool) (x : HalfState) (q : Part) : (setHalf s t hb x).prt q = s.prt q := by
  simp only [State.prt, setHalf_parts]
@[simp] theorem setHalf_port (t : Tile) (hb : Bool) (x : HalfState) (z : Port) : (setHalf s t hb x).port z = s.port z := by
  simp only [State.port, setHalf_ports]
@[simp] theorem setHalf_bank (t : Tile) (hb : Bool) (x : HalfState) (j : Nat) : (setHalf s t hb x).bank j = s.bank j := by
  simp only [State.bank, setHalf_banks]
@[simp] theorem setHalf_weir (t : Tile) (hb : Bool) (x : HalfState) (j : Nat) : (setHalf s t hb x).weir j = s.weir j := by
  simp only [State.weir, setHalf_weirs]
@[simp] theorem setHalf_arb (t : Tile) (hb : Bool) (x : HalfState) (j : Nat) : (setHalf s t hb x).arb j = s.arb j := by
  simp only [State.arb, setHalf_arbs]
@[simp] theorem setHalf_arr (t : Tile) (hb : Bool) (x : HalfState) (u : Tile) : (setHalf s t hb x).arr u = s.arr u := s.arr_modSeq t u _
@[simp] theorem setHalf_vec (t : Tile) (hb : Bool) (x : HalfState) (u : Tile) : (setHalf s t hb x).vec u = s.vec u := s.vec_modSeq t u _
@[simp] theorem setHalf_mem (t : Tile) (hb : Bool) (x : HalfState) (u : Tile) : (setHalf s t hb x).mem u = s.mem u := s.mem_modSeq t u _
@[simp] theorem setHalf_v (t : Tile) (hb : Bool) (x : HalfState) (u : Tile) (r : VReg) : (setHalf s t hb x).v u r = s.v u r := s.v_modSeq t u _ r
theorem setHalf_core_other (t : Tile) (hb : Bool) (x : HalfState) (u : Tile) (hu : u ≠ t) : (setHalf s t hb x).core u = s.core u := s.core_modCore_other t u _ hu

@[simp] theorem noteIssue_pc (t u : Tile) : (noteIssue s t).pc u = s.pc u := by
  unfold noteIssue State.pc
  by_cases h : u = t
  · subst h
    rw [State.seq_modSeq_same]
  · rw [State.seq_modSeq_other _ _ _ _ h]
@[simp] theorem noteIssue_g (t u : Tile) (r : GReg) : (noteIssue s t).g u r = s.g u r := by
  unfold noteIssue State.g
  by_cases h : u = t
  · subst h
    rw [State.seq_modSeq_same]
    rfl
  · rw [State.seq_modSeq_other _ _ _ _ h]
@[simp] theorem advance_g (t u : Tile) (r : GReg) : (advance s t).g u r = s.g u r := by
  unfold advance State.g
  by_cases h : u = t
  · subst h
    rw [State.seq_modSeq_same]
    rfl
  · rw [State.seq_modSeq_other _ _ _ _ h]
@[simp] theorem setPc_g (t u : Tile) (x : Nat) (r : GReg) : (setPc s t x).g u r = s.g u r := by
  unfold setPc State.g
  by_cases h : u = t
  · subst h
    rw [State.seq_modSeq_same]
    rfl
  · rw [State.seq_modSeq_other _ _ _ _ h]

/-- The next instruction stands 4 bytes on. -/
theorem advance_pc (t : Tile) : (advance s t).pc t = (s.pc t + 4) % 0x10000 := by
  unfold advance State.pc
  rw [State.seq_modSeq_same]
  simp [BitVec.toNat_add]
theorem setPc_pc (t : Tile) (x : Nat) : (setPc s t x).pc t = x % 0x10000 := by
  unfold setPc State.pc
  rw [State.seq_modSeq_same]
  simp [BitVec.toNat_ofNat]

/-! ## Traps (R38) -/

theorem dropAll_only {α : Type} (l : List α) (c : State → α → Bool) (k : α → Nat) (g : State → α → Weir → Weir) :
    s.each l (fun s e => if c s e then s.modWeir (k e) (g s e) else s)
      = { s with weirs := (s.each l fun s e => if c s e then s.modWeir (k e) (g s e) else s).weirs } := by
  induction l generalizing s with
  | nil => rfl
  | cons a l ih =>
    rw [State.each_cons, ih]
    split <;> rfl

/-- All that dropWaiter can change. -/
theorem dropWaiter_only (t : Tile) :
    dropWaiter s t = { s with weirs := (dropWaiter s t).weirs } := by
  exact dropAll_only s s.weirs (fun _ e => e.2.waiters.contains t) (fun e => e.1) (fun _ _ w => { w with waiters := w.waiters.filter (· != t) })
@[simp] theorem dropWaiter_pending (t : Tile) : (dropWaiter s t).pending = s.pending := by
  rw [dropWaiter_only s t]
@[simp] theorem dropWaiter_regs (t : Tile) : (dropWaiter s t).regs = s.regs := by
  rw [dropWaiter_only s t]
@[simp] theorem dropWaiter_cores (t : Tile) : (dropWaiter s t).cores = s.cores := by
  rw [dropWaiter_only s t]
@[simp] theorem dropWaiter_spares (t : Tile) : (dropWaiter s t).spares = s.spares := by
  rw [dropWaiter_only s t]
@[simp] theorem dropWaiter_wells (t : Tile) : (dropWaiter s t).wells = s.wells := by
  rw [dropWaiter_only s t]
@[simp] theorem dropWaiter_wellUe (t : Tile) : (dropWaiter s t).wellUe = s.wellUe := by
  rw [dropWaiter_only s t]
@[simp] theorem dropWaiter_wellCe (t : Tile) : (dropWaiter s t).wellCe = s.wellCe := by
  rw [dropWaiter_only s t]
@[simp] theorem dropWaiter_banks (t : Tile) : (dropWaiter s t).banks = s.banks := by
  rw [dropWaiter_only s t]
@[simp] theorem dropWaiter_fields (t : Tile) : (dropWaiter s t).fields = s.fields := by
  rw [dropWaiter_only s t]
@[simp] theorem dropWaiter_arbs (t : Tile) : (dropWaiter s t).arbs = s.arbs := by
  rw [dropWaiter_only s t]
@[simp] theorem dropWaiter_parts (t : Tile) : (dropWaiter s t).parts = s.parts := by
  rw [dropWaiter_only s t]
@[simp] theorem dropWaiter_ports (t : Tile) : (dropWaiter s t).ports = s.ports := by
  rw [dropWaiter_only s t]
@[simp] theorem dropWaiter_hub (t : Tile) : (dropWaiter s t).hub = s.hub := by
  rw [dropWaiter_only s t]
@[simp] theorem dropWaiter_gov (t : Tile) : (dropWaiter s t).gov = s.gov := by
  rw [dropWaiter_only s t]
@[simp] theorem dropWaiter_svc (t : Tile) : (dropWaiter s t).svc = s.svc := by
  rw [dropWaiter_only s t]
@[simp] theorem dropWaiter_tsclk (t : Tile) : (dropWaiter s t).tsclk = s.tsclk := by
  rw [dropWaiter_only s t]
@[simp] theorem dropWaiter_freeCtr (t : Tile) : (dropWaiter s t).freeCtr = s.freeCtr := by
  rw [dropWaiter_only s t]
@[simp] theorem dropWaiter_out (t : Tile) : (dropWaiter s t).out = s.out := by
  rw [dropWaiter_only s t]
@[simp] theorem dropWaiter_reg (t : Tile) (b : Nat) : (dropWaiter s t).reg b = s.reg b := by
  simp only [State.reg, dropWaiter_regs]
@[simp] theorem dropWaiter_rbit (t : Tile) (b j : Nat) : (dropWaiter s t).rbit b j = s.rbit b j := by
  simp only [State.rbit, State.reg, dropWaiter_regs]
@[simp] theorem dropWaiter_core (t : Tile) (u : Tile) : (dropWaiter s t).core u = s.core u := by
  simp only [State.core, dropWaiter_cores]
@[simp] theorem dropWaiter_seq (t : Tile) (u : Tile) : (dropWaiter s t).seq u = s.seq u := by
  simp only [State.seq, State.core, dropWaiter_cores]
@[simp] theorem dropWaiter_arr (t : Tile) (u : Tile) : (dropWaiter s t).arr u = s.arr u := by
  simp only [State.arr, State.core, dropWaiter_cores]
@[simp] theorem dropWaiter_vec (t : Tile) (u : Tile) : (dropWaiter s t).vec u = s.vec u := by
  simp only [State.vec, State.core, dropWaiter_cores]
@[simp] theorem dropWaiter_mem (t : Tile) (u : Tile) : (dropWaiter s t).mem u = s.mem u := by
  simp only [State.mem, State.core, dropWaiter_cores]
@[simp] theorem dropWaiter_g (t : Tile) (u : Tile) (r' : GReg) : (dropWaiter s t).g u r' = s.g u r' := by
  simp only [State.g, State.seq, State.core, dropWaiter_cores]
@[simp] theorem dropWaiter_v (t : Tile) (u : Tile) (r' : VReg) : (dropWaiter s t).v u r' = s.v u r' := by
  simp only [State.v, State.vec, State.core, dropWaiter_cores]
@[simp] theorem dropWaiter_pc (t : Tile) (u : Tile) : (dropWaiter s t).pc u = s.pc u := by
  simp only [State.pc, State.seq, State.core, dropWaiter_cores]
@[simp] theorem dropWaiter_fld (t : Tile) (h : Field) : (dropWaiter s t).fld h = s.fld h := by
  simp only [State.fld, dropWaiter_fields]
@[simp] theorem dropWaiter_prt (t : Tile) (q : Part) : (dropWaiter s t).prt q = s.prt q := by
  simp only [State.prt, dropWaiter_parts]
@[simp] theorem dropWaiter_port (t : Tile) (z : Port) : (dropWaiter s t).port z = s.port z := by
  simp only [State.port, dropWaiter_ports]
@[simp] theorem dropWaiter_bank (t : Tile) (j : Nat) : (dropWaiter s t).bank j = s.bank j := by
  simp only [State.bank, dropWaiter_banks]
@[simp] theorem dropWaiter_arb (t : Tile) (j : Nat) : (dropWaiter s t).arb j = s.arb j := by
  simp only [State.arb, dropWaiter_arbs]
/-- All that raiseTrap can change. -/
theorem raiseTrap_only (t : Tile) (code a : Nat) :
    raiseTrap s t code a = { s with regs := (raiseTrap s t code a).regs, cores := (raiseTrap s t code a).cores, weirs := (raiseTrap s t code a).weirs } := by
  unfold raiseTrap
  split
  · rfl
  · apply State.ext_fields <;> simp
@[simp] theorem raiseTrap_pending (t : Tile) (code a : Nat) : (raiseTrap s t code a).pending = s.pending := by
  rw [raiseTrap_only s t code a]
@[simp] theorem raiseTrap_spares (t : Tile) (code a : Nat) : (raiseTrap s t code a).spares = s.spares := by
  rw [raiseTrap_only s t code a]
@[simp] theorem raiseTrap_wells (t : Tile) (code a : Nat) : (raiseTrap s t code a).wells = s.wells := by
  rw [raiseTrap_only s t code a]
@[simp] theorem raiseTrap_wellUe (t : Tile) (code a : Nat) : (raiseTrap s t code a).wellUe = s.wellUe := by
  rw [raiseTrap_only s t code a]
@[simp] theorem raiseTrap_wellCe (t : Tile) (code a : Nat) : (raiseTrap s t code a).wellCe = s.wellCe := by
  rw [raiseTrap_only s t code a]
@[simp] theorem raiseTrap_banks (t : Tile) (code a : Nat) : (raiseTrap s t code a).banks = s.banks := by
  rw [raiseTrap_only s t code a]
@[simp] theorem raiseTrap_fields (t : Tile) (code a : Nat) : (raiseTrap s t code a).fields = s.fields := by
  rw [raiseTrap_only s t code a]
@[simp] theorem raiseTrap_arbs (t : Tile) (code a : Nat) : (raiseTrap s t code a).arbs = s.arbs := by
  rw [raiseTrap_only s t code a]
@[simp] theorem raiseTrap_parts (t : Tile) (code a : Nat) : (raiseTrap s t code a).parts = s.parts := by
  rw [raiseTrap_only s t code a]
@[simp] theorem raiseTrap_ports (t : Tile) (code a : Nat) : (raiseTrap s t code a).ports = s.ports := by
  rw [raiseTrap_only s t code a]
@[simp] theorem raiseTrap_hub (t : Tile) (code a : Nat) : (raiseTrap s t code a).hub = s.hub := by
  rw [raiseTrap_only s t code a]
@[simp] theorem raiseTrap_gov (t : Tile) (code a : Nat) : (raiseTrap s t code a).gov = s.gov := by
  rw [raiseTrap_only s t code a]
@[simp] theorem raiseTrap_svc (t : Tile) (code a : Nat) : (raiseTrap s t code a).svc = s.svc := by
  rw [raiseTrap_only s t code a]
@[simp] theorem raiseTrap_tsclk (t : Tile) (code a : Nat) : (raiseTrap s t code a).tsclk = s.tsclk := by
  rw [raiseTrap_only s t code a]
@[simp] theorem raiseTrap_freeCtr (t : Tile) (code a : Nat) : (raiseTrap s t code a).freeCtr = s.freeCtr := by
  rw [raiseTrap_only s t code a]
@[simp] theorem raiseTrap_out (t : Tile) (code a : Nat) : (raiseTrap s t code a).out = s.out := by
  rw [raiseTrap_only s t code a]
@[simp] theorem raiseTrap_fld (t : Tile) (code a : Nat) (h : Field) : (raiseTrap s t code a).fld h = s.fld h := by
  simp only [State.fld, raiseTrap_fields]
@[simp] theorem raiseTrap_prt (t : Tile) (code a : Nat) (q : Part) : (raiseTrap s t code a).prt q = s.prt q := by
  simp only [State.prt, raiseTrap_parts]
@[simp] theorem raiseTrap_port (t : Tile) (code a : Nat) (z : Port) : (raiseTrap s t code a).port z = s.port z := by
  simp only [State.port, raiseTrap_ports]
@[simp] theorem raiseTrap_bank (t : Tile) (code a : Nat) (j : Nat) : (raiseTrap s t code a).bank j = s.bank j := by
  simp only [State.bank, raiseTrap_banks]
@[simp] theorem raiseTrap_arb (t : Tile) (code a : Nat) (j : Nat) : (raiseTrap s t code a).arb j = s.arb j := by
  simp only [State.arb, raiseTrap_arbs]
/-- All that trapNow can change. -/
theorem trapNow_only (t : Tile) (code : Nat) :
    trapNow s t code = { s with regs := (trapNow s t code).regs, cores := (trapNow s t code).cores, weirs := (trapNow s t code).weirs } := by
  unfold trapNow
  exact raiseTrap_only s t code 0
@[simp] theorem trapNow_pending (t : Tile) (code : Nat) : (trapNow s t code).pending = s.pending := by
  rw [trapNow_only s t code]
@[simp] theorem trapNow_spares (t : Tile) (code : Nat) : (trapNow s t code).spares = s.spares := by
  rw [trapNow_only s t code]
@[simp] theorem trapNow_wells (t : Tile) (code : Nat) : (trapNow s t code).wells = s.wells := by
  rw [trapNow_only s t code]
@[simp] theorem trapNow_wellUe (t : Tile) (code : Nat) : (trapNow s t code).wellUe = s.wellUe := by
  rw [trapNow_only s t code]
@[simp] theorem trapNow_wellCe (t : Tile) (code : Nat) : (trapNow s t code).wellCe = s.wellCe := by
  rw [trapNow_only s t code]
@[simp] theorem trapNow_banks (t : Tile) (code : Nat) : (trapNow s t code).banks = s.banks := by
  rw [trapNow_only s t code]
@[simp] theorem trapNow_fields (t : Tile) (code : Nat) : (trapNow s t code).fields = s.fields := by
  rw [trapNow_only s t code]
@[simp] theorem trapNow_arbs (t : Tile) (code : Nat) : (trapNow s t code).arbs = s.arbs := by
  rw [trapNow_only s t code]
@[simp] theorem trapNow_parts (t : Tile) (code : Nat) : (trapNow s t code).parts = s.parts := by
  rw [trapNow_only s t code]
@[simp] theorem trapNow_ports (t : Tile) (code : Nat) : (trapNow s t code).ports = s.ports := by
  rw [trapNow_only s t code]
@[simp] theorem trapNow_hub (t : Tile) (code : Nat) : (trapNow s t code).hub = s.hub := by
  rw [trapNow_only s t code]
@[simp] theorem trapNow_gov (t : Tile) (code : Nat) : (trapNow s t code).gov = s.gov := by
  rw [trapNow_only s t code]
@[simp] theorem trapNow_svc (t : Tile) (code : Nat) : (trapNow s t code).svc = s.svc := by
  rw [trapNow_only s t code]
@[simp] theorem trapNow_tsclk (t : Tile) (code : Nat) : (trapNow s t code).tsclk = s.tsclk := by
  rw [trapNow_only s t code]
@[simp] theorem trapNow_freeCtr (t : Tile) (code : Nat) : (trapNow s t code).freeCtr = s.freeCtr := by
  rw [trapNow_only s t code]
@[simp] theorem trapNow_out (t : Tile) (code : Nat) : (trapNow s t code).out = s.out := by
  rw [trapNow_only s t code]
@[simp] theorem trapNow_fld (t : Tile) (code : Nat) (h : Field) : (trapNow s t code).fld h = s.fld h := by
  simp only [State.fld, trapNow_fields]
@[simp] theorem trapNow_prt (t : Tile) (code : Nat) (q : Part) : (trapNow s t code).prt q = s.prt q := by
  simp only [State.prt, trapNow_parts]
@[simp] theorem trapNow_port (t : Tile) (code : Nat) (z : Port) : (trapNow s t code).port z = s.port z := by
  simp only [State.port, trapNow_ports]
@[simp] theorem trapNow_bank (t : Tile) (code : Nat) (j : Nat) : (trapNow s t code).bank j = s.bank j := by
  simp only [State.bank, trapNow_banks]
@[simp] theorem trapNow_arb (t : Tile) (code : Nat) (j : Nat) : (trapNow s t code).arb j = s.arb j := by
  simp only [State.arb, trapNow_arbs]
@[simp] theorem raiseTrap_arr (t : Tile) (code a : Nat) (u : Tile) : (raiseTrap s t code a).arr u = s.arr u := by
  unfold raiseTrap
  split
  · rfl
  · simp
@[simp] theorem raiseTrap_vec (t : Tile) (code a : Nat) (u : Tile) : (raiseTrap s t code a).vec u = s.vec u := by
  unfold raiseTrap
  split
  · rfl
  · simp
@[simp] theorem raiseTrap_mem (t : Tile) (code a : Nat) (u : Tile) : (raiseTrap s t code a).mem u = s.mem u := by
  unfold raiseTrap
  split
  · rfl
  · simp
@[simp] theorem raiseTrap_v (t : Tile) (code a : Nat) (u : Tile) (r : VReg) : (raiseTrap s t code a).v u r = s.v u r := by
  simp only [State.v, raiseTrap_vec]
@[simp] theorem raiseTrap_pc (t : Tile) (code a : Nat) (u : Tile) : (raiseTrap s t code a).pc u = s.pc u := by
  unfold raiseTrap
  split
  · rfl
  · unfold State.pc
    by_cases h : u = t
    · subst h
      simp
    · rw [State.seq_modSeq_other _ _ _ _ h]
      simp
@[simp] theorem raiseTrap_g (t : Tile) (code a : Nat) (u : Tile) (r : GReg) : (raiseTrap s t code a).g u r = s.g u r := by
  unfold raiseTrap
  split
  · rfl
  · unfold State.g
    by_cases h : u = t
    · subst h
      rw [State.seq_modSeq_same]
      simp [SeqSt.reg]
    · rw [State.seq_modSeq_other _ _ _ _ h]
      simp
@[simp] theorem trapNow_arr (t : Tile) (code : Nat) (u : Tile) : (trapNow s t code).arr u = s.arr u := by
  unfold trapNow raiseTrap
  split
  · rfl
  · simp
@[simp] theorem trapNow_vec (t : Tile) (code : Nat) (u : Tile) : (trapNow s t code).vec u = s.vec u := by
  unfold trapNow raiseTrap
  split
  · rfl
  · simp
@[simp] theorem trapNow_mem (t : Tile) (code : Nat) (u : Tile) : (trapNow s t code).mem u = s.mem u := by
  unfold trapNow raiseTrap
  split
  · rfl
  · simp
@[simp] theorem trapNow_v (t : Tile) (code : Nat) (u : Tile) (r : VReg) : (trapNow s t code).v u r = s.v u r := by
  simp only [State.v, trapNow_vec]
@[simp] theorem trapNow_pc (t : Tile) (code : Nat) (u : Tile) : (trapNow s t code).pc u = s.pc u := by
  unfold trapNow raiseTrap
  split
  · rfl
  · unfold State.pc
    by_cases h : u = t
    · subst h
      simp
    · rw [State.seq_modSeq_other _ _ _ _ h]
      simp
@[simp] theorem trapNow_g (t : Tile) (code : Nat) (u : Tile) (r : GReg) : (trapNow s t code).g u r = s.g u r := by
  unfold trapNow raiseTrap
  split
  · rfl
  · unfold State.g
    by_cases h : u = t
    · subst h
      rw [State.seq_modSeq_same]
      simp [SeqSt.reg]
    · rw [State.seq_modSeq_other _ _ _ _ h]
      simp

/-- A trap waits afterwards. -/
theorem raiseTrap_trap (t : Tile) (code a : Nat) : ((raiseTrap s t code a).seq t).trap = true := by
  unfold raiseTrap
  split
  · rename_i h
    exact (Bool.and_eq_true _ _ ▸ h).1
  · rw [State.seq_modSeq_same]

/-- A trap with none before it records cause, PC and address. -/
theorem raiseTrap_fresh (t : Tile) (code a : Nat) (h : (s.seq t).trap = false) :
    raiseTrap s t code a =
      (dropWaiter ((((s.setReg (trapCause t) (BitVec.ofNat 32 code)).setReg (trapPc t) (BitVec.ofNat 32 (s.pc t))).setReg
        (trapAddrLo t) (BitVec.ofNat 32 a)).setReg (trapAddrHi t) (BitVec.ofNat 32 (a / 2 ^ 32 % 2 ^ 16))) t).modSeq t
          fun q => { q with trap := true, stall := none } := by
  unfold raiseTrap
  rw [if_neg (by simp [h])]

theorem raiseTrap_regs (t : Tile) (code a : Nat) (h : (s.seq t).trap = false) :
    (raiseTrap s t code a).reg (trapCause t) = BitVec.ofNat 32 code
      ∧ (raiseTrap s t code a).reg (trapPc t) = BitVec.ofNat 32 (s.pc t)
      ∧ (raiseTrap s t code a).reg (trapAddrLo t) = BitVec.ofNat 32 a
      ∧ (raiseTrap s t code a).reg (trapAddrHi t) = BitVec.ofNat 32 (a / 2 ^ 32 % 2 ^ 16) := by
  have d : trapCause t = tilePage t 0 + 0x048 ∧ trapPc t = tilePage t 0 + 0x04C ∧ trapAddrLo t = tilePage t 0 + 0x050
    ∧ trapAddrHi t = tilePage t 0 + 0x054 := ⟨rfl, rfl, rfl, rfl⟩
  rw [raiseTrap_fresh s t code a h]
  simp [State.reg_setReg, d.1, d.2.1, d.2.2.1, d.2.2.2]

/-- A trap writes no register but its four. -/
theorem raiseTrap_reg (t : Tile) (code a b : Nat)
    (h : b ≠ trapCause t ∧ b ≠ trapPc t ∧ b ≠ trapAddrLo t ∧ b ≠ trapAddrHi t) : (raiseTrap s t code a).reg b = s.reg b := by
  unfold raiseTrap
  split
  · rfl
  · simp [State.reg_setReg, h.1, h.2.1, h.2.2.1, h.2.2.2]

/-! ## The boundary -/

/-- All that dbgStopNow can change. -/
theorem dbgStopNow_only (t : Tile) (c : Nat) :
    dbgStopNow s t c = { s with regs := (dbgStopNow s t c).regs, cores := (dbgStopNow s t c).cores } := by
  apply State.ext_fields <;> simp [dbgStopNow]
@[simp] theorem dbgStopNow_pending (t : Tile) (c : Nat) : (dbgStopNow s t c).pending = s.pending := by
  rw [dbgStopNow_only s t c]
@[simp] theorem dbgStopNow_spares (t : Tile) (c : Nat) : (dbgStopNow s t c).spares = s.spares := by
  rw [dbgStopNow_only s t c]
@[simp] theorem dbgStopNow_wells (t : Tile) (c : Nat) : (dbgStopNow s t c).wells = s.wells := by
  rw [dbgStopNow_only s t c]
@[simp] theorem dbgStopNow_wellUe (t : Tile) (c : Nat) : (dbgStopNow s t c).wellUe = s.wellUe := by
  rw [dbgStopNow_only s t c]
@[simp] theorem dbgStopNow_wellCe (t : Tile) (c : Nat) : (dbgStopNow s t c).wellCe = s.wellCe := by
  rw [dbgStopNow_only s t c]
@[simp] theorem dbgStopNow_banks (t : Tile) (c : Nat) : (dbgStopNow s t c).banks = s.banks := by
  rw [dbgStopNow_only s t c]
@[simp] theorem dbgStopNow_fields (t : Tile) (c : Nat) : (dbgStopNow s t c).fields = s.fields := by
  rw [dbgStopNow_only s t c]
@[simp] theorem dbgStopNow_arbs (t : Tile) (c : Nat) : (dbgStopNow s t c).arbs = s.arbs := by
  rw [dbgStopNow_only s t c]
@[simp] theorem dbgStopNow_weirs (t : Tile) (c : Nat) : (dbgStopNow s t c).weirs = s.weirs := by
  rw [dbgStopNow_only s t c]
@[simp] theorem dbgStopNow_parts (t : Tile) (c : Nat) : (dbgStopNow s t c).parts = s.parts := by
  rw [dbgStopNow_only s t c]
@[simp] theorem dbgStopNow_ports (t : Tile) (c : Nat) : (dbgStopNow s t c).ports = s.ports := by
  rw [dbgStopNow_only s t c]
@[simp] theorem dbgStopNow_hub (t : Tile) (c : Nat) : (dbgStopNow s t c).hub = s.hub := by
  rw [dbgStopNow_only s t c]
@[simp] theorem dbgStopNow_gov (t : Tile) (c : Nat) : (dbgStopNow s t c).gov = s.gov := by
  rw [dbgStopNow_only s t c]
@[simp] theorem dbgStopNow_svc (t : Tile) (c : Nat) : (dbgStopNow s t c).svc = s.svc := by
  rw [dbgStopNow_only s t c]
@[simp] theorem dbgStopNow_tsclk (t : Tile) (c : Nat) : (dbgStopNow s t c).tsclk = s.tsclk := by
  rw [dbgStopNow_only s t c]
@[simp] theorem dbgStopNow_freeCtr (t : Tile) (c : Nat) : (dbgStopNow s t c).freeCtr = s.freeCtr := by
  rw [dbgStopNow_only s t c]
@[simp] theorem dbgStopNow_out (t : Tile) (c : Nat) : (dbgStopNow s t c).out = s.out := by
  rw [dbgStopNow_only s t c]
@[simp] theorem dbgStopNow_fld (t : Tile) (c : Nat) (h : Field) : (dbgStopNow s t c).fld h = s.fld h := by
  simp only [State.fld, dbgStopNow_fields]
@[simp] theorem dbgStopNow_prt (t : Tile) (c : Nat) (q : Part) : (dbgStopNow s t c).prt q = s.prt q := by
  simp only [State.prt, dbgStopNow_parts]
@[simp] theorem dbgStopNow_port (t : Tile) (c : Nat) (z : Port) : (dbgStopNow s t c).port z = s.port z := by
  simp only [State.port, dbgStopNow_ports]
@[simp] theorem dbgStopNow_bank (t : Tile) (c : Nat) (j : Nat) : (dbgStopNow s t c).bank j = s.bank j := by
  simp only [State.bank, dbgStopNow_banks]
@[simp] theorem dbgStopNow_weir (t : Tile) (c : Nat) (j : Nat) : (dbgStopNow s t c).weir j = s.weir j := by
  simp only [State.weir, dbgStopNow_weirs]
@[simp] theorem dbgStopNow_arb (t : Tile) (c : Nat) (j : Nat) : (dbgStopNow s t c).arb j = s.arb j := by
  simp only [State.arb, dbgStopNow_arbs]
/-- All that boundary can change. -/
theorem boundary_only (t : Tile) :
    boundary s t = { s with regs := (boundary s t).regs, cores := (boundary s t).cores, hub := (boundary s t).hub, out := (boundary s t).out } := by
  unfold boundary
  split
  · rfl
  · split
    · apply State.ext_fields <;> simp [setHalted]
    · split
      · rw [setEvt_only, dbgStopNow_only]
      · split
        · rw [dbgStopNow_only]
        · rfl
@[simp] theorem boundary_pending (t : Tile) : (boundary s t).pending = s.pending := by
  rw [boundary_only s t]
@[simp] theorem boundary_spares (t : Tile) : (boundary s t).spares = s.spares := by
  rw [boundary_only s t]
@[simp] theorem boundary_wells (t : Tile) : (boundary s t).wells = s.wells := by
  rw [boundary_only s t]
@[simp] theorem boundary_wellUe (t : Tile) : (boundary s t).wellUe = s.wellUe := by
  rw [boundary_only s t]
@[simp] theorem boundary_wellCe (t : Tile) : (boundary s t).wellCe = s.wellCe := by
  rw [boundary_only s t]
@[simp] theorem boundary_banks (t : Tile) : (boundary s t).banks = s.banks := by
  rw [boundary_only s t]
@[simp] theorem boundary_fields (t : Tile) : (boundary s t).fields = s.fields := by
  rw [boundary_only s t]
@[simp] theorem boundary_arbs (t : Tile) : (boundary s t).arbs = s.arbs := by
  rw [boundary_only s t]
@[simp] theorem boundary_weirs (t : Tile) : (boundary s t).weirs = s.weirs := by
  rw [boundary_only s t]
@[simp] theorem boundary_parts (t : Tile) : (boundary s t).parts = s.parts := by
  rw [boundary_only s t]
@[simp] theorem boundary_ports (t : Tile) : (boundary s t).ports = s.ports := by
  rw [boundary_only s t]
@[simp] theorem boundary_gov (t : Tile) : (boundary s t).gov = s.gov := by
  rw [boundary_only s t]
@[simp] theorem boundary_svc (t : Tile) : (boundary s t).svc = s.svc := by
  rw [boundary_only s t]
@[simp] theorem boundary_tsclk (t : Tile) : (boundary s t).tsclk = s.tsclk := by
  rw [boundary_only s t]
@[simp] theorem boundary_freeCtr (t : Tile) : (boundary s t).freeCtr = s.freeCtr := by
  rw [boundary_only s t]
@[simp] theorem boundary_fld (t : Tile) (h : Field) : (boundary s t).fld h = s.fld h := by
  simp only [State.fld, boundary_fields]
@[simp] theorem boundary_prt (t : Tile) (q : Part) : (boundary s t).prt q = s.prt q := by
  simp only [State.prt, boundary_parts]
@[simp] theorem boundary_port (t : Tile) (z : Port) : (boundary s t).port z = s.port z := by
  simp only [State.port, boundary_ports]
@[simp] theorem boundary_bank (t : Tile) (j : Nat) : (boundary s t).bank j = s.bank j := by
  simp only [State.bank, boundary_banks]
@[simp] theorem boundary_weir (t : Tile) (j : Nat) : (boundary s t).weir j = s.weir j := by
  simp only [State.weir, boundary_weirs]
@[simp] theorem boundary_arb (t : Tile) (j : Nat) : (boundary s t).arb j = s.arb j := by
  simp only [State.arb, boundary_arbs]
@[simp] theorem dbgStopNow_arr (t : Tile) (c : Nat) (u : Tile) : (dbgStopNow s t c).arr u = s.arr u := by
  unfold dbgStopNow
  simp
@[simp] theorem boundary_arr (t u : Tile) : (boundary s t).arr u = s.arr u := by
  unfold boundary
  split
  · rfl
  · split
    · simp [setHalted]
    · split
      · simp
      · split <;> simp
@[simp] theorem dbgStopNow_vec (t : Tile) (c : Nat) (u : Tile) : (dbgStopNow s t c).vec u = s.vec u := by
  unfold dbgStopNow
  simp
@[simp] theorem boundary_vec (t u : Tile) : (boundary s t).vec u = s.vec u := by
  unfold boundary
  split
  · rfl
  · split
    · simp [setHalted]
    · split
      · simp
      · split <;> simp
@[simp] theorem dbgStopNow_mem (t : Tile) (c : Nat) (u : Tile) : (dbgStopNow s t c).mem u = s.mem u := by
  unfold dbgStopNow
  simp
@[simp] theorem boundary_mem (t u : Tile) : (boundary s t).mem u = s.mem u := by
  unfold boundary
  split
  · rfl
  · split
    · simp [setHalted]
    · split
      · simp
      · split <;> simp
@[simp] theorem dbgStopNow_pc (t : Tile) (c : Nat) (u : Tile) : (dbgStopNow s t c).pc u = s.pc u := by
  unfold dbgStopNow
  by_cases h : u = t
  · subst h
    simp only [State.pc]
    rw [State.seq_modSeq_same]
    simp
  · simp only [State.pc]
    rw [State.seq_modSeq_other _ _ _ _ h]
    simp
@[simp] theorem boundary_pc (t u : Tile) : (boundary s t).pc u = s.pc u := by
  unfold boundary
  split
  · rfl
  · split
    · simp [setHalted]
    · split
      · simp
      · split <;> simp
@[simp] theorem dbgStopNow_g (t : Tile) (c : Nat) (u : Tile) (r : GReg) : (dbgStopNow s t c).g u r = s.g u r := by
  unfold dbgStopNow
  by_cases h : u = t
  · subst h
    simp only [State.g, SeqSt.reg]
    rw [State.seq_modSeq_same]
    simp
  · simp only [State.g, SeqSt.reg]
    rw [State.seq_modSeq_other _ _ _ _ h]
    simp
@[simp] theorem boundary_g (t u : Tile) (r : GReg) : (boundary s t).g u r = s.g u r := by
  unfold boundary
  split
  · rfl
  · split
    · simp [setHalted]
    · split
      · simp
      · split <;> simp
@[simp] theorem boundary_v (t u : Tile) (r : VReg) : (boundary s t).v u r = s.v u r := by
  simp only [State.v, boundary_vec]

/-- A boundary touches no other tile's core. -/
theorem boundary_core_other (t u : Tile) (h : u ≠ t) : (boundary s t).core u = s.core u := by
  unfold boundary
  split
  · rfl
  · split
    · simp [setHalted]
    · split
      · simp [dbgStopNow, State.modSeq, State.core_modCore_other _ _ _ _ h]
      · split
        · simp [dbgStopNow, State.modSeq, State.core_modCore_other _ _ _ _ h]
        · rfl

/-- The registers a boundary may write: SEQ_CTL and SEQ_STS where a halt request ends, DBG_STS and the debug event where a
debug stop begins, and the count of bad vectors. -/
theorem boundary_reg (t : Tile) (b : Nat)
    (h : b ≠ seqCtl t ∧ b ≠ seqSts t ∧ b ≠ dbgSts t ∧ b ≠ tilePage t 1 + 0x010 ∧ b ≠ hubPage 0 + 0x04C) :
    (boundary s t).reg b = s.reg b := by
  obtain ⟨h1, h2, h3, h4, h5⟩ := h
  unfold boundary
  split
  · rfl
  · split
    · unfold setHalted
      rw [State.reg_setRbit_other _ _ _ _ _ h2, State.reg_setRbit_other _ _ _ _ _ h1]
    · split
      · rw [setEvt_reg _ _ _ _ h5 h4]
        unfold dbgStopNow
        simp [State.reg_modReg, h3]
      · split
        · unfold dbgStopNow
          simp [State.reg_modReg, h3]
        · rfl

/-- A field of SeqSt that a debug stop does not write. -/
theorem dbgStopNow_seqField {β : Type} (P : SeqSt → β) (hP : ∀ (q : SeqSt) (n : Nat), P { q with stepArmed := false, stopArmed := false, dbgAt := n } = P q)
    (t : Tile) (c : Nat) (u : Tile) : P ((dbgStopNow s t c).seq u) = P (s.seq u) := by
  unfold dbgStopNow
  by_cases h : u = t
  · subst h
    rw [State.seq_modSeq_same, hP]
    simp
  · rw [State.seq_modSeq_other _ _ _ _ h]
    simp

/-- A field of SeqSt that a boundary does not write. -/
theorem boundary_seqField {β : Type} (P : SeqSt → β) (hP : ∀ (q : SeqSt) (n : Nat), P { q with stepArmed := false, stopArmed := false, dbgAt := n } = P q)
    (t u : Tile) : P ((boundary s t).seq u) = P (s.seq u) := by
  unfold boundary
  split
  · rfl
  · split
    · simp [setHalted]
    · split
      · rw [setEvt_seq, dbgStopNow_seqField s P hP]
      · split
        · exact dbgStopNow_seqField s P hP t 0 u
        · rfl

@[simp] theorem boundary_trap (t u : Tile) : ((boundary s t).seq u).trap = (s.seq u).trap :=
  boundary_seqField s (·.trap) (fun _ _ => rfl) t u
@[simp] theorem boundary_stall (t u : Tile) : ((boundary s t).seq u).stall = (s.seq u).stall :=
  boundary_seqField s (·.stall) (fun _ _ => rfl) t u
@[simp] theorem boundary_halfOf (t u : Tile) (h : Bool) : halfOf (boundary s t) u h = halfOf s u h := by
  unfold halfOf
  rw [boundary_seqField s (·.half0) (fun _ _ => rfl) t u, boundary_seqField s (·.half1) (fun _ _ => rfl) t u]

/-- Where no halt request waits, a boundary writes no register but the debug ones. -/
theorem boundary_reg' (t : Tile) (b : Nat) (hb : s.rbit (seqCtl t) 1 = false)
    (h : b ≠ dbgSts t ∧ b ≠ tilePage t 1 + 0x010 ∧ b ≠ hubPage 0 + 0x04C) : (boundary s t).reg b = s.reg b := by
  obtain ⟨h3, h4, h5⟩ := h
  unfold boundary
  split
  · rfl
  · split
    · rename_i hh
      simp [hb] at hh
    · split
      · rw [setEvt_reg _ _ _ _ h5 h4]
        unfold dbgStopNow
        simp [State.reg_modReg, h3]
      · split
        · unfold dbgStopNow
          simp [State.reg_modReg, h3]
        · rfl

/-- With no halt request and no debug stop armed, nothing stands at the boundary. -/
theorem boundary_none (t : Tile) (h1 : s.rbit (seqCtl t) 1 = false) (h2 : (s.seq t).stepArmed = false)
    (h3 : (s.seq t).stopArmed = false) : boundary s t = s := by
  unfold boundary
  simp [h1, h2, h3]

/-! ## Issue -/

/-- An instruction issues where the sequencer can, its half is no poisoned one, and the fetch lies in the half. -/
theorem issue_ready (t : Tile) (k : State → State) (h : canIssue s t = true)
    (hp : halfOf s t (activeHalf s t) ≠ .poisoned) (hpc : s.pc t ≤ 0x7FFC) :
    issue t s k = .next (boundary (k (noteIssue s t)) t) := by
  have hp' : halfOf (noteIssue s t) t (activeHalf (noteIssue s t) t) = halfOf s t (activeHalf s t) := by
    simp only [activeHalf, noteIssue_rbit]
    unfold halfOf noteIssue
    rw [State.seq_modSeq_same]
  have hpc' : ¬ 0x7FFC < s.pc t := Nat.not_lt.mpr hpc
  unfold issue
  simp only [h, if_true, hp, if_false, hpc']

/-- Where the sequencer cannot issue, nothing happens. -/
theorem issue_not (t : Tile) (k : State → State) (h : canIssue s t = false) : issue t s k = .next s := by
  unfold issue
  simp [h]

/-- issue always answers a next state. -/
theorem issue_next (t : Tile) (k : State → State) : ∃ s', issue t s k = .next s' := ⟨_, rfl⟩

end Sys2Proof.Machine
end

