-- ==== Sys2Proof/Laws/Issue.lean ====
section
/-!
SUPPORT. Laws of frames: what an instruction boundary leaves in terms of the claims' own words, and a completed command.
-/

namespace Sys2Proof.Machine

theorem Completes.of_eq {c : Instr} {s s' : State} {Q : State → Prop} (h : exec c s = .next s') (hq : Q s') :
    Completes c s Q := ⟨s', h, hq⟩

theorem SameRest.refl (s : State) : SameRest s s := ⟨rfl, rfl, rfl, rfl, rfl, rfl, rfl, rfl, rfl, rfl, rfl, rfl, rfl⟩
theorem SameMemory.refl (s : State) : SameMemory s s := ⟨fun _ => rfl, fun _ _ => rfl⟩
theorem RegisterFrame.refl (t : Tile) (l : List Nat) (s : State) : RegisterFrame t l s s :=
  ⟨SameMemory.refl s, fun _ => rfl, fun _ => rfl, fun _ => rfl, fun _ _ => rfl, fun _ _ => rfl, SameRest.refl s⟩

/-- A tile that can issue has no trap waiting and no halt request. -/
theorem Ready.facts {s : State} {t : Tile} (h : Ready s t) :
    (s.seq t).trap = false ∧ s.rbit (seqCtl t) 1 = false ∧ halted s t = false ∧ (s.seq t).stall = none := by
  have := h.1
  unfold canIssue at this
  simp_all

/-- An instruction that issues completes with its own effect and what stands at the boundary. -/
theorem Completes.issue {c : Instr} {s : State} {t : Tile} {k : State → State} {Q : State → Prop}
    (he : exec c s = Machine.issue t s k) (h : Ready s t) (hq : Q (boundary (k (noteIssue s t)) t)) : Completes c s Q :=
  ⟨_, he.trans (issue_ready s t k h.1 h.2.1 h.2.2), hq⟩

/-- An instruction that need not wait completes with its body's effect. -/
theorem Completes.issueDone {c i : Instr} {s s1 : State} {t : Tile} {body : State → Ans} {Q : State → Prop}
    (he : exec c s = issueWait t s i body) (h : Ready s t) (hb : body (noteIssue s t) = .done s1)
    (hq : Q (boundary s1 t)) : Completes c s Q := by
  unfold issueWait at he
  refine Completes.issue he h ?_
  rw [hb]
  exact hq

/-- An instruction that must wait completes its issue: the sequencer stands at it. -/
theorem Completes.issueWaits {c i : Instr} {s s1 : State} {t : Tile} {n : Option Nat} {body : State → Ans}
    {Q : State → Prop} (he : exec c s = issueWait t s i body) (h : Ready s t) (hb : body (noteIssue s t) = .wait n s1)
    (hq : Q (boundary (stallOn s1 t i n) t)) : Completes c s Q := by
  unfold issueWait at he
  refine Completes.issue he h ?_
  rw [hb]
  exact hq

/-! ## Frames -/

/-- An update of one tile's sequencer alone. -/
theorem RegisterFrame.modSeq (s : State) (t : Tile) (g : SeqSt → SeqSt) : RegisterFrame t [] s (s.modSeq t g) := by
  refine ⟨⟨fun a => rfl, fun u a => by simp⟩, fun u => by simp, fun u => by simp, fun u => by simp, fun u hu => ?_,
    fun a _ => rfl, SameRest.refl s⟩
  exact State.core_modCore_other _ _ _ _ hu

theorem RegisterFrame.setG (s : State) (t : Tile) (r : GReg) (w : Word) : RegisterFrame t [] s (s.setG t r w) := by
  unfold State.setG
  exact RegisterFrame.modSeq s t _

/-- A write of one register. -/
theorem RegisterFrame.setReg (s : State) (t : Tile) (a : Nat) (w : Word) : RegisterFrame t [a] s (s.setReg a w) := by
  refine ⟨SameMemory.refl _, fun _ => rfl, fun _ => rfl, fun _ => rfl, fun _ _ => rfl, fun b hb => ?_, SameRest.refl _⟩
  refine State.reg_setReg_other _ _ _ _ ?_
  simp at hb
  exact hb.1

theorem RegisterFrame.trans {t : Tile} {l : List Nat} {a b c : State} (f : RegisterFrame t l a b)
    (g : RegisterFrame t l b c) : RegisterFrame t l a c := by
  refine ⟨⟨fun a => ?_, fun u a => ?_⟩, fun u => ?_, fun u => ?_, fun u => ?_, fun u hu => ?_, fun a ha => ?_, ?_⟩
  · rw [g.memory.1, f.memory.1]
  · rw [g.memory.2, f.memory.2]
  · rw [g.stores, f.stores]
  · rw [g.array, f.array]
  · rw [g.vector, f.vector]
  · rw [g.tiles u hu, f.tiles u hu]
  · rw [g.regs a ha, f.regs a ha]
  · obtain ⟨h0, h1, h2, h3, h4, h5, h6, h7, h8, h9, h10, h11, h12⟩ := g.rest
    obtain ⟨k0, k1, k2, k3, k4, k5, k6, k7, k8, k9, k10, k11, k12⟩ := f.rest
    simp [SameRest, *]

theorem RegisterFrame.mono {t : Tile} {l l' : List Nat} {a b : State} (f : RegisterFrame t l a b) (h : ∀ x ∈ l, x ∈ l') :
    RegisterFrame t l' a b := by
  refine ⟨f.memory, f.stores, f.array, f.vector, f.tiles, fun a ha => f.regs a ?_, f.rest⟩
  intro hh
  apply ha
  simp only [List.mem_append] at *
  exact hh.imp (h _) id

/-- The frame of a boundary where no halt request waits. -/
theorem boundary_frame (s : State) (t : Tile) (h : s.rbit (seqCtl t) 1 = false) : RegisterFrame t [] s (boundary s t) := by
  refine ⟨⟨fun a => by simp, fun u a => by simp⟩, fun u => by simp, fun u => by simp, fun u => by simp, fun u hu => ?_, ?_, ?_⟩
  · exact boundary_core_other s t u hu
  · intro a ha
    simp only [debugRegs, List.nil_append, List.mem_cons, List.not_mem_nil, or_false, not_or] at ha
    exact boundary_reg' s t a h ha
  · simp [SameRest]

/-- The frame of an issued instruction whose own effect leaves every register outside l. -/
theorem boundary_frame_of {s s1 : State} {t : Tile} {l : List Nat} (h : Ready s t) (hc : seqCtl t ∉ l)
    (f : RegisterFrame t l s s1) (hl : ∀ a, a ∉ l → s1.reg a = s.reg a) : RegisterFrame t l s (boundary s1 t) := by
  have hb : s1.rbit (seqCtl t) 1 = false := by
    unfold State.rbit
    rw [hl _ hc]
    exact h.facts.2.1
  exact f.trans ((boundary_frame s1 t hb).mono (by simp))

end Sys2Proof.Machine
end

