-- ==== Sys2Proof/Tests/Slice0.lean ====
section
/-!
SUPPORT. Tests of the model on small states: ill-formed commands are refused, worked examples of spec/ come out, and for the
statements about the model there are states and operands that meet their hypotheses, clause by clause.
-/

namespace Sys2Proof.Tests

-- One theorem after another: each kernel evaluation waits for those before it.
set_option Elab.async false

open Sys2Proof.Machine
open Sys2Proof.Claims

/-! ## Small states -/

/-- Field f has its supply, and its FCLK runs. -/
def fieldOn (s : State) (f : Field) : State := s.modFld f fun x => { x with supply := .on, fclkRun := true }

/-- The sequencer of a tile runs, at offset 0 of a complete half. -/
def seqOn (s : State) (t : Tile) : State :=
  ((fieldOn s (tileField t)).setRbit (seqSts t) 0 false).modSeq t fun q => { q with half0 := .complete }

/-- Reset, with tile 5 of field 0 running. -/
def s5 : State := seqOn State.reset 5

/-- Reset, with tile 4223 of field 47 running: the last tile. -/
def sLast : State := seqOn State.reset 4223

/-- Partition p holds field f alone, in a run state, and its pages. -/
def partOn (s : State) (p : Part) (f : Field) (st : Nat) : State :=
  let c := f.val % 8
  let r := f.val / 8
  (fieldOn s f).setReg (partCfg p) (BitVec.ofNat 32 (c + c * 8 + r * 64 + r * 512)) |>.setReg (partSts p) (BitVec.ofNat 32 st)

/-- General register r of tile t holds v. -/
def withG (s : State) (t : Tile) (r : GReg) (v : Word) : State := s.setG t r v

theorem quiet_of_reset_cores (s : State) (h : s.cores = []) : ∀ u, quiet s u := by
  intro u
  simp only [quiet, State.seq, State.arr, State.core, h]
  exact ⟨rfl, rfl⟩

/-! ## Ill-formed commands are refused (WellFormed.lean), and their neighbours are not -/

def yr (len : Nat) : YReq :=
  { srcModule := 0, srcPart := 0, part := 0, rva := 0, len := BitVec.ofNat 17 len, opNo := 0, rsv := false }

def body1 (steps : Nat) (closing : List (BitVec 10)) (tiles : List Tile) : ImageBody :=
  { geometryId := 0, steps := steps, tiles := tiles, fields := [0], handles := closing, weirMap := [], closing := closing,
    stepLimit := [], code := [], tvec := [], vslot := [], twins := [] }

def lag (n inj : Nat) : LagEval :=
  { p := 0, pfix := 0, inj := List.replicate n inj, thermal := false, supply := false }

theorem smoke_words : ([0x0000000D, 0xFFFFFFFF, 0x50000000, 0x00000000].map fun w => (Instr.undefinedInstruction 0 w).wf)
    = [true, true, true, false] := by decide +kernel

theorem smoke_addresses : [Instr.storeBufferDrain 0 0x83FFFFFFF, .storeBufferDrain 0 0x840000000, .twinMirror 0 0x840000000,
    .twinRetry 0 0x840000000, .eccWriteBack 0 196607, .eccWriteBack 0 196608, .backoffExpiry (.hub 0) 255, .backoffExpiry (.hub 0) 256,
    .softReset .svp 0x1000, .softReset .svp 0x1004, .evtEnWrite .svp 0x1001 0, .evtInj .svp 0x1001 0, .ownerWrite .svp 0x1001 0,
    .lockWrite .svp 0x1001 0, .registerWrite .svp 4 0, .registerWrite .svp 6 0, .readToClear .svp 5, .hostWriteback 0 0 64 0,
    .hostWriteback 0 0 63 0, .bisnpResponse 0 0 1 none, .biTimeout 0 1].map Instr.wf
    = [true, false, false, false, true, false, true, false, true, false, false, false, false, false, true, false, false, true, false,
       false, false] := by decide +kernel

theorem smoke_lengths : [Instr.partCmdUndefined .svp 0 9, .partCmdUndefined .svp 0 8, .partCmdUndefined .svp 0 1,
    .flitReceive 0 0 ⟨List.replicate 255 0, false⟩, .put 0 (yr 2) [1, 2], .put 0 (yr 2) [1], .reduceSum 0 (yr 2) 0 [1],
    .reduceMax 0 (yr 2) 0 [1], .reduceMin 0 (yr 2) 0 [1], .hostMemoryRead 0 (.window 0 0) 0 false, .hostMemoryWrite 0 (.window 0 0) [],
    .degradeDetect 0 293 0 0 0, .degradeDetect 0 294 0 0 0, .tileFault 0 (.cisternUe 196608), .salvageRead 0 0].map Instr.wf
    = [true, false, false, false, true, false, false, false, false, false, false, true, false, false, false] := by decide +kernel

theorem smoke_images : ([body1 1 [0] [0], body1 0 [] [0], body1 2 [0] [0], body1 1 [0] []].map ImageBody.wf) = [true, false, false, false]
    ∧ (Instr.start 0 0 ⟨body1 1 [0] [0], [body1 0 [] [0]]⟩).wf = false := by decide +kernel

theorem smoke_measures : (Instr.maquetteUpdate 0 ⟨List.replicate 64 0, List.replicate 23 0, []⟩).wf = false
    ∧ (Instr.lagCheck (lag 48 1000)).wf = true ∧ (Instr.lagCheck (lag 47 0)).wf = false ∧ (Instr.lagCheck (lag 48 1001)).wf = false
    ∧ (Instr.telemetryUpdate ⟨0, 0, 0, 0, 0, List.replicate 47 (0, 0)⟩).wf = false := by decide +kernel

/-! ## Sequencer, loads and stores, weirs: the hypotheses are met -/

theorem witness_ready : Ready s5 5 ∧ Ready sLast 4223 := by
  unfold Ready; decide +kernel

/-- A tile with a recorded trap, a tile in a handler, a halted tile, and one with a stalled instruction. -/
def trapped : State := s5.modSeq 5 fun q => { q with trap := true }
def handler : State := s5.setRbit (seqSts 5) 1 true
def stalled : State := s5.modSeq 5 fun q => { q with stall := some (.fence 5) }

theorem witness_trapEntryAndReturn :
    ((trapped.seq 5).trap = true ∧ sbEmpty trapped 5 = true ∧ fieldRuns trapped (tileField 5) = true ∧ halted trapped 5 = false
      ∧ (trapped.seq 5).fenced = false ∧ saving trapped 5 = false)
    ∧ (Ready handler 5 ∧ inTrap handler 5 = true) ∧ (Ready s5 5 ∧ inTrap s5 5 = false) := by
  unfold Ready; decide +kernel

theorem witness_sequencerInstructions :
    (let s := s5.modSeq 5 fun q => { q with half1 := .complete }
     Ready s 5 ∧ halfOf s 5 (!activeHalf s 5) = .complete)
    ∧ (mayWrite State.reset .svp (tilePage 5 0) = true ∧ halted State.reset 5 = true ∧ safeRecent State.reset (seqCtl 5) .svp = false)
    ∧ (mayWrite s5 (.pf 0) (tilePage 5 0) = true ∧ halted s5 5 = false ∧ (s5.seq 5).stall = none ∧ sbEmpty s5 5 = true)
    ∧ (halted stalled 5 = false ∧ (stalled.seq 5).stall ≠ none) := by
  unfold Ready; decide +kernel

theorem witness_branchTargets : legalTarget 0 = true ∧ legalTarget 0x7FFC = true ∧ legalTarget 0x8000 = false ∧ legalTarget (-4) = false
    ∧ legalTarget 2 = false := by decide +kernel

/-- LOAD and STORE of 8 bytes at the last aligned offset of the cistern, and at one past its end. -/
theorem witness_cisternLoadStore :
    (let s := withG s5 5 4 0x2FFFF8
     Ready s 5 ∧ cistOff s 5 4 0 (sizeBytes 3) = (0x2FFFF8 : Nat) ∧ 0x2FFFF8 + sizeBytes 3 ≤ cistSize ∧ 0x2FFFF8 % sizeBytes 3 = 0
       ∧ cistBad s 5 0x2FFFF8 (sizeBytes 3) = false ∧ ldstIllegal false 2 4 3 false 0 = false
       ∧ owes s 5 (s.mem 5).launch 0x2FFFF8 (sizeBytes 3) = false ∧ ldstIllegal true 2 4 3 false 0 = false)
    ∧ (let s := withG s5 5 4 0x300000
       (cistSize : Int) < cistOff s 5 4 0 (sizeBytes 0) + sizeBytes 0 ∧ ldstIllegal false 2 4 0 false 0 = false)
    ∧ cistOff s5 5 4 0x1FF (sizeBytes 2) < 0
    ∧ (let s := withG s5 5 4 1; cistOff s 5 4 0 (sizeBytes 1) % sizeBytes 1 ≠ 0 ∧ addr48 s 5 4 0 (sizeBytes 1) % sizeBytes 1 ≠ 0)
    ∧ ldstIllegal false 3 4 3 false 0 = true ∧ ldstIllegal true 2 4 0 true 0 = true := by
  unfold Ready; decide +kernel

/-- Tile 5 in a partition that runs, with the translation of page 0 of 2 MiB at hand. -/
def xent : XEnt := { part := 0, vpn := 0, size := false, tgt := 0, r := true, w := true }
def s5x : State := (partOn s5 0 0 2).modSeq 5 fun q => { q with xl := some xent }
/-- The store buffer of tile 5 holds one granule of its own well. -/
def sb1 : SbEntry := { granule := 5 * 0x800000, data := 0xAB, mask := 1, written := false, mirrored := false }
def s5b : State := (s5x.modMem 5 fun m => { m with sb := [sb1] }).setReg (tilePage 5 9 + 0x040) 0x5

theorem witness_wellStores :
    (Ready s5x 5 ∧ partOf s5x 5 = some 0 ∧ (s5x.seq 5).xl = some xent)
    ∧ (xent.covers 0 (addr48 s5x 5 4 0 (sizeBytes 2)) = true ∧ addr48 s5x 5 4 0 (sizeBytes 2) % sizeBytes 2 = 0
      ∧ placeOf (xent.dpa (addr48 s5x 5 4 0 (sizeBytes 2))) = .well 0 0 ∧ 0 % 64 + sizeBytes 2 ≤ 64
      ∧ (snoopGate s5x 5 0 0 true).1 = true ∧ (snoopGate s5x 5 0 0 false).1 = true)
    ∧ (ldstIllegal true 2 4 2 false 1 = false ∧ guardHit s5x 5 (addr48 s5x 5 4 0 (sizeBytes 2)) (sizeBytes 2) = false
      ∧ (s5x.mem 5).sb.length < 64)
    ∧ (let s := s5x.modMem 5 fun m => { m with sb := [{ sb1 with granule := 0, mask := 15 }] }
       ldstIllegal false 2 4 2 false 1 = false ∧ sbHolds s 5 (homeDpa 0 0 / 64) (0 % 64) (sizeBytes 2) = true) := by
  unfold Ready; decide +kernel

theorem witness_storeBuffer :
    (sbFind s5b 5 (5 * 0x800000) = some sb1 ∧ sb1.written = false ∧ sbOldest s5b 5 (5 * 0x800000) = true
      ∧ fieldRuns s5b (tileField 5) = true ∧ placeOf (5 * 0x800000 * 64) = .well 5 0 ∧ (s5b.fld (tileField 5)).selfRefresh = false ∧ bankRefreshes s5b 5 0 = false
      ∧ fostered s5b 5 = false ∧ twinOf s5b 5 0 = none ∧ decantCopy s5b 5 = none
      ∧ s5b.wellUe.contains (wellGran (homeShaft s5b 5) 0) = false ∧ (s5b.seq 5).stall = none ∧ (s5b.arr 5).queue = []
      ∧ hasSlot s5b 5 5 = true)
    ∧ (let s := s5.modMem 5 fun m => { m with writeBack := [7], cistCe := [7] }
       (s.mem 5).writeBack.contains 7 = true)
    ∧ (dmaLive s5 5 = true ∧ (s5.arr 5).queue = []) := by decide +kernel

/-! ## Weirs and the commit of a step -/

/-- Weir 3 of field 0 as handle 2 of partition 0, with a threshold and a count. -/
def weirs (s : State) (thr count : Nat) : State :=
  ((s.setReg (weirEnt 0 2 0) 0x80000003).setReg (weirEnt 0 2 1) (BitVec.ofNat 32 thr)).modWeir 3 fun w =>
    { w with thr := BitVec.ofNat 32 thr, count := BitVec.ofNat 32 count, owner := some 0 }

def run1 (steps committed : Nat) (tiles : List Tile) : RunImage :=
  { body := body1 steps (List.replicate steps 2) tiles, variants := [], va := 0, imageId := 0, q := 0, cid := 7, committed := committed }

/-- Partition 0 runs step 0 of 2 on tile 5, whose closing weir is handle 2. -/
def sRun (thr count : Nat) : State :=
  (weirs s5x thr count).modPart 0 fun x => { x with image := some (run1 2 0 [5]) }

theorem witness_arrive :
    (let s := weirs s5x 3 1
     Ready s 5 ∧ sbEmpty s 5 = true ∧ weirFor s 5 2 = some (0, 3) ∧ (s.weir 3).count.toNat + 1 < (s.weir 3).thr.toNat)
    ∧ (let s := weirs s5x 2 1
       Ready s 5 ∧ (s.weir 3).count.toNat + 1 < 2 ^ 32 ∧ (s.weir 3).thr.toNat ≤ (s.weir 3).count.toNat + 1 ∧ (s.weir 3).thr ≠ 0
         ∧ mayRelease s 0 = true ∧ closingHandle s 0 ≠ some 2) := by
  unfold Ready; decide +kernel

theorem witness_weirInstructions :
    (Ready s5b 5 ∧ sbEmpty s5b 5 = false)
    ∧ (let s := withG (weirs s5x 3 1) 5 6 1
       Ready s 5 ∧ weirFor s 5 2 = some (0, 3) ∧ (s.weir 3).epoch ≠ Machine.fld (s.g 5 6) 0 16 ∧ (s.weir 3).epoch = Machine.fld (s.g 5 7) 0 16)
    ∧ (let s := sRun 3 1
       Ready s 5 ∧ weirFor s 5 2 = some (0, 3) ∧ (partOf s 5).bind (closingHandle s) = some 2 ∧ sbEmpty s 5 = true
         ∧ (s.seq 5).unabsorbed = none ∧ (s.weir 3).count.toNat + 1 < (s.weir 3).thr.toNat)
    ∧ (partOf s5x 5).bind (closingHandle s5x) ≠ some 2 ∧ weirFor s5x 5 2 = none := by
  unfold Ready; decide +kernel

theorem witness_weirMap :
    (let s := partOn State.reset 0 0 1
     pstate s 0 = 1 ∧ weirEntryOk s 0 2 (0x80000003 &&& 0x80003FFF) (s.reg (weirEnt 0 2 1)) = false
       ∧ weirEntryOk (s.setReg (weirEnt 0 2 1) 1) 0 2 (0x80000003 &&& 0x80003FFF) 1 = true) := by decide +kernel

theorem witness_commit :
    (let s := sRun 2 1
     Ready s 5 ∧ sbEmpty s 5 = true ∧ weirFor s 5 2 = some (0, 3) ∧ (s.prt 0).image = some (run1 2 0 [5]) ∧ closingHandle s 0 = some 2
       ∧ (s.seq 5).unabsorbed = none ∧ (run1 2 0 [5]).committed + 1 < (run1 2 0 [5]).body.steps ∧ (s.prt 0).pend = none
       ∧ (s.prt 0).returns = [] ∧ (s.weir 3).count.toNat + 1 < 2 ^ 32 ∧ (s.weir 3).thr.toNat ≤ (s.weir 3).count.toNat + 1
       ∧ (s.weir 3).thr ≠ 0 ∧ mayRelease s 0 = true)
    ∧ nextReady (s5.modSeq 5 fun q => { q with half1 := .complete }) 5 = true := by
  unfold Ready; decide +kernel

/-! ## Vector unit and array -/

def vop (vd : VReg) (rm : BitVec 3) : VOp := { vd := vd, va := 2, vb := 3, vc := 4, prec := true, rm := rm }

theorem witness_vectorForms : (vop 0 4).rm ≠ 5 ∧ (vop 0 4).rm ≠ 6 ∧ (vop 0 5).rm = 5 ∧ (vop 0 6).rm = 6 ∧ pairOk (vop 4 0).vd = true
    ∧ (vop 5 0).vd.val % 2 = 1 ∧ cvtCode 1 = true ∧ cvtCode 11 = true := by decide +kernel

theorem witness_vectorMemory :
    (let s := withG s5 5 4 0x2FFF00
     Ready s 5 ∧ (s.g 5 4).toNat % 256 = 0 ∧ (s.g 5 4).toNat + 256 ≤ cistSize ∧ cistBad s 5 0x2FFF00 256 = false
       ∧ owes s 5 (s.mem 5).launch 0x2FFF00 256 = false)
    ∧ (let s := withG s5 5 4 0x2FFF80; (s.g 5 4).toNat % 256 ≠ 0 ∧ cistSize < (s.g 5 4).toNat + 256) := by
  unfold Ready; decide +kernel

theorem witness_vectorControl : Machine.fld (4 : Word) 0 3 < 5 ∧ 5 ≤ Machine.fld (5 : Word) 0 3 ∧ Machine.fld (24 : Word) 1 4 < 13
    ∧ 13 ≤ Machine.fld (26 : Word) 1 4 ∧ mayWrite State.reset .svp (tilePage 5 3) = true := by decide +kernel

theorem witness_plumb :
    (let s := s5.modVec 5 fun u => { u with captures := [{ phase := 1023, carr := [⟨false, 1, 0⟩], cref := [0x3F800000] }] }
     (s.vec 5).captures.length = 1) := by decide +kernel

/-- Tile 5 with a B image of format 1 in use, M = 1 in g6, and the stream at offset 0. -/
def sMm : State := withG s5 5 6 1

theorem witness_compute :
    (Ready sMm 5 ∧ saving sMm 5 = false ∧ computeLegal sMm 5 .full 1 6 1 ∧ intMode 1 (sMm.arr 5).curFmt.toNat = false
      ∧ (sMm.g 5 0).toNat % 256 = 0 ∧ streamEnd .full 0 1 (passCycles sMm 5 1) (fmtWidth 1) ≤ cistSize ∧ 0 + outRows .full 1 ≤ 1024
      ∧ (sMm.arr 5).queue = [] ∧ arrFrozen sMm 5 = false ∧ (sMm.arr 5).shadow = none
      ∧ owes sMm 5 (sMm.mem 5).launch 0 (streamEnd .full 0 1 (passCycles sMm 5 1) (fmtWidth 1)) = false
      ∧ cistBad sMm 5 0 (streamEnd .full 0 1 (passCycles sMm 5 1) (fmtWidth 1)) = false ∧ (sMm.arr 5).accUe = []
      ∧ (sMm.arr 5).b.n ≤ 256)
    ∧ ¬ computeLegal sMm 5 .full 0 6 1 ∧ badRows (sMm.arr 5).b = []
    ∧ (let s := withG sMm 5 7 1023; computeLegal (withG s 5 6 2) 5 .full 1 6 1 ∧ ¬ 1023 + outRows .full 2 ≤ 1024)
    ∧ (let e := ArrEntry.rdout 0 1 0 1 0 false false 0 0
       4 ≤ ((sMm.modArr 5 fun a => { a with queue := [e, e, e, e] }).arr 5).queue.length)
    ∧ (let s := sMm.setReg (tilePage 5 2 + 0x008) 2; arrFrozen s 5 = true ∧ computeLegal s 5 .full 1 6 1) := by
  unfold Ready computeLegal; decide +kernel

/-- Each shape of compute runs at once on a blank image of its own shape. -/
theorem witness_eachCompute : ∀ sh ∈ [Shape.full, .half, .quad, .narrow],
    computeRuns (sMm.modArr 5 fun a => { a with curShape := sh }) 5 sh 1 0 6 0 1 := by
  unfold computeRuns Ready computeLegal; decide +kernel

theorem witness_shadowLoad :
    (Ready s5 5 ∧ saving s5 5 = false ∧ (1 : BitVec 4).toNat ≤ 10 ∧ shapeCols .full 0 ≠ 0 ∧ (s5.g 5 0).toNat % 256 = 0
      ∧ 0 + imageSize .full (fmtWidth 1) ≤ cistSize ∧ (s5.arr 5).queue = [])
    ∧ (let x : Shadow := { shape := .full, fmt := 1, n := 256, src := 0, fmode := 0, ord := 0, at0 := 0, img := none }
       let s := s5.modArr 5 fun a => { a with shadow := some x }
       dmaLive s 5 = true ∧ (s.arr 5).shadow = some x ∧ x.img = none ∧ (s.arr 5).queue = [] ∧ (s.seq 5).stall = none
         ∧ owes s 5 x.ord x.src (imageSize x.shape (fmtWidth x.fmt.toNat)) = false
         ∧ cistBad s 5 x.src (imageSize x.shape (fmtWidth x.fmt.toNat)) = false)
    ∧ (let s := s5.modArr 5 fun a => { a with queue := [.rdout 0 1 0 1 0 false false 0 0] }; Ready s 5 ∧ (s.arr 5).queue ≠ []) := by
  unfold Ready; decide +kernel

theorem witness_readout :
    (let s := withG s5 5 4 0x000103FF
     Ready s 5 ∧ saving s 5 = false ∧ 1 ≤ (Machine.fld (s.g 5 4) 16 11).toNat
       ∧ (Machine.fld (s.g 5 4) 0 10).toNat + (Machine.fld (s.g 5 4) 16 11).toNat ≤ 1024
       ∧ 0 + (1 - 1) * rdoutPitch 1 + 32 * fmtWidth 1 ≤ cistSize ∧ (s.arr 5).queue = [] ∧ (s.arr 5).accUe = []) := by
  unfold Ready; decide +kernel

/-- Every cell of a blank image has good parity; one cell turned over has not. -/
theorem witness_parity :
    (∀ n, (SMap.get cellD (s5.arr 5).b.cells (0 * 256 + n)).parity = cellParity (SMap.get cellD (s5.arr 5).b.cells (0 * 256 + n)))
    ∧ (let s := s5.modArr 5 fun a => { a with b := { a.b with cells := [(7, { cellD 7 with parity := true })] } }
       (SMap.get cellD (s.arr 5).b.cells (0 * 256 + 7)).parity ≠ cellParity (SMap.get cellD (s.arr 5).b.cells (0 * 256 + 7))) := by
  constructor
  · intro n
    have h : (s5.arr 5).b.cells = [] := by decide +kernel
    rw [h]
    exact (by decide +kernel : zeroCell.parity = cellParity zeroCell)
  · decide +kernel

theorem witness_spares : (∀ g, g < 4 → (Machine.fld (0x203F0020 : Word) (8 * g) 6).toNat ≤ 32 ∨ (Machine.fld (0x203F0020 : Word) (8 * g) 6).toNat = 63)
    ∧ (s5.arr 5).queue = [] ∧ ¬ ((Machine.fld (0x21 : Word) (8 * 0) 6).toNat ≤ 32 ∨ (Machine.fld (0x21 : Word) (8 * 0) 6).toNat = 63) := by
  decide +kernel

/-! ## DMA -/

/-- A descriptor of the given words 0 … 5. -/
def desc (ws : List Nat) : DmaDesc := { w := BitVec.ofNat 512 (leNat (ws.flatMap (toLe 8))), off := 0x40, tag := 9, ord := 3, ents := [] }
/-- 128 bytes from cistern offset 0 to 0x2FFF80, its last 128; a mode that is none; and one whose source is at virtual address 0. -/
def dLin : DmaDesc := desc [0, 0, 0x2FFF80, 128]
def dBad : DmaDesc := desc [9, 0, 0, 64]
def dVa : DmaDesc := desc [0x10, 0, 0, 128]

def withDma (s : State) (t : Tile) (l : List DmaDesc) (started : Bool) (st : Nat) : State :=
  (s.setReg (dmaSts t 1) (BitVec.ofNat 32 st)).modDma t 1 fun c => { c with queue := l, started := started }

theorem witness_dmaInstructions :
    (let s := withG s5 5 4 0x2FFFC0
     Ready s 5 ∧ (s.g 5 4).toNat % 64 = 0 ∧ (s.g 5 4).toNat + 64 ≤ cistSize ∧ (s.dma 5 1).queue.length < 8 ∧ cleanCistern s 5
       ∧ owes s 5 (s.mem 5).launch 0x2FFFC0 64 = false ∧ (s.dma 5 1).queue = [] ∧ tagOut s 5 1 9 = false)
    ∧ (let s := withDma s5 5 (List.replicate 8 dLin) false 0; 8 ≤ (s.dma 5 1).queue.length ∧ (s.dma 5 1).queue ≠ [] ∧ tagOut s 5 1 9 = true)
    ∧ (let s := withG s5 5 4 0x300000; cistSize < (s.g 5 4).toNat + 64) := by
  unfold Ready cleanCistern; decide +kernel

theorem witness_dmaStarts :
    (let s := withDma s5 5 [dLin] false 0
     dmaLive s 5 = true ∧ quiet s 5 ∧ (s.dma 5 1).queue = dLin :: [] ∧ (s.dma 5 1).started = false ∧ dmaState s 5 1 = 0)
    ∧ dmaValid dLin = true ∧ 0 < dmaCount [] dLin ∧ dmaValid dBad = false ∧ 9 ≤ dMode dBad := by
  unfold quiet; decide +kernel

/-- A descriptor of each mode, of the scatter among the index modes, and of a ragged walk over one sequence of one row. -/
theorem witness_eachModeStarts :
    (∀ x ∈ [(0, [0, 0, 0x2FFF80, 128]), (1, [1, 0, 0, 64 + 2 ^ 32 + 2 ^ 48]), (2, [2, 0, 0, 1 + 2 ^ 16]), (2, [2, 0, 0, 1 + 2 ^ 16 + 2 ^ 24]),
        (3, [3, 0, 0x1000, 1 + 32 * 2 ^ 11 + 2 ^ 20 + 2 ^ 27]), (4, [4, 0, 0, 1 + 2 ^ 16 + 2 ^ 32]), (5, [5, 0, 0, 1 + 2 ^ 16, 0, 0x1000]),
        (6, [6, 0, 0, 1]), (7, [7, 0, 0, 256]), (8, [8, 0, 0x1000, 64])],
      let d := desc x.2
      let s := withDma (s5.modMem 5 fun m => { m with cist := Mem.writeLe [] 0 4 1 }) 5 [d] false 0
      dMode d = x.1 ∧ dmaValid d = true ∧ 0 < dmaCount (s.mem 5).cist d ∧ dmaLive s 5 = true ∧ quiet s 5
        ∧ (s.dma 5 1).queue = d :: [] ∧ (s.dma 5 1).started = false ∧ dmaState s 5 1 = 0)
    ∧ isScatter (desc [2, 0, 0, 1 + 2 ^ 16]) = false ∧ isScatter (desc [2, 0, 0, 1 + 2 ^ 16 + 2 ^ 24]) = true ∧ dMode dBad = 9 := by
  unfold quiet; decide +kernel

/-- The first of the two granules of dLin: what the walk plans is no bad granule, and one more is left whatever moves. -/
theorem witness_dmaGranule :
    (let s := withDma s5 5 [dLin] true 1
     dmaLive s 5 = true ∧ quiet s 5 ∧ (s.dma 5 1).queue = dLin :: [] ∧ (s.dma 5 1).started = true ∧ dmaState s 5 1 = 1
       ∧ dMode dLin ≠ 6 ∧ dSsp dLin = false ∧ dDsp dLin = false ∧ cleanCistern s 5 ∧ (s.mem 5).sb.length ≤ 64)
    ∧ (∀ cist free, ∃ g, dmaAt cist dLin 0 free = some g ∧ g.bad = false ∧ g.tabs = [] ∧ g.srcs = [0]) ∧ 1 < dmaCount [] dLin := by
  refine ⟨?_, fun cist free => ?_, by decide +kernel⟩
  · unfold quiet cleanCistern; decide +kernel
  · have hm : dMode dLin = 0 := by decide +kernel
    have hn : dPar dLin 3 0 32 / 64 = 2 := by decide +kernel
    have h2 : dSsp dLin = false ∧ dDsp dLin = false ∧ dSrc dLin = 0 ∧ ((inSp false 0 64 = true ∧ inSp false (dDst dLin : Int) 64 = true) ∧ touched false [(0, 64)] = [0]) := by decide +kernel
    have hc : dmaCount cist dLin = 2 := by simp only [dmaCount, hm, hn]
    refine ⟨moveGran dLin [] (dSrc dLin + 64 * 0) (dDst dLin + 64 * 0) 64, ?_, ?_⟩
    · simp only [dmaAt, hc, hm]; rfl
    · obtain ⟨a, b, c, e, f⟩ := h2
      generalize dLin = d at *
      simp [moveGran, a, b, c, e, f]

theorem witness_dmaWalks : 1 < dmaCount [] dLin ∧ dMode dLin = 0
    ∧ (let d := desc [7, 0, 0, 256]; 0 < dmaCount [] d ∧ dmaValid d = true ∧ dMode d = 7)
    ∧ (let d := desc [8, 0, 0x1000, 320]; 4 < dmaCount [] d ∧ dmaValid d = true ∧ dMode d = 8) := by decide +kernel

theorem witness_dmaFault :
    (let s := withDma s5 5 [dVa] true 1
     dmaLive s 5 = true ∧ quiet s 5 ∧ (s.dma 5 1).queue = dVa :: [] ∧ (s.dma 5 1).started = true ∧ dmaState s 5 1 = 1 ∧ dMode dVa = 0
       ∧ dSsp dVa = true ∧ dDst dVa + dPar dVa 3 0 32 ≤ cistSize ∧ dSrc dVa % 64 = 0 ∧ partOf s 5 = none
       ∧ (s.dma 5 1).done < dmaCount (s.mem 5).cist dVa)
    ∧ (let s := withDma s5 5 [dVa] true 2; Ready s 5 ∧ quiet s 5 ∧ mayWrite s .svp (dmaPage 5 1) = true ∧ dmaState s 5 1 = 2)
    ∧ (let s := withDma s5 5 [dVa] true 4; quiet s 5 ∧ dmaState s 5 1 = 4) := by
  unfold Ready quiet; decide +kernel

/-! ## Engines -/

/-- WFILL of one granule at virtual address 0, and the same as a WCOPY and as a WADD of format 8. -/
def eFill : BitVec 128 := BitVec.ofNat 128 (5 + 2 ^ 96)
def s5e : State := s5x.modMem 5 fun m => { m with xl := some { xent with tgt := 5 * wellSize } }
def cmd1 (e : Nat) (n : Nat) : EngCmd :=
  { entry := BitVec.ofNat 128 (e + n * 2 ^ 96), tile := 5, z := [0], x := [0x200000], y := [0x200000], list := none, scrub := false, ord := 0 }
/-- Bank 0 of tile 5 with a command, executing or not. -/
def withCmd (c : EngCmd) (go : Bool) : State := s5x.modBank (bankKey s5x 5 0) fun b => { b with queue := [c], running := go }

/-- Translation leaves the state and gives these pages. -/
def xlOk (s : State) (t : Tile) (e : BitVec 128) (l : List Nat × List Nat × List Nat) : Bool :=
  (match (engXlate s t e).1 with | .ok x => x == l | .error _ => false) && (engXlate s t e).2 == s

theorem engXlate_of_xlOk (s : State) (t : Tile) (e : BitVec 128) (l : List Nat × List Nat × List Nat) (h : xlOk s t e l = true) :
    engXlate s t e = (.ok l, s) := by
  obtain ⟨h1, h2⟩ : (match (engXlate s t e).1 with | .ok x => x == l | .error _ => false) = true ∧ ((engXlate s t e).2 == s) = true := by
    simpa [xlOk] using h
  refine Prod.ext ?_ (by simpa using h2)
  split at h1
  · next x hx => rw [hx]; simp at h1; rw [h1]
  · simp at h1

theorem witness_engineAccepts :
    (fieldRuns s5e (tileField 5) = true ∧ eReason eFill = none ∧ xlOk s5e 5 eFill ([5 * wellSize], [], []) = true
      ∧ oneBank 5 [5 * wellSize] = some 0
      ∧ (eWrites eFill && [5 * wellSize].any (pageTwinned s5e 5) && !([] : List Nat).all (pageTwinned s5e 5)) = false
      ∧ (eWrites eFill && guardHit s5e 5 (eZ eFill) (64 * eZlen eFill)) = false ∧ (s5e.mem 5).engQ = [] ∧ bankStores s5e 5 0 = false
      ∧ (s5e.bank (bankKey s5e 5 0)).queue.length < 4)
    ∧ (let s := s5e.modMem 5 fun m => { m with cist := Mem.writeLe [] 0 16 (5 + 2 ^ 96) }
       Ready s 5 ∧ cleanCistern s 5 ∧ (s.g 5 0).toNat % 16 = 0 ∧ owes s 5 (s.mem 5).launch 0 16 = false
         ∧ BitVec.ofNat 128 (Mem.readLe (s.mem 5).cist 0 16) = eFill
         ∧ xlOk (noteIssue s 5) 5 eFill ([5 * wellSize], [], []) = true) := by
  unfold Ready cleanCistern; decide +kernel

theorem witness_engineRejects : eReason (BitVec.ofNat 128 5) = some 1 ∧ eReason (BitVec.ofNat 128 (9 + 2 ^ 96)) = some 1
    ∧ eReason (BitVec.ofNat 128 (1 + 2 ^ 96)) = some 2 := by decide +kernel

theorem witness_engineWait :
    (((s5.mem 5).engQ.any (cmdBefore 5 (s5.mem 5).launch) || s5.banks.any fun b => b.2.queue.any (cmdBefore 5 (s5.mem 5).launch)) = false)
    ∧ (let s := (withCmd (cmd1 5 1) true).modMem 5 fun m => { m with launch := 1 }
       Ready s 5 ∧ (s.banks.any fun b => b.2.queue.any (cmdBefore 5 (s.mem 5).launch)) = true) := by
  unfold Ready; decide +kernel

theorem witness_engineStarts :
    (let s := withCmd (cmd1 5 1) false
     (s.bank (bankKey s 5 0)).queue = [cmd1 5 1] ∧ eOp (cmd1 5 1).entry = 5 ∧ (cmd1 5 1).tile = 5
       ∧ (s.bank (bankKey s 5 0)).running = false ∧ engAwake s 5 = true ∧ bankExcluded s (bankKey s 5 0) = false
       ∧ eOp (cmd1 5 1).entry ≠ 6) := by decide +kernel

theorem witness_eachSubOpStarts : ∀ op ∈ [1, 2, 3, 4, 5, 6, 7, 8],
    let s := withCmd (cmd1 op 1) false
    (s.bank (bankKey s 5 0)).queue = [cmd1 op 1] ∧ eOp (cmd1 op 1).entry = op ∧ (cmd1 op 1).tile = 5
      ∧ (s.bank (bankKey s 5 0)).running = false ∧ engAwake s 5 = true ∧ bankExcluded s (bankKey s 5 0) = false := by decide +kernel

/-- A tile with no live entry of its twin table has no twin anywhere. -/
theorem twinOf_of_none_live (s : State) (t : Tile) (h : ((List.range 8).any fun e => twinLive s t e) = false) : ∀ o, twinOf s t o = none := by
  intro o
  have hf : (List.range 8).find? (twinCovers s t o) = none := by
    rw [List.find?_eq_none]
    intro e he hc
    have hl : twinLive s t e = true := by
      simp only [twinCovers, Bool.and_eq_true] at hc
      exact hc.1
    rw [List.any_eq_false] at h
    exact h e he hl
  unfold twinOf
  rw [hf]
  rfl

theorem plain_of_clean (s : State) (t : Tile) (hu : s.wellUe = []) (hc : s.wellCe = []) (hd : decantCopy s t = none)
    (h : ((List.range 8).any fun e => twinLive s t e) = false) : plainPages s t := by
  refine ⟨twinOf_of_none_live s t h, hd, fun o => ?_, fun o => ?_⟩
  · rw [hu]; rfl
  · rw [hc]; rfl

/-- A fill of two granules, a copy of one granule from 64 bytes below z, and sums of formats 8, 9 and 10. -/
def sFill : State := withCmd (cmd1 5 2) true
def sCopy : State := withCmd { cmd1 6 1 with z := [64] } true
def sArith (op f : Nat) : State := withCmd { cmd1 5 1 with entry := BitVec.ofNat 128 (op + f * 16 + 2 ^ 96) } true

theorem witness_engineFillAndCopy :
    (plainPages sFill 5 ∧ plainPages sCopy 5)
    ∧ ((sFill.bank (bankKey sFill 5 0)).queue = [cmd1 5 2] ∧ (sFill.bank (bankKey sFill 5 0)).running = true
      ∧ engAwake sFill 5 = true ∧ bankExcluded sFill (bankKey sFill 5 0) = false ∧ eEvt (cmd1 5 2).entry = false ∧ quiet sFill 5
      ∧ (sFill.mem 5).engQ = [] ∧ eLen (cmd1 5 2).entry = 2
      ∧ opOff (cmd1 5 2).z (eZ (cmd1 5 2).entry) 0 / 64 * 64 ≠ opOff (cmd1 5 2).z (eZ (cmd1 5 2).entry) 1 / 64 * 64)
    ∧ (let c := { cmd1 6 1 with z := [64] }
       eOp c.entry = 6 ∧ eWbuf c.entry = false ∧ opOff c.x (eX c.entry).toNat 0 / 64 * 64 ≠ opOff c.z (eZ c.entry) 0 / 64 * 64) := by
  refine ⟨⟨plain_of_clean _ _ rfl rfl ?_ ?_, plain_of_clean _ _ rfl rfl ?_ ?_⟩, ?_⟩
  all_goals (try unfold quiet)
  all_goals decide +kernel

theorem witness_engineArithmetic :
    (plainPages (sArith 1 8) 5 ∧ plainPages (sArith 2 9) 5 ∧ plainPages (sArith 3 10) 5)
    ∧ (∀ x ∈ [(1, 8), (2, 9), (3, 10)], let s := sArith x.1 x.2
      ((s.bank (bankKey s 5 0)).queue.map fun c => (eOp c.entry, eFmt c.entry, eLen c.entry, eEvt c.entry, c.tile)) = [(x.1, x.2, 1, false, 5)]
      ∧ (s.bank (bankKey s 5 0)).running = true ∧ engAwake s 5 = true ∧ bankExcluded s (bankKey s 5 0) = false ∧ quiet s 5
      ∧ (s.mem 5).engQ = []) := by
  refine ⟨⟨plain_of_clean _ _ rfl rfl ?_ ?_, plain_of_clean _ _ rfl rfl ?_ ?_, plain_of_clean _ _ rfl rfl ?_ ?_⟩, ?_⟩
  all_goals (try unfold quiet)
  all_goals decide +kernel

/-- The scrub that ends at the last granule of a well, and one that ends past it. -/
theorem witness_scrub :
    (let s := State.reset.setReg (scrubLenReg 5) 0x2
     mayWrite s .svp (tilePage 5 9) = true ∧ (s.mem 5).scrub = none ∧ (Machine.fld (s.reg (scrubLenReg 5)) 0 24).toNat = 2
       ∧ bit (0x807FFFFE : Word) 31 = true ∧ (Machine.fld (0x807FFFFE : Word) 0 23).toNat + 2 ≤ 0x800000
       ∧ 0x800000 < (Machine.fld (0x807FFFFF : Word) 0 23).toNat + 2)
    ∧ (let x : ScrubSt := { start := 0, at0 := 0, len := 1, banks := [], ce := 0, ue := 0, first := none, todo := [] }
       ((State.reset.modMem 5 fun m => { m with scrub := some x }).mem 5).scrub = some x) := by decide +kernel

/-! ## Wells, twins, field maps and the fabric -/

/-- Tile 5 of field 0 has entry 0 of its table on offset 0 of its well, with tile 16 of field 1 as twin, across an open
seam. -/
def sTwin : State :=
  let s := (((fieldOn (fieldOn State.reset 0) 1).setReg (twinWord 5 0 0) 0).setReg (twinWord 5 0 1) 1).setReg (twinWord 5 0 2) 16
  ((s.setReg (twinWord 5 0 3) 1).setReg (seamPage 0 .xp + 0x080) 1).setReg (seamPage 1 .xm + 0x080) 1
def gTwin : BitVec 48 := BitVec.ofNat 48 (5 * 0x800000)
def bTwin : SbEntry := { granule := 5 * 0x800000, data := 0xAB, mask := fullMask, written := true, mirrored := false }

theorem witness_twinWrites :
    (placeOf (gTwin.toNat * 64) = .well 5 0 ∧ twinOf sTwin 5 0 = some (0, 16))
    ∧ (let s := sTwin.modMem 5 fun m => { m with sb := [bTwin] }
       twinOf s 5 0 = some (0, 16) ∧ fieldRuns s (tileField 5) = true ∧ quiet s 5 ∧ sbFind s 5 gTwin.toNat = some bTwin
         ∧ fieldDark s (tileField 16) = false ∧ fieldRuns s (tileField 16) = true ∧ (s.fld (tileField 16)).selfRefresh = false
         ∧ decantCopy s 16 = none ∧ bankRefreshes s 16 0 = false ∧ s.wellUe.contains (wellGran (homeShaft s 5) 0) = false
         ∧ (fabricGate s (.mirror 5) 5 [mirrorLeg s 5 16 0]).1 = .go)
    ∧ (let s := (sTwin.modMem 5 fun m => { m with sb := [bTwin] }).modFld 1 fun x => { x with selfRefresh := true }
       wellsHeld s (tileField 16) = true ∧ twinOf s 5 0 = some (0, 16) ∧ sbFind s 5 gTwin.toNat = some bTwin ∧ quiet s 5)
    ∧ (let s := (sTwin.modMem 5 fun m => { m with sb := [bTwin] }).modFld 1 fun x => { x with supply := .lost, absent := true }
       fieldDark s (tileField 16) = true ∧ twinOf s 5 0 = some (0, 16))
    ∧ (let s := { sTwin with wellUe := [wellGran (homeShaft sTwin 5) 0] }
       twinOf s 5 0 = some (0, 16) ∧ s.wellUe.contains (wellGran (homeShaft s 5) 0) = true ∧ (s.mem 5).resync.contains 0 = false
         ∧ twinHeld s 5 0 = false ∧ s.wellUe.contains (wellGran (homeShaft s 16) 0) = false) := by
  unfold quiet; decide +kernel

theorem witness_slotAndTwinTables :
    (mayWrite State.reset .svp (tilePage 5 9) = true ∧ halted State.reset 5 = true ∧ halted s5 5 = false)
    ∧ (∀ i, i < 8 → (Machine.fld (0x88888888 : Word) (4 * i) 4).toNat ≤ 8)
    ∧ (let s1 := sTwin.setReg (twinWord 5 0 3) 1
       s1.rbit (twinWord 5 0 3) 0 = true ∧ twinBad s1 5 0 0 1 16 = false ∧ twinBad s1 5 0 0 1 5 = true ∧ halted s1 5 = true) := by
  decide +kernel

theorem witness_refreshAndSelfRefresh :
    (let s := fieldOn State.reset 0; fieldRuns s 0 = true)
    ∧ (let s := (fieldOn State.reset 0).modFld 0 fun x => { x with selfRefresh := false }
       fieldRuns s 0 = true ∧ (s.fld 0).selfRefresh = false)
    ∧ (let s := { (fieldOn State.reset 0).modFld 0 fun x => { x with selfRefresh := true } with tsclk := 1000 }
       (s.fld 0).selfRefresh = true ∧ fieldRuns s 0 = true ∧ (s.fld 0).fclkSince + 1000 ≤ s.tsclk ∧ s.hub.held = [] ∧ ∀ u, quiet s u)
    ∧ (State.reset.tsclk < (State.reset.fld 0).fclkSince + 1000) := by
  refine ⟨by decide +kernel, by decide +kernel, ⟨by decide +kernel, by decide +kernel, by decide +kernel, by decide +kernel,
    quiet_of_reset_cores _ rfl⟩, by decide +kernel⟩

theorem witness_fieldMaps :
    mapOk State.reset 0 (State.reset.reg (fldRemap 0)) (State.reset.reg (fldRemap 0)) = true
    ∧ mapOk State.reset 0 (State.reset.reg (fldWmap 0)) (State.reset.reg (fldWmap 0)) = true
    ∧ mapOk State.reset 0 (State.reset.reg (fldRemap 0)) 0xF6543210 = false := by decide +kernel

theorem witness_trimAndHeldTransfers :
    ((State.reset.fld 0).fclkRun = false ∧ (fieldOn State.reset 0).fld 0 ≠ State.reset.fld 0)
    ∧ (neighbour 0 .xp = some 1
      ∧ (fieldRuns State.reset 1 = false ∧ (State.reset.fld 1).absent = false)
      ∧ let s := fieldOn State.reset 1; fieldRuns s 1 = true ∧ (s.fld 0).held = []) := by
  decide +kernel

/-! ## Ports, pages, the bus of the host -/

theorem witness_arbiters :
    (let a : Arb := { ptr := [], k := [], inflight := [], last := none, reqs := [⟨3, 4, .host 0, false, false, 0, false⟩, ⟨1, 4, .seq 1, false, false, 0, false⟩, ⟨0, 1, .seq 0, false, true, 0, false⟩] }
     visible a ≠ [] ∧ ∃ r ∈ a.reqs, r.backing = true)
    ∧ visible { ptr := [], k := [], inflight := [], last := none, reqs := [⟨0, 1, .seq 0, false, true, 0, false⟩] } = [] := by decide +kernel

/-- The well port 119 of field 20 as Table 8.4 has it: the host spine port and tile port 40 ask in cycle 0. -/
def sArb84 : State :=
  State.reset.modArb (wellPortPage 20 23) fun a =>
    { a with ptr := [(4, 219)], reqs := [⟨220, 4, .host 0, false, false, 0, false⟩, ⟨40, 4, .dma 40 0, false, false, 0, false⟩] }

theorem witness_grantsAndLosses :
    (⟨220, 4, .host 0, false, false, 0, false⟩ : ArbReq) ∈ visible (sArb84.arb (portPageAddr (.wellPort 20 23)))
    ∧ ∃ x ∈ visible (sArb84.arb (portPageAddr (.wellPort 20 23))), x ≠ ⟨220, 4, .host 0, false, false, 0, false⟩ ∧ x.cls = 4 := by decide +kernel

/-- Table 8.4, cycle 1: the host port is granted, and B backs off with k = 1. -/
theorem test_arbiterTable84 :
    (let pg := wellPortPage 20 23
     let a := sArb84.arb pg
     pick a (visible a) = some ⟨220, 4, .host 0, false, false, 0, false⟩
     ∧ (let s := arbGrant sArb84 pg ⟨220, 4, .host 0, false, false, 0, false⟩
        SMap.get zeroN (s.arb pg).k 40 = 1 ∧ visible (s.arb pg) = [] ∧ s.reg (pg + 0x050) = 1 ∧ s.reg (pg + 0x05C) = 1
        ∧ s.reg (pg + 0x048) = 1)) := by decide +kernel

/-- Tile port 0 of field 0 frozen, and the adapter from field 0 to the stopped field 1 frozen. -/
def sFroz : State := (State.reset.setRbit (tilePortPage 0 0 + 0x008) 1 true).setRbit (seamPage 0 .xp + 0x008) 1 true

theorem witness_portsFreezeAndDrain :
    mayWrite State.reset .svp (portPageAddr (.tilePort 0 0)) = true
    ∧ (let pg := portPageAddr (.tilePort 0 0)
       portFrozen sFroz pg = true ∧ sFroz.rbit (pg + 0x00C) 2 = false ∧ peerStopped sFroz (.tilePort 0 0) = false
         ∧ portIdle sFroz (.tilePort 0 0) = true ∧ pageExists pg = true
         ∧ sFroz.hub.held = [] ∧ safeRecent sFroz (pg + 0x008) .svp = false)
    ∧ (portFrozen sFroz (portPageAddr (.seam 0 .xp)) = true ∧ peerStopped sFroz (.seam 0 .xp) = true)
    ∧ portFrozen State.reset (portPageAddr (.tilePort 0 0)) = false ∧ pageExists (portPageAddr (.seam 0 .xm)) = false
    ∧ portIdle ((State.reset.modFld 0 fun x => { x with held := [⟨.xp, 0, false, false⟩] })) (.seam 0 .xp) = false := by decide +kernel

theorem witness_fabricControls :
    (Machine.fld (8 : Word) 0 4 < 9 ∧ 9 ≤ Machine.fld (9 : Word) 0 4)
    ∧ (adapterExists 0 .xp = true ∧ adapterExists 0 .xm = false ∧ adapterExists 47 .xp = false)
    ∧ (let s := State.reset.setReg (seamPage 0 .xp + 0x080) 1
       s.rbit (seamPage 0 .xp + 0x080) 0 = true ∧ s.rbit (seamPage 0 .xp + 0x00C) 2 = false)
    ∧ ∀ u, quiet State.reset u := by
  refine ⟨by decide +kernel, by decide +kernel, by decide +kernel, quiet_of_reset_cores _ rfl⟩

theorem witness_pages :
    (let p := pageBase (BitVec.ofNat 48 (tilePage 5 9)).toNat
     bufferPage p = false ∧ pageExists p = true ∧ mayWrite State.reset .svp p = true ∧ pageOf p = .tile 5 9)
    ∧ (let p := tilePage 5 9
       let s := State.reset.setRbit (p + 0x02C) 0 true
       s.rbit (p + 0x02C) 0 = true ∧ mayWrite s (.pf 1) p = true ∧ mayWrite s (.vf 1 2) p = false ∧ Master.pf 1 ≠ .svp
         ∧ State.reset.rbit (p + 0x02C) 0 = false ∧ bit (1 : Word) 0 = true ∧ bit (2 : Word) 0 = false) := by decide +kernel

theorem witness_registers :
    ((rowOf (tilePage 5 0 + 0x058)).isSome ∧ (rowOf (tilePage 5 0 + 0x068)).isSome ∧ (rowOf (tilePage 5 9 + 0x078)).isSome
      ∧ (rowOf (tilePage 5 13 + 0x040)).isSome ∧ (rowOf (tilePage 5 13 + 0x080)).isSome ∧ (rowOf (tilePage 5 13 + 0x17C)).isSome)
    ∧ (mayWrite State.reset .svp (tilePage 5 0) = true ∧ mayWrite State.reset (.vf 1 2) (tilePage 5 0) = false)
    ∧ placeOf 0x0F0010800000 = .nowhere ∧ pageOf 0x0F0010800000 = .none ∧ pageOf 0x0F001080FFFC = .none
    ∧ (pageOf (tilePage 5 4 + 0x040) ≠ .none ∧ readSpecial State.reset .svp (tilePage 5 4 + 0x040) = none) := by decide +kernel

/-- The module is ready, host port 0 is up, and partition 0 holds field 0 and is idle. -/
def sHost : State :=
  ((partOn State.reset 0 0 1).setRbit (govPage 4 + 0x044) 6 true).modHub fun u => { u with linkUp := 1 }

theorem witness_hostCisternAccess :
    (hostUp State.reset 0 = false ∧ hostUp sHost 0 = true ∧ hostEnd State.reset 0 (.vfBar4 0 0) 8 = .none)
    ∧ (hostEnd sHost 0 (.vfBar4 0 (BitVec.ofNat 48 (5 * 0x400000 + 0x2FFFF8))) 8 = .cist 5 0x2FFFF8
      ∧ hostGate sHost 0 (.cist 5) = .go ∧ cleanCistern sHost 5)
    ∧ hostEnd sHost 0 (.vfBar4 0 (BitVec.ofNat 48 (5 * 0x400000 + 0x2FFFF9))) 8 = .none := by
  unfold cleanCistern; decide +kernel

/-- Host port 0 holds a decoder for the window of partition 0. -/
def sWin : State := sHost.modHub fun u => { u with decoders := [(0, 0, windowSize sHost 0)] }
def sWinT : State := (sWin.setReg (partPage 0 1 + 0x040) 0x2C).setReg (partPage 0 1 + 0x044) 1

theorem witness_hostWindowAccess :
    (hostUp sWin 0 = true ∧ hostEnd sWin 0 (.window 0 (BitVec.ofNat 48 (256 * 5 + 8))) 8 = .win 0 (256 * 5 + 8) ∧ (256 * 5 + 8) % 64 + 8 ≤ 64
      ∧ windowPlace sWin 0 (256 * 5 + 8) = some (5, 8) ∧ hostGate sWin 0 (.well 5 8) = .go ∧ snooping sWin 0 ((256 * 5 + 8) / 64) = false ∧ (sWin.fld (tileField 5)).merge = []
      ∧ sfFind sWin 0 ((256 * 5 + 8) / 64) = none)
    ∧ plainPages sWin 5 ∧ (sfSet sWin 0 ((256 * 5 + 8) / 64)).length < 16
    ∧ windowBars sWin 0 false (5, 8, 8) = false ∧ windowBars sWin 0 true (5, 8, 8) = false
    ∧ windowBars (sWin.setRbit (partCfg 0) 12 true) 0 true (5, 0xE00000, 8) = true := by
  refine ⟨by decide +kernel, plain_of_clean _ _ rfl rfl (by decide +kernel) (by decide +kernel), ?_, by decide +kernel, by decide +kernel, by decide +kernel⟩
  have h : sWin.hub.sf = [] := by decide +kernel
  simp [sfSet, h]

/-! ## Partitions -/

/-- Partition 0 on field 0, in a run state, with the features of Table 9.1 asked for. -/
def sPart (st : Nat) (save : Bool) : State := (partOn State.reset 0 0 st).setRbit (partCfg 0) 12 save
def sPartRun (st : Nat) (save : Bool) : State := (sPart st save).modPart 0 fun x => { x with image := some (run1 2 0 [5]) }
def rec0 : SaveRec :=
  { kind := 1, img := run1 2 0 [5], stepNo := 0, tblBase := 0, tblLen := 0, geometry := partGeom (sPart 1 false) 0, weirs := []
    tiles := [], opens := [], replayed := false, posts := [], atomics := [] }
def sRec (r : SaveRec) : State := ((sPart 1 false).modPart 0 fun x => { x with record := some r }).setRbit (partSts 0) 3 true

theorem witness_partitionsAreConfigured :
    (far .svp ∧ far (.pf 2) ∧ ¬ far (.vf 1 2))
    ∧ (pstate State.reset 0 = 0 ∧ State.reset.rbit (govPage 7 + 0x044) 4 = false)
    ∧ enableReason (sPart 0 false) 0 = none ∧ enableReason State.reset 0 = some 4
    ∧ enableReason (State.reset.setReg (partCfg 0) 1) 0 = some 2
    ∧ (pstate (sPart 1 false) 0 = 1 ∧ partSaved (sPart 1 false) 0 = false) ∧ (pstate (sRec rec0) 0 = 1 ∧ partSaved (sRec rec0) 0 = true)
    ∧ pstate (sPart 2 false) 0 = 2 := by
  refine ⟨⟨Or.inl rfl, Or.inr ⟨2, rfl⟩, ?_⟩, by decide +kernel⟩
  rintro (h | ⟨h, hh⟩) <;> cases h <;> cases hh

theorem witness_preemption :
    (mayWrite State.reset .svp (partPage 0 0) = true ∧ mayWrite (sPartRun 2 true) .svp (partPage 0 0) = true)
    ∧ (∀ st ∈ [2, 3], pstate (sPartRun st true) 0 = BitVec.ofNat 4 st ∧ partSaved (sPartRun st true) 0 = false
        ∧ (sPartRun st true).rbit (partCfg 0) 12 = true)
    ∧ (sPartRun 2 false).rbit (partCfg 0) 12 = false ∧ pstate (sPart 6 false) 0 = 6
    ∧ (let s := (sRec rec0).setReg (partSts 0) 0xA; pstate s 0 = 2 ∧ partSaved s 0 = true) := by decide +kernel

theorem witness_savesComplete :
    (let s := sPartRun 4 true
     (s.prt 0).image = some (run1 2 0 [5]) ∧ pstate s 0 = 4 ∧ (s.prt 0).faulty = [] ∧ saveDrained s 0 = true
       ∧ partGeom s 0 = (run1 2 0 [5]).body.geometryId ∧ (s.prt 0).starts = [] ∧ (s.prt 0).gracefulPending = false) := by decide +kernel

theorem witness_restoreAndDiscard :
    (pstate (sPart 1 false) 0 = 1 ∧ ((sPart 1 false).prt 0).record = none)
    ∧ (((sRec rec0).prt 0).record = some rec0 ∧ restoreReason (sRec rec0) 0 rec0 = none)
    ∧ restoreReason (sRec { rec0 with geometry := 0x3F }) 0 { rec0 with geometry := 0x3F } = some 9
    ∧ (let r := { rec0 with weirs := [{ handle := 2, id := 3, thr := 1, count := 0, epoch := 0, pend := false }] }
       let s := ((sRec r).modWeir 3 fun w => { w with owner := some 1 }).setReg (partSts 1) 1
       restoreReason s 0 r = some 8) := by decide +kernel

theorem witness_partitionResets :
    (∀ st ∈ [1, 2, 3], mayWrite (sPart st false) .svp (partPage 0 0) = true ∧ pstate (sPart st false) 0 = BitVec.ofNat 4 st)
    ∧ (let s := sPartRun 6 false
       pstate s 0 = 6 ∧ drained s 0 = true ∧ seamsIdle s 0 = true ∧ (s.prt 0).starts = [])
    ∧ (let s := (sPartRun 6 false).modMem 5 fun m => { m with sb := [sb1] }
       pstate s 0 = 6 ∧ drained s 0 = false) := by decide +kernel

/-! ## Queues, links of the host, translation -/

theorem twinWord_row (u : Tile) (e : Nat) (h : e < 8) : regReset (twinWord u e 3) = 0 := by
  have hp : pageOf (twinWord u e 3) = .tile u 9 := by
    have hu := u.isLt
    unfold pageOf twinWord tilePage tileBase
    rw [dif_pos (by omega)]
    congr 1
    · apply Fin.ext; show _ / _ = u.val; omega
    · omega
  have hm : twinWord u e 3 % 0x1000 = 0x09C + 16 * e := by unfold twinWord tilePage tileBase; omega
  have hr : ∀ e : Fin 8, ((headerRows (tileEvt 9) ++ tileRows 9).find? (·.holds (0x09C + 16 * e.val))).map (·.reset) = some 0 := by decide +kernel
  have hx := hr ⟨e, h⟩
  unfold regReset rowOf
  rw [hp, hm]
  have : pageRows (.tile u 9) = some (headerRows (tileEvt 9) ++ tileRows 9) := rfl
  rw [this]
  rw [Option.map_eq_some_iff] at hx
  obtain ⟨r, h1, h2⟩ := hx
  simp only at h1 ⊢
  rw [h1]
  simp only [h2]
  rw [if_neg (by omega), if_neg (by omega)]
  rfl

/-- Where no register of a tile has been written, no TWIN table is live. -/
theorem plain_everywhere (s : State) (h : s.regs.all (fun e => decide (0x0F0010800000 ≤ e.1)) = true) (hf : ∀ f : Field, s.rbit (fldDecant f) 7 = false)
    (hu : s.wellUe = []) (hc : s.wellCe = []) : ∀ u, plainPages s u := by
  intro u
  refine plain_of_clean s u hu hc ?_ ?_
  · simp only [decantCopy, decanting, hf, Bool.false_and, Bool.false_eq_true, if_false]
  · rw [List.any_eq_false]
    intro e he
    have he : e < 8 := List.mem_range.mp he
    have hg : s.reg (twinWord u e 3) = 0 := by
      rw [← twinWord_row u e he]
      unfold State.reg
      generalize s.regs = l at h
      have hk : twinWord u e 3 < 0x0F0010800000 := by have := u.isLt; unfold twinWord tilePage tileBase; omega
      induction l with
      | nil => rfl
      | cons x l ih =>
        simp only [List.all_cons, Bool.and_eq_true, decide_eq_true_eq] at h
        obtain ⟨k, v⟩ := x
        have h1 : ¬ k = twinWord u e 3 := by have := h.1; simp only at this; omega
        show (if k = twinWord u e 3 then v else SMap.get regReset l (twinWord u e 3)) = _
        rw [if_neg h1]
        exact ih h.2
    simp only [twinLive, State.rbit, hg]
    decide

/-- Queue 0 of partition 0 is enabled on port 0 with 16 completions; its head entry has an opcode and bytes from 8 on. -/
def sQ (st op : Nat) (args : List Nat) : State :=
  (((sHost.setReg (partSts 0) (BitVec.ofNat 32 st)).setReg (qpReg 0 0 0x040) 0x21).setReg (partPage 0 8 + 0x028) 3).modPart 0 fun x =>
    { (x.modQp 0 fun r => { r with tail := 1 }) with
      sqMem := Mem.writeN (Mem.writeLe [] 0 3 (op + 0x1234 * 256)) 8 (args.flatMap (toLe 8)) }
def sQTbl (op : Nat) (args : List Nat) : State :=
  ((sQ 1 op args).setReg (partPage 0 1 + 0x040) 1280).setReg (partPage 0 1 + 0x044) 2
def img0 (s : State) (geom : Bool) : Image :=
  { body := { body1 1 [2] [5] with geometryId := if geom then partGeom s 0 else partGeom s 0 + 1 }, variants := [] }

theorem witness_queuesTakeTheirEntries :
    mayWrite (sQ 1 4 []) (.vf 1 0) (partPage 0 8) = true ∧ mayWrite (sQ 1 4 []) (.vf 1 1) (partPage 0 8) = false
    ∧ ((((sQ 1 4 []).prt 0).qp 0).tail - sqHead (sQ 1 4 []) 0 0).toNat ≤ ((2 : BitVec 6) - sqHead (sQ 1 4 []) 0 0).toNat
    ∧ ((0 : BitVec 6) - sqHead (sQ 1 4 []) 0 0).toNat < ((((sQ 1 4 []).prt 0).qp 0).tail - sqHead (sQ 1 4 []) 0 0).toNat
    ∧ ∀ op ∈ [4, 9], sqTurn (sQ 1 op []) 0 = some 0 ∧ (((sQ 1 op []).prt 0).qp 0).held = [] ∧ cqFull (sQ 1 op []) 0 0 = false
        ∧ sqOp (sQ 1 op []) 0 0 = if op = 4 then 4 else 0 := by decide +kernel

theorem witness_queuedCommands :
    (let s := weirs (sQ 1 1 []) 1 0
     sqTurn s 0 = some 0 ∧ sqOp s 0 0 = 1 ∧ pstate s 0 = 1 ∧ (s.prt 0).job = none ∧ (s.prt 0).starts = [] ∧ svcMode s = false
       ∧ cqFull s 0 0 = false ∧ (((s.prt 0).qp 0).held = [])
       ∧ placedInside s 0 (img0 s true).body = true ∧ (img0 s true).body.geometryId = partGeom s 0 ∧ (img0 s true).body.weirMap = []
       ∧ (∀ h ∈ (img0 s true).body.handles, (weirId s 0 h.toNat).isSome = true)
       ∧ placedInside s 0 (img0 s false).body = true
       ∧ ∀ b ∈ (img0 s false).body :: (img0 s false).variants, b.geometryId ≠ partGeom s 0)
    ∧ (∀ x ∈ [(1, 1), (1, 0), (1, 9), (2, 3)], let s := sQ x.1 2 [x.2]
       sqTurn s 0 = some 0 ∧ sqOp s 0 0 = 2 ∧ sqLe s 0 0 8 1 = x.2 ∧ pstate s 0 = BitVec.ofNat 4 x.1 ∧ partSaved s 0 = false)
    ∧ (∀ x ∈ [(0x200000, 0), (0x200001, 3)], let s := sQTbl 3 [x.1, 1282 * 0x200000, 0x18]
       sqTurn s 0 = some 0 ∧ sqOp s 0 0 = 3 ∧ mapJudge (sqTake s 0 0) 0 (sqMapArgs s 0 0).1 (sqMapArgs s 0 0).2 = x.2) := by
  decide +kernel

theorem witness_tilePosts : partOf (sQ 2 4 []) 5 = some 0 ∧ mayWrite (sQ 2 4 []) (.tile 5) (partPage 0 8) = true
    ∧ partOf State.reset 5 = none := by decide +kernel

theorem witness_hostLinksAndDecoders :
    (hostUp sHost 0 = true ∧ sHost.hub.held = [] ∧ hostUp sHost 1 = false ∧ windowSize sHost 0 ≠ 0 ∧ windowSize sHost 0 < 2 ^ 48
      ∧ windowSize sHost 1 = 0)
    ∧ (∀ u, quiet sHost u) ∧ ∀ p q, ((sHost.prt p).qp q).held = [] := by
  refine ⟨by decide +kernel, quiet_of_reset_cores _ rfl, fun p q => ?_⟩
  have h : sHost.parts = [] := by decide +kernel
  simp only [State.prt, h]
  rfl

/-- Line 5 of the window of partition 0, in the well of the tile that its interleave names. -/
def snp (inv : Bool) : Snoop := { part := 0, line := 20, inv := inv, port := 0, at0 := 0, tile := none }
def sSnp (now : Nat) : State := { sWin.modHub fun u => { u with snoops := [snp true] } with tsclk := now }

theorem witness_linesComeBack :
    (windowPlace sWin 0 (20 * 64) = some (5, 0) ∧ 20 * 64 < windowSize sWin 0 ∧ hostUp sWin 0 = true ∧ windowBars sWin 0 true (5, 0, 64) = false
      ∧ hostGate sWin 0 (.well 5 0) = .go ∧ snooping sWin 0 20 = false ∧ sWin.hub.held = [])
    ∧ (windowPlace (sSnp 0) 0 (20 * 64) = some (5, 0) ∧ 20 * 64 < windowSize (sSnp 0) 0 ∧ windowBars (sSnp 0) 0 true (5, 0, 64) = false
      ∧ (sSnp 0).hub.snoops.find? (fun w => w.part == 0 && w.line == 20 && w.port == 0) = some (snp true) ∧ (sSnp 0).hub.held = [])
    ∧ (∃ w ∈ snoopsOf (sSnp 1000000) 0 20, w.at0 + biLimit (sSnp 1000000) ≤ (sSnp 1000000).tsclk)
    ∧ (∀ w ∈ snoopsOf (sSnp 0) 0 20, (sSnp 0).tsclk < w.at0 + biLimit (sSnp 0))
    ∧ (plainPages sWin 5 ∧ ∀ u, quiet sWin u) ∧ (plainPages (sSnp 0) 5 ∧ ∀ u, quiet (sSnp 0) u) := by
  refine ⟨by decide +kernel, by decide +kernel, by decide +kernel, by decide +kernel, ⟨?_, quiet_of_reset_cores _ rfl⟩, ⟨?_, quiet_of_reset_cores _ rfl⟩⟩
  · exact plain_of_clean _ _ rfl rfl (by decide +kernel) (by decide +kernel)
  · exact plain_of_clean _ _ rfl rfl (by decide +kernel) (by decide +kernel)

/-- Partition 0 with a table region in the well of tile 5; in the second state page 1 is mapped there. -/
def sTbl : State := sQTbl 4 []
def sMapped : State :=
  let b := wellAt (homeShaft sTbl 5) 0
  { sTbl with wells := Mem.writeLe (Mem.writeLe [] b 8 (1281 * 0x200000 + 1)) (b + 0x200008) 8 (1282 * 0x200000 + 0xF) }
def args (va : Nat) (size : Bool) : MapArgs :=
  { va := BitVec.ofNat 48 va, tgt := BitVec.ofNat 48 (if size then 1536 * 0x200000 else 1282 * 0x200000), size := size, r := true, w := true }

theorem witness_mapCommands :
    (mayWrite sTbl (.vf 0 0) (partPage 0 1) = true ∧ mapBusy sTbl 0 = false ∧ mapBusy (sTbl.setRbit (mapSts 0) 0 true) 0 = true)
    ∧ (mapJudge (putMapRegs sTbl 0 0 (args 1 false)) 0 0 (args 1 false) = 3 ∧ mapJudge (putMapRegs sTbl 0 3 (args 0 false)) 0 3 (args 0 false) = 3)
    ∧ (mapJudge (putMapRegs sTbl 0 0 (args 0x40000000 true)) 0 0 (args 0x40000000 true) = 0
      ∧ placeOf (l1Addr sTbl 0 0x40000000) = .well 5 8)
    ∧ (mapJudge (putMapRegs sMapped 0 0 (args 0 false)) 0 0 (args 0 false) = 0 ∧ (l1Of sMapped 0 0).testBit 0 = true
      ∧ placeOf (l2Addr (l1Of sMapped 0 0) 0) = .well 5 0x200000)
    ∧ (mapJudge (putMapRegs sMapped 0 1 (args 0x200000 false)) 0 1 (args 0x200000 false) = 0
      ∧ mapJudge (putMapRegs sMapped 0 2 (args 0x200000 false)) 0 2 (args 0x200000 false) = 0
      ∧ mapped sMapped 0 0x200000 false = some (1281 * 0x200000 + 8, 1282 * 0x200000 + 0xF)) := by
  decide +kernel

theorem witness_everywherePlain : (∀ u, plainPages sTbl u) ∧ (∀ u, plainPages sMapped u) := by
  constructor
  · exact plain_everywhere _ (by decide +kernel) (by decide +kernel) rfl rfl
  · exact plain_everywhere _ (by decide +kernel) (by decide +kernel) rfl rfl

theorem witness_mapComplete :
    (let j : MapJob := { op := 0, args := args 0 false, result := 0, sq := none, old := none }
     (((sTbl.modPart 0 fun x => { x with map := some j }).prt 0).map = some j) ∧ mapCan sTbl 0 j = true
       ∧ mapCan (sTbl.modMem 5 fun m => { m with sb := [sb1] }) 0 { j with old := some (5 * 0x20000000, 0x200000) } = false) ∧ (sTbl.prt 0).map = none := by decide +kernel

theorem witness_tablesAndWalks :
    (let s := sQ 1 4 []
     let s1 := (s.setReg (partPage 0 1 + 0x040) 1280).setReg (partPage 0 1 + 0x044) 1
     pstate s 0 = 1 ∧ regionOk s 0 (tblBase s1 0 / 0x200000) (tblLen s1 0 / 0x200000) = true ∧ s.reg (partPage 0 1 + 0x044) ≠ 1
       ∧ regionOk s 0 0x7FFFFFF 1 = false ∧ s.reg (partPage 0 1 + 0x040) = 0)
    ∧ (fieldRuns State.reset (tileField 5) = false)
    ∧ (let s := seqOn sMapped 5
       fieldRuns s (tileField 5) = true ∧ partOf s 5 = some 0 ∧ (s.seq 5).xl = none ∧ (s.fld (tileField 5)).xcache = []
         ∧ canIssue s 5 = true ∧ mapped s 0 0x200008 false = some (1281 * 0x200000 + 8, 1282 * 0x200000 + 0xF)
         ∧ leafIn s 0 0x200008 false (1282 * 0x200000 + 0xF) ≠ none ∧ (∀ size, mapped s 0 0x40000000 size = none)) := by decide +kernel

/-! ## Yurno links, operations, collectives, the ensemble -/

/-- Port 0 lies on field 0, which partition 0 holds; its one subport is up, lane 0 serves itself and lane 64 is a spare. -/
def sPort : State :=
  (((((((sQ 2 4 []).setReg (ypSts 0) 2).setReg (ylane 0 0) 1).setReg (ylane 0 64) 2).setReg (yurnoPage 0 3 + 0x028) 3).setReg (yurnoPage 0 5 + 0x028) 3).modFld 0
    fun x => { x with selfRefresh := false, xcache := [{ xent with tgt := 5 * wellSize }] })

/-- A flit with a header and payload of zeros. -/
def flit (h : FlitHdr) : Flit := { bytes := flitBytes h (List.replicate 240 0), fecBad := false }
def hdr (type : Nat) (seq : BitVec 16) : FlitHdr := { type := type, vc := 2, seq := seq, ack := 0, nak := false, credits := 3, cvc := 1 }

set_option maxRecDepth 20000 in
theorem witness_flitsAndCredits :
    (subUp State.reset 0 0 = false ∧ subUp sPort 0 0 = true ∧ (sPort.sub 0 0).txq = [] ∧ fieldRuns sPort (portField 0) = true)
    ∧ (∀ h ∈ [hdr 0 0, hdr 1 1, hdr 1 2, hdr 1 0], flitOk (flit h).bytes = true ∧ flitHdr (flit h).bytes = h)
    ∧ ((sPort.sub 0 0).rxSeq = 0 ∧ (sPort.sub 0 0).nakSent = false ∧ (sPort.sub 0 0).owed 2 < 63 ∧ seqLe 2 (0 + 1) = false ∧ seqLe 0 (0 + 1) = true)
    ∧ flitOk ((flit (hdr 0 0)).bytes.set 8 1) = false
    ∧ (let s := sPort.modSub 0 0 fun u => { u with owed2 := 4096 }; (s.sub 0 0).owed 2 ≠ 0) := by decide +kernel

theorem witness_lanesAndSpares :
    (laneState sPort 0 0 = 1 ∧ spareLane sPort 0 = some 64 ∧ (Machine.fld (sPort.reg (ypCtl 0)) 2 4).toNat < 16 ∧ carrier sPort 0 0 = some 0
      ∧ subUp sPort 0 (subOfLane sPort 0 ((sPort.port 0).nextLane % 64)) = true ∧ (sPort.port 0).nextLane % 64 = 0)
    ∧ (spareLane State.reset 0 = none ∧ laneState State.reset 0 0 ≠ 1)
    ∧ (∀ k ∈ [1, 3], let s := (sPort.setReg (ylane 0 0) 3).modPort 0 fun u => { u with retrain := SMap.set zeroN u.retrain 0 k }
       laneState s 0 0 = 3 ∧ SMap.get zeroN (s.port 0).retrain 0 = k)
    ∧ Machine.fld ((sPort.setReg (ypCtl 0) 0x40).reg (ypCtl 0)) 6 8 ≠ 0 ∧ Machine.fld ((sPort.setReg (ypCtl 0) 0).reg (ypCtl 0)) 6 8 = 0 := by
  decide +kernel

theorem witness_subportsAndPortControls :
    (let s := (sPort.setReg (ypSts 0) 1).setReg (ypAlt 0) 31
     0 < subCount s 0 ∧ subState s 0 0 = 1 ∧ altOf s 0 = none ∧ (s.port 0).ops = [] ∧ (s.port 0).fly = [] ∧ unackedColl (s.sub 0 0) = []
       ∧ (s.sub 0 0).txq = [])
    ∧ (mayWrite sPort .svp (yurnoPage 0 0) = true ∧ subCount sPort 0 ≤ 1 ∧ 2 ≤ subState sPort 0 0)
    ∧ (Machine.fld (1 : Word) 0 2 ≠ 3 ∧ Machine.fld (State.reset.reg (ypSts 0)) 0 8 = 0
      ∧ Machine.fld (1 : Word) 0 2 ≠ Machine.fld (sPort.reg (ypCtl 0)) 0 2 ∧ Machine.fld (sPort.reg (ypSts 0)) 0 8 ≠ 0)
    ∧ (portNo 1 = some 1 ∧ portPart State.reset 1 = portPart State.reset 0 ∧ altLoops State.reset 0 24 1 = false
      ∧ portPart sPort 1 ≠ portPart sPort 0 ∧ altLoops sPort 0 24 0 = true ∧ portNo 24 = none) := by decide +kernel

/-- Peer 9 of partition 0 may do everything on port 0. -/
def sPeer : State := sPort.setReg (ypeer 0 0) 0x80F00009
def req (n : Nat) : YReq := { srcModule := 9, srcPart := 0, part := 0, rva := 0, len := BitVec.ofNat 17 n, opNo := 77, rsv := false }

theorem regs_reaches {y : Port} {p : Part} {va n : Nat} {rd wr : Bool} {t : Tile} {o : Nat} {s : State} (e : XEnt)
    (h1 : (s.fld (portField y)).xcache.find? (·.covers p va) = some e) (h2 : e.r = true ∧ e.w = true) (h3 : placeOf (e.dpa va) = .well t o)
    (h4 : 0 < n ∧ va % 0x200000 + n ≤ 0x200000 ∧ o + n ≤ wellSize) (h5 : fieldDark s (tileField t) = false) (h6 : ∀ u, plainPages s u)
    (h7 : portGate s y (.well t o) = .go ∧ (s.fld (tileField t)).merge = []) : Reaches y p va n rd wr t o s :=
  ⟨⟨e, h1, fun _ => h2.1, fun _ => h2.2, h3⟩, h4.1, h4.2.1, h4.2.2, h5, h6, h7⟩

theorem sPeer_reaches (n : Nat) (rd wr : Bool) (h : 0 < n ∧ n ≤ 0x200000) : Reaches 0 0 0 n rd wr 5 0 sPeer :=
  regs_reaches { xent with tgt := 5 * wellSize } (by decide +kernel) (by decide +kernel) (by decide +kernel)
    (by simp only [wellSize]; omega) (by decide +kernel) (plain_everywhere _ (by decide +kernel) (by decide +kernel) rfl rfl) (by decide +kernel)

theorem witness_incomingOperations :
    (portTakes State.reset 0 = false ∧ portUp State.reset 0 = false)
    ∧ (let s := sPeer.modFld 0 fun x => { x with supply := .stopped, fclkRun := false }
       portTakes s 0 = false ∧ portUp s 0 = true ∧ fieldDark s (portField 0) = false)
    ∧ (portTakes sPeer 0 = true ∧ portPart sPeer 0 = some 0 ∧ partServes sPeer 0 = true ∧ (req 16).rsv = false ∧ firstUp sPeer 0 = some 0)
    ∧ (∀ perm, perm < 4 → peerMay sPeer 0 9 0 perm = true) ∧ peerMay sPort 0 9 0 0 = false
    ∧ (lenOk (req 16).len.toNat = true ∧ atomSeen sPeer 0 (req 8) = none ∧ redFmt 10 = some (f32, 4))
    ∧ (let a : AtomRec := { srcModule := 9, srcPart := 0, opNo := 77, old := 5 }
       atomSeen (sPeer.modPart 0 fun u => { u with atoms := [a] }) 0 (req 8) = some a)
    ∧ Reaches 0 0 (req 16).rva.toNat (req 16).len.toNat true true 5 0 sPeer ∧ Reaches 0 0 (req 8).rva.toNat 8 true true 5 0 sPeer := by
  refine ⟨by decide +kernel, by decide +kernel, by decide +kernel, by decide +kernel, by decide +kernel, by decide +kernel, by decide +kernel, ?_, ?_⟩
  · exact sPeer_reaches 16 true true ⟨by decide, by decide⟩
  · exact sPeer_reaches 8 true true ⟨by decide, by decide⟩

/-- Tile 5 holds a header of a get, a put or an atomic at cistern offset 0, with weir handle 2. -/
def yop (op len : Nat) : Yop :=
  { tile := 5, hdr := BitVec.ofNat 256 (op + (if op = 3 then 0 else 0) + 2 * 2 ^ 34 + len * 2 ^ 44), sub := 0, opNo := 0 }
def sOp (op len : Nat) : State := sPeer.modMem 5 fun m => { m with cist := Mem.writeLe [] 0 32 (yop op len).hdr.toNat }

theorem witness_operationsOfATile :
    (∀ x ∈ [(1, 16), (2, 16), (3, 8)], let s := sOp x.1 x.2
      mayWrite s (.tile 5) (yurnoPage 0 3) = true ∧ portPart s 0 = some 0 ∧ partOf s 5 = some 0 ∧ 0 < subCount s 0 ∧ (s.port 0).ops = []
        ∧ (s.mem 5).cistUe = [] ∧ (s.mem 5).cistCe = [] ∧ (yop x.1 x.2).ok = true
        ∧ leNat (Mem.readN (s.mem 5).cist 0 32) = (yop x.1 x.2).hdr.toNat ∧ (yop x.1 x.2).op = x.1
        ∧ liveSub s 0 0 = some (0, 0) ∧ fenceHolds s 0 0 0 (yop x.1 x.2) = false)
    ∧ (let s := (sOp 1 16).modFld 0 fun x => { x with supply := .stopped, fclkRun := false }; fieldRuns s (portField 0) = false)
    ∧ (∀ op ∈ [1, 2], let s := weirs (sPeer.modPort 0 fun u => { u with fly := [yop op 16] }) 3 1
       portTakes s 0 = true ∧ (s.port 0).ops = [] ∧ (s.port 0).fly.find? (fun o => o.opNo.toNat == 0) = some (yop op 16)
         ∧ partOf s (yop op 16).tile = some 0 ∧ weirId s 0 (yop op 16).handle = some 3 ∧ (s.weir 3).count.toNat + 1 < (s.weir 3).thr.toNat
         ∧ (yop op 16).len = 16 ∧ (yop op 16).lva = 0) := by decide +kernel

/-- A ring of 2 ranks, this one of rank 0, of 4 binary32 elements. -/
def coll (kind : Nat) : Coll :=
  { tile := 5, desc := BitVec.ofNat 512 (kind + 10 * 2 ^ 6 + 2 * 2 ^ 11 + 1 * 2 ^ 21 + 4 * 2 ^ 64 + 6 * 2 ^ 96 + 0x1000 * 2 ^ 192 + 0x2000 * 2 ^ 256 + 0x2000 * 2 ^ 320)
    stepNo := 0, seen := [], parked := [], acc := [], retained := [], peersDone := 0, peersDue := 0, committed := false, at0 := 0 }
/-- Rank 1 is partition 0 of module 9, as the peers of tile 5 say. -/
def sColl : State := sPeer.modMem 5 fun m => { m with cist := Mem.writeLe (Mem.writeLe [] 0 64 (coll 0).desc.toNat) 0x2004 4 9 }

theorem sColl_reaches (va n : Nat) (rd wr : Bool) (hv : va = 0 ∨ va = 8 ∨ va = 0x1000 ∨ va = 0x2000) (h : 0 < n ∧ n ≤ 0x1000) :
    Reaches 0 0 va n rd wr 5 va sColl := by
  have hp : ∀ u, plainPages sColl u := plain_everywhere _ (by decide +kernel) (by decide +kernel) rfl rfl
  rcases hv with rfl | rfl | rfl | rfl <;>
    exact regs_reaches { xent with tgt := 5 * wellSize } (by decide +kernel) (by decide +kernel) (by decide +kernel)
      (by simp only [wellSize]; omega) (by decide +kernel) hp (by decide +kernel)

theorem witness_collectivesStart :
    (mayWrite sColl (.tile 5) (yurnoPage 0 5) = true ∧ (sColl.port 0).colQ = [] ∧ (coll 0).ok = true ∧ (sColl.mem 5).cistUe = []
      ∧ leNat (Mem.readN (sColl.mem 5).cist 0 64) = (coll 0).desc.toNat ∧ portPart sColl 0 = some 0 ∧ partOf sColl 5 = some 0)
    ∧ (∀ kind, kind < 3 → let s := sColl.modPort 0 fun u => { u with colQ := [coll kind] }
      plainRing (coll kind) ∧ (coll kind).kind = kind ∧ (s.port 0).colQ = [coll kind] ∧ (s.port 0).colRun = [] ∧ (s.port 0).colEarly = []
        ∧ fieldRuns s (portField 0) = true ∧ firstUp s 0 = some 0 ∧ collStops s 0 (coll kind) = false ∧ (coll kind).slot 0 = 0x2000
        ∧ (coll kind).ce * (coll kind).inW = 8)
    ∧ ((coll 0).inVa + (coll 0).prev * (coll 0).ce * (coll 0).inW = 8 ∧ (coll 1).inVa = 0
      ∧ (coll 1).outVa + (coll 1).rank * (coll 1).ce * (coll 1).outW = 0x1000 ∧ (coll 0).ce * (coll 0).inW = 8)
    ∧ Reaches 0 0 8 8 true false 5 8 sColl ∧ Reaches 0 0 0 8 true false 5 0 sColl ∧ Reaches 0 0 0x1000 8 false true 5 0x1000 sColl
    ∧ Reaches 0 0 0x2000 8 false true 5 0x2000 sColl := by
  refine ⟨by decide +kernel, by unfold plainRing; decide +kernel, by decide +kernel, sColl_reaches 8 8 true false (by decide) (by decide),
    sColl_reaches 0 8 true false (by decide) (by decide), sColl_reaches 0x1000 8 false true (by decide) (by decide),
    sColl_reaches 0x2000 8 false true (by decide) (by decide)⟩

theorem witness_collectivesGoOn :
    (let c := { coll 0 with desc := BitVec.ofNat 512 (10 * 2 ^ 6 + 2 * 2 ^ 11 + 2 * 2 ^ 21 + 6 * 2 ^ 64 + 6 * 2 ^ 96 + 0x1000 * 2 ^ 192 + 0x2000 * 2 ^ 256 + 0x2000 * 2 ^ 320) }
     plainRing c ∧ c.expects 2 1 (List.replicate 8 0) = true ∧ c.rank = 0 ∧ c.inVa + 1 * c.ce * c.inW = 8
       ∧ c.slot c.retained.length = 0x2000 ∧ c.retained.length < c.r - 1 ∧ collStops sColl 0 c = false)
    ∧ (let s := weirs (sColl.modPort 0 fun u => { u with colRun := [coll 0] }) 3 1
       let data := List.replicate 8 (0 : Byte)
       (s.port 0).colRun.find? (fun c => c.cid == 6 && c.stepNo == 0) = some (coll 0) ∧ plainRing (coll 0) ∧ colMay s 0 (coll 0) 1 = true
       ∧ (coll 0).expects 1 0 data = true ∧ (coll 0).rank = 0 ∧ weirId s 0 (coll 0).handle = some 3
       ∧ (s.weir 3).count.toNat + 1 < (s.weir 3).thr.toNat ∧ portTakes s 0 = true ∧ (coll 0).expects 1 1 data = false
       ∧ collStops s 0 (coll 0) = false)
    ∧ (let s := sColl.modArb (wellPortPage 0 5) fun a => { a with last := some (arbCyc sColl (wellPortPage 0 5), .host 0) }
       collStops s 0 (coll 0) = true)
    ∧ (let s := sColl; portPart s 0 = some 0 ∧ (s.port 0).colRun = [] ∧ (s.port 0).colRetained = [] ∧ stepNo s ((partTiles s 0).headD 0) = 0)
    ∧ (let s := sColl.setReg (stepNoLo ((partTiles sColl 0).headD 0)) 1; 0 < stepNo s ((partTiles s 0).headD 0)) := by
  unfold plainRing; decide +kernel

/-! ## The ensemble, stops, power, the governor -/

/-- Module 9 leads group 7; this module, of ID 0, takes setpoints on port 0. -/
def sEns : State := (sPort.setReg yensLeader 9).setReg yensCtl 7
/-- The same with a setpoint of sequence 4 taken and pending for a time. -/
def sPend (now : Nat) : State :=
  { sEns.modGov fun g => { g with setpoint := some { seq := 4, code := 20, time := 100 }, lastSeq := some 4 } with tsclk := now }

theorem witness_setpoints :
    (portUp sEns 0 = true ∧ ensGroup sEns = 7 ∧ (9 : BitVec 16) = Machine.fld (sEns.reg yensLeader) 0 16 ∧ (36 : BitVec 6).toNat ≤ 36
      ∧ sEns.gov.lastSeq = none ∧ sEns.tsclk + 2000000 ≤ (2000000 : BitVec 64).toNat ∧ (1999999 : BitVec 64).toNat < sEns.tsclk + 2000000)
    ∧ ((sPend 0).gov.lastSeq = some 4 ∧ ensPort sEns = some 0 ∧ firstUp sEns 0 = some 0)
    ∧ ((sPend 100).gov.setpoint = some { seq := 4, code := 20, time := 100 } ∧ stopped (sPend 100) = false ∧ 100 ≤ (sPend 100).tsclk
      ∧ (sPend 99).tsclk < 100) := by decide +kernel

theorem witness_ensembleMessages :
    leads sEns = false ∧ (let s := sEns.setReg yensLeader 0; leads s = true ∧ portUp s 0 = true ∧ codeAhead s = 26) := by decide +kernel

/-- The module is powered; field 0 has its supply and runs. -/
def sOn : State := (fieldOn State.reset 0).modSvc fun v => { v with power := .on, vin := 54000, vhk := true, up := true }

theorem sOn_quiet : ∀ u, quiet sOn u := quiet_of_reset_cores _ rfl

theorem witness_stops :
    (sOn.svc.power = .on ∧ fieldDark sOn 0 = false ∧ fieldDark sOn 1 = true ∧ sOn.svc.pins.trayStopN = true ∧ sOn.svc.pins.flowLossN = true
      ∧ override sOn = false ∧ mayWrite sOn .svp (govPage 0) = true ∧ mayWrite sOn (.vf 0 0) (govPage 0) = false ∧ safeRecent sOn govStop .svp = false)
    ∧ override (sOn.setRbit presSts 5 true) = true
    ∧ (sOn.modPins fun p => { p with trayStopN := false, flowLossN := false }).svc.pins.trayStopN = false
    ∧ (sOn.rbit govSts cTrip = false ∧ (sOn.setRbit govSts cTrip true).rbit govSts cTrip = true)
    ∧ safeRecent (sOn.modHub fun u => { u with safety := [{ addr := govStop, m := .pf 0, at0 := 0 }] }) govStop .svp = true
    ∧ (let s := { (sOn.setRbit govSts 8 true).modGov fun g => { g with waitAt := some 0 } with tsclk := 5000000000 }
       s.gov.waitAt = some 0 ∧ s.rbit govSts 8 = true ∧ 0 + 5000000000 ≤ s.tsclk) := by decide +kernel

theorem witness_inputSupply : (∀ u, quiet sOn u) ∧ (∀ y, portUp sOn y = false) ∧ 30000 ≤ sOn.svc.vin
    ∧ (sOn.modSvc fun v => { v with vin := 29999 }).svc.vin < 30000 := by
  refine ⟨sOn_quiet, by decide +kernel, by decide +kernel, by decide +kernel⟩

/-- Every field has its supply. -/
def sAll : State := { sOn with fields := (List.range 48).map fun f => (f, { (State.reset.fld 0) with supply := .on }) }

theorem sAll_quiet : ∀ u, quiet sAll u := quiet_of_reset_cores _ rfl

theorem witness_convertersAndTies :
    (∀ u, quiet sAll u) ∧ (∀ y, portUp sAll y = false)
    ∧ (healthy sAll 0 = true ∧ ∀ n, tieOf sAll 0 n = 0 ∧ healthy sAll (ringOf 0 n) = true)
    ∧ (let s := setTie sAll 0 true 1; tieOf s 0 true = 1 ∧ convOf s 0 = 0)
    ∧ (let s := setTie (setTie (setConv sAll 0 1) 0 true 1) 0 false 1; tieOf s 0 true = 1 ∧ tieOf s 0 false = 1 ∧ convOf s 0 = 1 ∧ healthy s 0 = false)
    ∧ (convOf sAll 0 ≠ 2 ∧ fieldDark sAll 0 = false ∧ convOf (setConv sAll 0 2) 0 = 2) := by
  refine ⟨sAll_quiet, ?_⟩
  decide +kernel

theorem witness_regulatorsAndRails :
    phaseFails sAll 0 0 = 0 ∧ tileAbove sAll (placeShaft 0 0) = some 0
    ∧ (let s := sAll.setReg (fieldPage 0 240 + 0x048) 1; phaseFails s 0 0 = 1 ∧ tileAbove s (placeShaft 0 0) = some 0)
    ∧ phaseFails (sAll.setReg (fieldPage 0 240 + 0x048) 2) 0 0 = 2
    ∧ bit (sAll.reg (railEntry (.module 51))) 31 = false ∧ bit ((sAll.setReg (railEntry (.module 51)) 0x80000300).reg (railEntry (.module 51))) 31 = true
    ∧ hasPath 101 = true ∧ hasPath 102 = false ∧ hasPath 1 = false
    ∧ (Machine.fld (sAll.reg (fieldPage 0 240 + 0x060)) 0 8).toNat * 10 < 200 * 10 ∧ (Machine.fld (sAll.reg (fieldPage 0 240 + 0x060)) 8 8).toNat ≤ 10
    ∧ (sAll.fld 0).lastDrop.find? (·.1 == 0) = none := by decide +kernel

theorem witness_governorControls :
    (sOn.svc.outageAt = none ∧ override sOn = false ∧ mayWrite sOn (.pf 0) (govPage 0) = true)
    ∧ (∀ o ∈ [0x040, 0x044], (Machine.fld (50 : Word) 0 16).toNat ≤ (Machine.fld (sOn.reg (govReg o)) 0 16).toNat) ∧ safeRecent sOn (govReg 0x040) .svp = false
    ∧ (let s := (sOn.setReg (govReg 0x040) 50).modHub fun u => { u with safety := [{ addr := govReg 0x040, m := .pf 0, at0 := 0 }] }
       (Machine.fld (s.reg (govReg 0x040)) 0 16).toNat < 410 ∧ safeRecent s (govReg 0x040) .svp = true)
    ∧ (let s := sOn.setReg (govReg 0x050) 30; (Machine.fld (s.reg (govReg 0x050)) 0 6).toNat < 36 ∧ safeRecent s (govReg 0x050) .svp = false) := by
  decide +kernel

theorem witness_budgetsAndRamps :
    (let s := ((sOn.setReg (sched 0 0) 5).setReg (sched 0 3) 1)
     s.rbit (sched 0 3) 0 = true ∧ schedTime s 0 = 5 ∧ mayWrite s .svp (govPage 2) = true)
    ∧ isReady sOn = false
    ∧ (let s := (sOn.setRbit (govPage 4 + 0x044) 6 true).modGov fun g => { g with firstWindow := false }
       isReady s = true ∧ s.gov.firstWindow = false ∧ schedNow s = none)
    ∧ keepWarm sOn 1 = false ∧ (let s := (sOn.setRbit (govPage 4 + 0x044) 6 true).setReg kwCtl 306; keepWarm s 1 = true ∧ fieldPhase s 1 = 1023)
    ∧ (sOn.modSvc fun v => { v with outageAt := some 0 }).svc.outageAt ≠ none := by decide +kernel

theorem witness_freezeInjection :
    fieldRuns sOn 0 = true ∧ fieldRuns sOn 1 = false ∧ (sOn.seq 5).dark = false ∧ fieldDark sOn (tileField 5) = false
    ∧ (let mq : MqMeasure := { nodes := [], pred := [], busy := [(0, 0), (95, 3)] }; (mq.busy.map (fun e => e.1.val * 4 + e.2.val)).Nodup) := by
  decide +kernel

theorem witness_lagAndBridging :
    (cappedField State.reset true = false ∧ (List.finRange 48).all (fun f => !overFrozen State.reset f) = true ∧ sOn.rbit govSts 1 = false ∧ sOn.gov.bridgeAt = none ∧ sOn.gov.bridgeOver = false)
    ∧ (∃ i ∈ (lag 48 1000).inj, (Machine.fld (sOn.reg (govReg 0x078)) 0 5).toNat * 10 < i)
    ∧ (let s := { (sOn.setRbit govSts 1 true).modGov fun g => { g with bridgeAt := some 0 } with tsclk := 50000000 }
       s.gov.bridgeAt = some 0 ∧ s.rbit govSts 1 = true ∧ 0 + 50000000 ≤ s.tsclk ∧ s.gov.bridgeOver = false) := by decide +kernel

/-! ## Casting, repair, presence, the service protocols, debug -/

/-- Casting stands in stage n. -/
def sCast (n : Nat) : State := setStage (setCastState sOn 0) n
/-- A manifest of 308 bytes with its magic, length and CRC. -/
def man0 : Bytes :=
  let b := toLe 4 0x00014D46 ++ toLe 4 308 ++ List.replicate 296 0
  b ++ toLe 4 (crc32 b).toNat

set_option maxRecDepth 20000 in
theorem witness_castingsBegin :
    (let s := (State.reset.modSvc fun v => { v with vin := 54000, vhk := true })
     s.svc.pins.pwrEn = false ∧ s.svc.power ≠ .on ∧ s.svc.power ≠ .down ∧ s.svc.pins.trayStopN = true ∧ s.svc.pins.flowLossN = true ∧ 42000 ≤ s.svc.vin)
    ∧ (let s := { (State.reset.modSvc fun v => { v with power := .down }) with tsclk := 999999999 }
       s.svc.power = .down ∧ s.tsclk < s.svc.downAt + 1000000000 ∧ s.svc.pins.pwrEn = false)
    ∧ (castState (sCast 1) = 0 ∧ castState (setCastState sOn 1) ≠ 0 ∧ (setCastState sOn 1).svc.power = .on ∧ (∀ p, pstate (setCastState sOn 1) p = 0)
      ∧ (setCastState sOn 1).svc.manifestFlash = none)
    ∧ manJudge man0 = 0 ∧ manJudge [] = 1 := by decide +kernel

theorem witness_castingStages :
    (∀ n, n < 14 → n ≠ 0 → let s := (sCast n).modSvc fun v => { v with manifest := some [] }
      isCasting s = true ∧ stopped s = false ∧ castStage s = n ∧ (n ≠ 13 → stageDone s n = true) ∧ (s.fld 0).absent = false)
    ∧ stageDone (sCast 3) 3 = false ∧ stageDone (sCast 13) 13 = true ∧ castStage (sCast 15) = 15
    ∧ (let s := (sCast 4).modSvc fun v => { v with retries := SMap.set zeroN v.retries (retryKey 4 0) 2 }
       SMap.get zeroN s.svc.retries (retryKey 4 0) = 2) := by decide +kernel

/-- With a manifest of zeros, of allowances 255, the module of serial number 0 is ready; with one that names a slot it is not. -/
theorem witness_castingReady :
    (let s := (sCast 15).modSvc fun v => { v with manifest := some (List.replicate 36 0 ++ List.replicate 4 255 ++ List.replicate 268 0), slotSampled := 0, serial := 0 }
     manMatch s = 0 ∧ withinAllowance s = true ∧ svcMode s = false)
    ∧ (let s := (sCast 15).modSvc fun v => { v with manifest := some (List.replicate 24 0 ++ [1] ++ List.replicate 283 0), slotSampled := 0, serial := 0 }
       manMatch s = 5) := by decide +kernel

theorem witness_castingInputs :
    (let s := (sCast 2).modSvc fun v => { v with up := false, fwB := 1 }
     isCasting s = true ∧ castStage s = 2 ∧ s.svc.up = false ∧ SMap.get zeroN s.svc.retries (retryKey 2 48) = 0
       ∧ (if s.svc.runA = true then s.svc.fwB else s.svc.fwA) ≠ 0)
    ∧ (let s := { sCast 3 with tsclk := 10000000000 }; isCasting s = true ∧ s.svc.manifest = none ∧ s.svc.stageAt + 10000000000 ≤ s.tsclk)
    ∧ (let s := setStage (setCastState (sPort.modSvc fun v => { v with power := .on }) 0) 13
       isCasting s = true ∧ castStage s = 13 ∧ portUp s 0 = true ∧ (s.port 0).peer = none)
    ∧ (let s := (sHost.modSvc fun v => { v with ledgerDirty := true }); isReady s = true ∧ s.svc.ledgerDirty = true) := by decide +kernel

theorem witness_neighbourTest :
    (let s := (State.reset.setReg (nbr 5 0x040) 0xF).modSeq 5 fun q => { q with fenced := true }
     ((List.range 4).filter fun n => s.rbit (nbr 5 0x040) n && (linkNeighbour s 5 n).isSome) = [0, 1, 2]
       ∧ linkFenced s 5 0 = true ∧ linkFenced (State.reset.setReg (nbr 5 0x040) 0xF) 5 0 = false) := by decide +kernel

/-- Partition 0 runs on field 0, with Sniwin up; in the second state it is held for tile 5, which is fenced. -/
def sRep : State := (sRun 2 0).modSvc fun v => { v with up := true, power := .on }
def sHeld : State :=
  ((sRep.setReg (partSts 0) 3).modSeq 5 fun q => { q with fenced := true }).modPart 0 fun x =>
    { x with faulty := [5], image := some { run1 2 0 [5] with body := { body1 2 [2, 2] [5] with geometryId := 0 } } }

theorem witness_tileFaultsHold :
    (fieldRuns sRep (tileField 5) = true ∧ (sRep.seq 5).dark = false ∧ partOf sRep 5 = some 0 ∧ pstate sRep 0 = 2 ∧ segRemap sRep 5 = 15)
    ∧ (fieldRuns s5 (tileField 5) = true ∧ partOf s5 5 = none ∧ segRemap s5 5 = 15)
    ∧ (let s := sRep.modFld 0 fun x => { x with fclk := 600000 * 1000 * 1000 }; hung s 5 = true ∧ partOf s 5 = some 0) ∧ hung sRep 5 = false
    ∧ (let s := sRep.setRbit (govPage 4 + 0x044) 6 true
       isReady s = true ∧ s.svc.up = true ∧ fieldRuns s 0 = true ∧ tileAbove s (placeShaft 0 5) = some 5) := by decide +kernel

def sFall (variants : List ImageBody) : State :=
  ((sHeld.modPart 0 fun x => { x with image := some { run1 2 0 [5] with body := { body1 2 [2, 2] [5] with geometryId := 1 }, variants := variants } })).setRbit (ctrCtl 5) 1 true
def sHeldOk : State := sHeld.setRbit (ctrCtl 5) 1 true

theorem quiet_of_calm_cores (s : State) (hd : TileCore.reset.seq.stall = none ∧ TileCore.reset.arr.queue = [])
    (h : s.cores.all (fun e => e.2.seq.stall.isNone && e.2.arr.queue.isEmpty) = true) : ∀ u, quiet s u := by
  intro u
  have key : ∀ (m : SMap TileCore) (k : Nat), m.all (fun e => e.2.seq.stall.isNone && e.2.arr.queue.isEmpty) = true →
      (SMap.get (fun _ => TileCore.reset) m k).seq.stall = none ∧ (SMap.get (fun _ => TileCore.reset) m k).arr.queue = [] := by
    intro m k hm
    induction m with
    | nil => exact hd
    | cons e l ih =>
      obtain ⟨j, c⟩ := e
      simp only [List.all_cons, Bool.and_eq_true, Option.isNone_iff_eq_none, List.isEmpty_iff] at hm
      show (if j = k then c else SMap.get (fun _ => TileCore.reset) l k).seq.stall = none
        ∧ (if j = k then c else SMap.get (fun _ => TileCore.reset) l k).arr.queue = []
      split
      · exact hm.1
      · exact ih hm.2
  exact key s.cores u.val h

theorem witness_repairAndFallback :
    (∀ s ∈ [sHeldOk, sFall [body1 2 [2, 2] [5]], sFall []],
      s.spares = [] ∧ (s.prt 0).starts = [] ∧ (s.prt 0).pend = none ∧ s.banks = [] ∧ pstate s 0 = 3
        ∧ s.cores.all (fun e => e.2.seq.stall.isNone && e.2.arr.queue.isEmpty) = true)
    ∧ (repairReady sHeldOk 0 = true ∧ (sHeldOk.prt 0).faulty = [5] ∧ (sHeldOk.prt 0).soft = [] ∧ (sHeldOk.prt 0).cellRow = none ∧ (5 : Tile) ∈ partTiles sHeldOk 0 ∧ segRemap sHeldOk 5 = 15
      ∧ geometryLost (repairAll sHeldOk 0) 0 = false ∧ replayOk (repairAll sHeldOk 0) 0 = true)
    ∧ repairReady sRep 0 = false
    ∧ (let s := sFall [body1 2 [2, 2] [5]]
       geometryLost s 0 = true ∧ fallbackReady s 0 = true ∧ s.svc.up = true ∧ replayOk s 0 = true ∧ partGeom s 0 = 0
         ∧ [body1 2 [2, 2] [5]].find? (·.geometryId == partGeom s 0) = some (body1 2 [2, 2] [5]) ∧ (body1 2 [2, 2] [5]).weirMap = [])
    ∧ (let s := (sFall [body1 2 [2, 2] [5]]).setReg (partSts 0) 4
       pstate s 0 = 4 ∧ geometryLost s 0 = true ∧ fallbackReady s 0 = true ∧ s.svc.up = true ∧ replayOk s 0 = true
         ∧ (s.prt 0).gracefulPending = false)
    ∧ (let s := sFall []; geometryLost s 0 = true ∧ fallbackReady s 0 = true) := by decide +kernel

/-- A decant of segment 0 of field 0 at position 5, of a shaft that failed at position 3, or, in reverse, with none failed. -/
def sDec (k : Nat) (back : Bool) : State :=
  ((sOn.setReg (fldRemap 0) 0xFFFFFFF3).setReg (fldDecant 0) (BitVec.ofNat 32 (k * 8 + 128 + if back then 256 else 0)))

theorem witness_decantResyncReturn :
    (∀ x ∈ [(5, false), (3, false), (3, true)], let s := sDec x.1 x.2
      bit (s.reg (fldDecant 0)) 7 = true ∧ fieldRuns s 0 = true ∧ s.svc.up = true ∧ exhausted s 0 0 = false ∧ s.wellUe = [] ∧ s.wells = [] ∧ s.cores = []
        ∧ (Machine.fld (s.reg (fldDecant 0)) 3 4).toNat = x.1 ∧ bit (s.reg (fldDecant 0)) 8 = x.2 ∧ segVal (s.reg (fldRemap 0)) 0 = 3)
    ∧ (let s := sTwin.modMem 5 fun m => { m with resync := [0] }
       (s.mem 5).resync.contains 0 = true ∧ twinLive s 5 0 = true ∧ twinOf s 5 0 = some (0, 16) ∧ fieldDark s (tileField 16) = false
         ∧ (twinRange s 5 0).1 + (twinRange s 5 0).2 ≤ wellSize ∧ homeShaft s 5 ≠ homeShaft s 16 ∧ s.spares = []
         ∧ s.cores.all (fun e => e.2.seq.stall.isNone && e.2.arr.queue.isEmpty) = true)
    ∧ (let s := ((sDec 0 false).setReg (fldDecant 0) 0).setReg (fldWmap 0) 0xFFFFFFF3 |>.modSvc fun v => { v with soft := [(shaftNo 0 0 3, 1)] }
       mayReturn s 0 0 = true ∧ s.svc.up = true ∧ fieldRuns s 0 = true ∧ partOfField s 0 = none)
    ∧ mayReturn sOn 0 0 = false := by decide +kernel

def stagedCmd (n : Nat) : Staged := { code := BitVec.ofNat 3 n, at0 := 0, sealBroken := false, root := 7 }

theorem witness_presence :
    (∀ n, 1 ≤ n → n ≤ 4 → n = (stagedCmd n).code.toNat) ∧ (sOn.svc.staged = none ∧ Master.pf 0 ≠ .svp ∧ sOn.rbit govSts cFlow = false)
    ∧ (let s := { sOn with tsclk := 60000000000 }; s.tsclk ≤ (stagedCmd 1).at0 + 60000000000 ∧ (stagedCmd 1).at0 + 60000000000 ≤ s.tsclk)
    ∧ (let s := { (sOn.setRbit presSts 5 true).modSvc fun v => { v with overrideAt := some 0, power := .on, pins := { v.pins with flowLossN := false } } with
         tsclk := 3600000000000 }
       s.svc.overrideAt = some 0 ∧ 0 + 3600000000000 ≤ s.tsclk ∧ override s = true ∧ s.svc.pins.flowLossN = false ∧ s.svc.power = .on) := by
  refine ⟨?_, by decide +kernel⟩
  intro n h1 h4
  rcases n with _ | _ | _ | _ | _ | n <;> first | omega | decide

/-- A request stands in the mailbox. -/
def sMbx : State := sOn.setRbit mbxSts 0 true

theorem witness_serving :
    (Serving .mailbox sMbx ∧ ¬ Serving .mailbox sOn ∧ islandOn sOn = true ∧ sMbx.svc.session = none)
    ∧ (let s := sMbx.modSvc fun v => { v with session := some .mailbox, fwFloor := 3 }
       s.svc.session = some .mailbox ∧ 2 < s.svc.fwFloor ∧ s.svc.fwFloor ≤ 3 ∧ inRepair s 0 = false)
    ∧ (let s := (setCastState sMbx 1).modSvc fun v => { v with session := some .mailbox }; sniwinBusy s = false ∧ s.svc.fwFloor ≤ 3)
    ∧ (islandOn (sOn.modSvc fun v => { v with vin := 29999, vhk := false }) = false)
    ∧ (let s := sOn.setReg (govPage 8 + 0x044) 4096; s.rbit (govPage 8 + 0x048) 0 = false ∧ (Machine.fld (s.reg (govPage 8 + 0x044)) 0 13).toNat = 4096)
    ∧ ((Machine.fld (sOn.reg (govPage 8 + 0x044)) 0 13).toNat = 0 ∧ mayWrite sOn (.vf 0 0) (govPage 8) = false) := by
  unfold Serving; decide +kernel

theorem witness_guaranteedOperations :
    (50 < (Machine.fld (sOn.reg (govPage 0 + 0x044)) 0 16).toNat ∧ pstate sOn 0 = 0 ∧ pstate sRep 0 ≠ 0 ∧ partOfField sRep 0 = some 0)
    ∧ ((∀ y, portUp sOn y = false) ∧ fieldDark sOn 0 = false)
    ∧ (placeOf (5 * 0x20000000 + 60) = .well 5 60 ∧ fieldRuns sOn (tileField 5) = true ∧ 4 ≤ 64 - (5 * 0x20000000 + 60) % 64 ∧ sOn.wellUe = [] ∧ sOn.wellCe = [])
    ∧ (let s := logEv sOn 2 53 0 0 none 0; s.svc.up = true ∧ s.svc.log.length = 1 ∧ s.svc.logFlash = []) := by decide +kernel

theorem witness_updatesInService :
    (let s := setCastState sOn 1; sniwinBusy s = false ∧ s.svc.fwFloor ≤ 5 ∧ s.svc.up = true ∧ inRepair s 0 = false)
    ∧ (let s := (partOn (partOn (sPort.setReg (ypAlt 0) 1) 0 0 2) 0 0 2).setReg (ypSts 1) 2; altRoute (s.setReg (ypAlt 0) 1) 0 3 0 ≠ none)
    ∧ altRoute sPort 0 3 0 = none
    ∧ (let s := { sOn.modSvc fun v => { v with outageAt := some 0, up := false } with tsclk := 30000000000 }
       s.svc.outageAt = some 0 ∧ 0 + 30000000000 ≤ s.tsclk ∧ s.svc.up = false) := by decide +kernel

/-- Debug is enabled on tile 5; in the second state it is stopped. -/
def sDbg : State := s5.setReg (dbgCtl 5) 1
def sDbgStop : State := sDbg.setReg (dbgSts 5) 1

theorem witness_debugStops :
    (sDbg.rbit (dbgCtl 5) 0 = true ∧ halted sDbg 5 = false ∧ dbgStopped sDbg 5 = false ∧ sDbg.rbit (seqCtl 5) 1 = false ∧ (sDbg.seq 5).stepArmed = false
      ∧ (sDbg.seq 5).stall = none ∧ sbEmpty sDbg 5 = true)
    ∧ (dbgStopped sDbgStop 5 = true ∧ quiet sDbgStop 5)
    ∧ (let s := sDbg.setReg (tilePage 5 1 + 0x048) 0x80000000
       atBreakpoint s 5 = true ∧ (s.seq 5).bpPass = false ∧ dbgStopped s 5 = false ∧ fieldRuns s (tileField 5) = true ∧ (s.seq 5).trap = false) := by
  unfold quiet; decide +kernel

/-- Tile 5 of a running partition is over its limit, with a replay allowed or not. -/
def sOver (strict : Bool) : State :=
  ((sRep.setReg (stepLimit 5) 1).modFld 0 fun x => { x with fclk := 40 * 1000 * 1000 }).setRbit (ctrCtl 5) 1 strict

theorem witness_overrunAndImageEnd :
    (∀ b, overrun (sOver b) 5 = true ∧ halted (sOver b) 5 = false ∧ ((sOver b).seq 5).fenced = false ∧ ((sOver b).seq 5).unabsorbed = none
        ∧ pstate (sOver b) 0 = 2 ∧ ((sOver b).prt 0).replayed = false ∧ replayOk (sOver b) 0 = b ∧ (sOver b).banks = [])
    ∧ (let s := (sRep.setRbit (seqSts 5) 0 true).modSeq 5 fun q => { q with unabsorbed := some (.op 5) }
       (s.seq 5).unabsorbed ≠ none ∧ halted s 5 = true ∧ pstate s 0 = 2 ∧ (s.prt 0).image = some (run1 2 0 [5])) := by decide +kernel

/-! ## The block as a whole -/

theorem witness_idleAndCanonical : State.reset.pending = [] ∧ State.reset.hub.held = [] ∧ State.reset.arbs = [] ∧ State.reset.banks = []
    ∧ State.reset.ports = [] ∧ (∀ u, quiet State.reset u) ∧ (∀ p, pstate State.reset p ≠ 5) ∧ State.reset.svc.outageAt = none := by
  refine ⟨rfl, rfl, rfl, rfl, rfl, quiet_of_reset_cores _ rfl, by decide +kernel, rfl⟩

theorem witness_contractCounters :
    (let s := (sHost.setReg (tilePage 5 13 + 0x014) 0x3F).setReg (tilePage 5 13 + 0x028) 3
     s.rbit (tilePage 5 13 + 0x010) 0 = false ∧ s.rbit (tilePage 5 13 + 0x014) 0 = true ∧ bit (s.reg (tilePage 5 13 + 0x018)) 13 = false
       ∧ pagePart s (tilePage 5 13) = some 0 ∧ s.hub.linkUp.getLsbD 0 = true ∧ mayWrite s .svp (tilePage 5 13) = true) := by decide +kernel

theorem witness_phaseOfAField : tileField 5 = 0 ∧ halted s5 5 = false ∧ (∀ u, tileField u = 0 → u < 5 → halted s5 u = true) := by
  refine ⟨by decide +kernel, by decide +kernel, fun u _ hu => ?_⟩
  have h : ∀ k : Fin 5, halted s5 ⟨k.val, by omega⟩ = true := by decide +kernel
  exact h ⟨u.val, hu⟩

/-! ## Worked examples of spec/ and published check values -/

/-- The state a command leaves. -/
def after (c : Instr) (s : State) : State := match exec c s with | .next s' => s' | _ => s

/-- Chapter 1, T(50, 19): its field, cistern window and registers, and where it runs and its well lies, before, during and after
the repair of P(51, 19). -/
theorem test_locate_tile :
    (1722 = 19 * 88 + 50 ∧ tileField 1722 = 20 ∧ tilePage 1722 0 = 0x0F0006BA0000 ∧ fieldPage 20 0 = 0x0F1001400000
      ∧ placeOf 0x00D740000000 = .well 1722 0)
    ∧ (let s := State.reset; tileShaft s 1722 % 96 = 54 ∧ homeShaft s 1722 % 96 = 54)
    ∧ (let s := State.reset.setReg (fldRemap 20) 0xFFFF3FFF
       tileShaft s 1722 % 96 = 55 ∧ homeShaft s 1722 % 96 = 54)
    ∧ (let s := (State.reset.setReg (fldRemap 20) 0xFFFF3FFF).setReg (fldWmap 20) 0xFFFF3FFF
       tileShaft s 1722 % 96 = 55 ∧ homeShaft s 1722 % 96 = 55) := by decide +kernel

/-- Words written out from Tables 2.8, 2.9, 2.10, 3.7, 5.4 and 9.6 and R359 decode to their instructions; a bit that a table fixes
at 0, and the word that fills empty code, are undefined. -/
theorem test_decode_words :
    ([0x0461FFFF, 0x204433FF, 0x2420FFFE, 0x2400D001, 0x28804320, 0x40610A14, 0x83200900, 0xFC000000, 0xFC000001, 0xFFFFFFFF].map
      (decodeTableWord 32)).map (·.getD (.fence 0))
    = [.addi 0 3 1 0xFFFF, .load 0 2 4 3 false 1 0x1FF, .jal 0 1 0xFFE, .undefinedInstruction 0 0x2400D001, .arrive 0 2 3 4,
       .mmFull 0 1 true 1 1 8 5, .dmaGo 0 3 4 9, .halt 0, .undefinedInstruction 0 0xFC000001, .undefinedInstruction 0 0xFFFFFFFF]
    ∧ decodeTableWord 16 0 = none := by decide +kernel

/-- Chapter 3: the five elements of a BF16 block with E = 1. -/
theorem test_decode_b_block :
    ([0x4040, 0x3F40, 0xBC00, 0x38A0, 0x3820].map fun x => let r := loadCell 8 false (127 + 256) x
      (r.1.sign, r.1.m.toNat, r.1.sh.toNat, r.2.1.aflush))
      = [(false, 192, 0, 0), (false, 192, 2, 0), (true, 128, 8, 0), (false, 160, 15, 0), (false, 0, 0, 1)] := by decide +kernel

/-- Chapter 4: the block 3.5, −0.8125, 0.046875, 0.01171875 against 1.5, 2.0, −0.5, 3.0. -/
def job4 (p : Nat) (subn : Bool) : Job := { shape := .full, p := p, m := 1, ga := 0, afmt := 5, bfmt := 1, subn := subn }
def row4 (p : Nat) (subn : Bool) : ARow :=
  { ints := [0x46, 0xB5, 0x14, 0x06].map fun x => (aConv (job4 p subn) (127 + 256) x).1, entries := List.replicate 8 (127 + 256)
    nan := false, census := Census.zero }
def img4 (subn : Bool) : BImage :=
  { shape := .full, fmt := 1, n := 256, exps := [(0, 127 + 256)], codes := []
    cells := (List.range 4).map fun i => (i * 256, (loadCell 1 subn (127 + 256) ([3, 4, 9, 5].getD i 0)).1) }
def out4 (p : Nat) (subn : Bool) : Word := drainFloat false 0 (joinFloat (job4 p subn) (img4 subn) (row4 p subn) 0 0)

/-- Its aligned integers with one pass and with two, and its three results 3.59375, 3.625 and 931 ÷ 256. -/
theorem test_array_block :
    (row4 1 false).ints = [112, -26, 2, 0] ∧ (row4 2 false).ints = [28672, -6656, 384, 96]
    ∧ out4 1 false = 0x40660000 ∧ out4 1 true = 0x40680000 ∧ out4 2 false = 0x4068C000
    ∧ (loadCell 1 true (127 + 256) 9).2.1.sflush = 1 := by decide +kernel

/-- Chapter 6: window offset 0x1234_5600 of a partition of F00, F01, F08 and F09. -/
theorem test_window_interleave :
    let s := (State.reset.setReg (partCfg 2) (BitVec.ofNat 32 (0 + 1 * 8 + 0 * 64 + 1 * 512))).setReg (partSts 2) 1
    partN s 2 = 352 ∧ windowPlace s 2 0x12345600 = some (448, 0x0D3D00) ∧ homeDpa 448 0x0D3D00 = 0x0038000D3D00 := by decide +kernel

/-- Table 11.9: four writes of the host cap. -/
theorem test_host_cap :
    let w := fun (s : State) (h : HostPort) (kw at0 : Nat) => after (.govHcapWrite (.pf h) (BitVec.ofNat 32 (10 * kw))) { s with tsclk := at0 }
    let s1 := w State.reset 2 38 0
    let s2 := w s1 0 30 300
    let s3 := w s2 2 40 900
    let s4 := w s3 0 35 2500
    [s1, s2, s3, s4].map (fun s => (s.reg (govReg 0x040)).toNat) = [380, 300, 300, 350] := by decide +kernel

/-- Chapter 13: at 37.5 kW, with 40.0 kW drawn and 9.0 kW fixed, the LAG carries code 24. -/
theorem test_lag_code : lagCodeOf (State.reset.setReg (govReg 0x048) 375) 40000 9000 = 24 := by decide +kernel

/-- Chapter 12: the open failure of F20. -/
theorem test_open_failure :
    let s := after (.converterFailOpen 20) sAll
    convOf s 20 = 1 ∧ fieldCap s 20 = 80 ∧ ringOf 20 false = 19 ∧ ringOf 20 true = 21 ∧ tieOf s 19 true = 2 ∧ tieOf s 21 false = 2 := by
  decide +kernel

set_option maxRecDepth 20000 in
/-- CRC-32 (R315) and CRC-64 (R222) of the digits 1 to 9, and SHA-384 of "abc" (FIPS 180-4). -/
theorem test_checks :
    crc32 [0x31, 0x32, 0x33, 0x34, 0x35, 0x36, 0x37, 0x38, 0x39] = 0xCBF43926
    ∧ crc64 [0x31, 0x32, 0x33, 0x34, 0x35, 0x36, 0x37, 0x38, 0x39] = 0x62EC59E3F1A4F00A
    ∧ sha384 [0x61, 0x62, 0x63]
      = 0xCB00753F45A35E8BB5A03D699AC65007272C32AB0EDED1631A8B605A43FF5BED8086072BA1E7CC2358BAECA134C825A7 := by decide +kernel

/-- ADD wraps and goes on; a binary32 sum rounds to nearest with ties to even, and 1 ÷ 0 is infinite. -/
theorem test_arithmetic :
    (let s := after (.add 5 3 1 2) (withG (withG s5 5 1 0xFFFFFFFF) 5 2 2); s.g 5 3 = 1 ∧ s.pc 5 = 4)
    ∧ (fAdd f32 0 0x3F800000 0x33800000).1 = 0x3F800000 ∧ (fAdd f32 0 0x3F800001 0x33800000).1 = 0x3F800002
    ∧ (fDiv f32 0 0x3F800000 0).1 = 0x7F800000 := by decide +kernel

/-- A store of four bytes and a load of its upper half, little-endian (R8). -/
theorem test_cistern_bytes :
    let s := after (.store 5 2 4 2 false 0 0) (withG (withG s5 5 2 0x11223344) 5 4 0x100)
    Mem.readN (s.mem 5).cist 0x100 4 = [0x44, 0x33, 0x22, 0x11] ∧ (after (.load 5 3 4 1 false 0 1) s).g 5 3 = 0x1122 := by decide +kernel

end Sys2Proof.Tests
end

section
/-!
SUPPORT. Tile pages of the register map (Table 1.5, Table 2.1): where they lie, and which rows hold their registers.
-/

namespace Sys2Proof.Machine

theorem pageOf_tilePage (t : Tile) {n o : Nat} (hn : n < 16) (ho : o < 0x1000) :
    pageOf (tilePage t n + o) = .tile t n := by
  have ht := t.isLt
  unfold pageOf tilePage tileBase
  rw [dif_pos (by omega)]
  congr 1
  · exact Fin.ext (show _ / _ = t.val by omega)
  · omega

theorem pageOf_tilePage_base (t : Tile) {n : Nat} (hn : n < 16) : pageOf (tilePage t n) = .tile t n :=
  pageOf_tilePage t (o := 0) hn (by omega)

theorem pageBase_tilePage (t : Tile) (n : Nat) {o : Nat} (ho : o < 0x1000) :
    pageBase (tilePage t n + o) = tilePage t n := by
  unfold pageBase tilePage tileBase
  omega

theorem offset_tilePage (t : Tile) (n : Nat) {o : Nat} (ho : o < 0x1000) : (tilePage t n + o) % 0x1000 = o := by
  unfold tilePage tileBase
  omega

/-- The register window of tile t in Table 1.5 holds its pages in order. -/
theorem pageBase_of_pageOf_tile {a n : Nat} {t : Tile} (h : pageOf a = .tile t n) : pageBase a = tilePage t n := by
  unfold pageOf at h
  split at h
  · obtain ⟨rfl, rfl⟩ := PageKind.tile.inj h
    unfold pageBase tilePage tileBase
    dsimp only
    omega
  all_goals (repeat' split at h) <;> cases h

/-- Every row of tile page n, the header's among them. -/
def tilePageRows (n : Nat) : List RegRow := headerRows (tileEvt n) ++ tileRows n

theorem pageRows_tile (t : Tile) {n : Nat} (hn : n < 14) : pageRows (.tile t n) = some (tilePageRows n) := if_pos hn

theorem pageExists_tilePage (t : Tile) {n : Nat} (hn : n < 14) : pageExists (tilePage t n) = true := by
  unfold pageExists
  rw [pageOf_tilePage_base t (by omega), pageRows_tile t hn]
  rfl

theorem bufferPage_tilePage (t : Tile) {n : Nat} (hn : n < 16) : bufferPage (tilePage t n) = false := by
  unfold bufferPage
  rw [pageOf_tilePage_base t hn]

/-- A row holds only the offsets it lists. -/
theorem RegRow.holds_mem {r : RegRow} {o : Nat} (h : r.holds o = true) : o ∈ rowOffs r := by
  obtain ⟨hoff, hmod, hcount⟩ := of_decide_eq_true h
  refine List.mem_map.mpr ⟨(o - r.off) / r.stride, List.mem_range.mpr hcount, ?_⟩
  have := Nat.div_add_mod' (o - r.off) r.stride
  omega

/-- The row of a register of a tile page is one of the page's rows, and lists the register's offset. -/
theorem rowOf_tilePage {t : Tile} {n o : Nat} {r : RegRow} (hn : n < 14) (ho : o < 0x1000)
    (h : rowOf (tilePage t n + o) = some r) : r ∈ tilePageRows n ∧ o ∈ rowOffs r := by
  unfold rowOf at h
  rw [pageOf_tilePage t (by omega) ho, pageRows_tile t hn, offset_tilePage t n ho] at h
  have hf : (tilePageRows n).find? (·.holds o) = some r := h
  exact ⟨List.mem_of_find?_eq_some hf, RegRow.holds_mem (List.find?_some (p := fun x : RegRow => x.holds o) hf)⟩

/-- No offset of a tile page is listed twice. -/
theorem tilePageRows_nodup : ∀ n < 14, ((tilePageRows n).flatMap rowOffs).Nodup := by decide +kernel

/-- The registers of a tile page lie within it. -/
theorem tilePageRows_offs : ∀ n < 14, ∀ r ∈ tilePageRows n, ∀ o ∈ rowOffs r, o < 0x1000 := by decide +kernel

/-- Behind the header, pages 0, 9 and 13 have no bit that a written 1 clears. -/
theorem tilePageRows_w1c :
    ∀ n ∈ [0, 9, 13], ∀ r ∈ tilePageRows n, ∀ o ∈ rowOffs r, 0x040 ≤ o → r.w1c = 0 := by decide +kernel

end Sys2Proof.Machine
end

section
/-!
SUPPORT. What a soft reset of a page does to each register (R256), and what that of a tile page leaves.
-/

namespace Sys2Proof.Machine

/-- OWNER and LOCK, which a soft reset leaves (R256). -/
def keptOffset (a : Nat) : Prop := a % 0x1000 = 0x028 ∨ a % 0x1000 = 0x02C

/-- A soft reset of the registers of one row of a page. -/
def softRow (page : Nat) (s : State) (r : RegRow) : State := s.each (rowOffs r) fun s o => softReg s (page + o) r

theorem softReset_tile (s : State) (t : Tile) {n : Nat} (hn : n < 14) :
    softReset s (tilePage t n) = (softSide s (tilePage t n)).each (tilePageRows n) (softRow (tilePage t n)) := by
  unfold softReset
  rw [pageOf_tilePage_base t (by omega), pageRows_tile t hn]
  rfl

variable (s : State)

theorem softReg_kept {a : Nat} (r : RegRow) (h : keptOffset a) : softReg s a r = s := if_pos h

theorem softReg_reset {a : Nat} (r : RegRow) (h : ¬ keptOffset a) : softReg s a r = s.modReg a (softWord r) := if_neg h

theorem softReg_other (a b : Nat) (r : RegRow) (h : b ≠ a ∨ keptOffset b) : (softReg s a r).reg b = s.reg b := by
  by_cases hk : keptOffset a
  · rw [softReg_kept s r hk]
  · rw [softReg_reset s r hk]
    exact State.reg_modReg_other _ _ _ _ (h.elim id fun hb e => hk (e ▸ hb))

/-- A soft reset of some registers leaves the others, and OWNER and LOCK. -/
theorem softRegs_other (page : Nat) (r : RegRow) (b : Nat) (l : List Nat) (h : ∀ o ∈ l, b ≠ page + o ∨ keptOffset b) :
    (s.each l fun s o => softReg s (page + o) r).reg b = s.reg b := by
  induction l generalizing s with
  | nil => rfl
  | cons x l ih =>
    rw [State.each_cons, ih _ fun o ho => h o (List.mem_cons_of_mem _ ho)]
    exact softReg_other s _ b r (h x List.mem_cons_self)

/-- A soft reset of some registers, none named twice, resets each of them but OWNER and LOCK. -/
theorem softRegs_same (page : Nat) (r : RegRow) {o : Nat} (l : List Nat) (hl : l.Nodup) (ho : o ∈ l)
    (hk : ¬ keptOffset (page + o)) :
    (s.each l fun s o => softReg s (page + o) r).reg (page + o) = softWord r (s.reg (page + o)) := by
  induction l generalizing s with
  | nil => exact absurd ho List.not_mem_nil
  | cons x l ih =>
    obtain ⟨hx, hl⟩ := List.nodup_cons.mp hl
    rw [State.each_cons]
    rcases List.mem_cons.mp ho with rfl | ho
    · have hout : ∀ o' ∈ l, page + o ≠ page + o' ∨ keptOffset (page + o) := fun o' ho' =>
        .inl fun e => hx ((Nat.add_left_cancel e : o = o') ▸ ho')
      rw [softRegs_other _ page r _ l hout, softReg_reset s r hk, State.reg_modReg_same]
    · rw [ih _ hl ho, softReg_other s _ _ r (.inl fun e => hx ((Nat.add_left_cancel e : o = x) ▸ ho))]

theorem softRows_other (page b : Nat) (rows : List RegRow)
    (h : ∀ r ∈ rows, ∀ o ∈ rowOffs r, b ≠ page + o ∨ keptOffset b) : (s.each rows (softRow page)).reg b = s.reg b := by
  induction rows generalizing s with
  | nil => rfl
  | cons r rows ih =>
    rw [State.each_cons, ih _ fun r' hr' => h r' (List.mem_cons_of_mem _ hr')]
    exact softRegs_other s page r b _ (h r List.mem_cons_self)

/-- Where no two rows share an offset, a register is reset by its own row. -/
theorem softRows_same (page : Nat) {r : RegRow} {o : Nat} (rows : List RegRow) (hd : (rows.flatMap rowOffs).Nodup)
    (hr : r ∈ rows) (ho : o ∈ rowOffs r) (hk : ¬ keptOffset (page + o)) :
    (s.each rows (softRow page)).reg (page + o) = softWord r (s.reg (page + o)) := by
  induction rows generalizing s with
  | nil => exact absurd hr List.not_mem_nil
  | cons x rows ih =>
    rw [List.flatMap_cons] at hd
    obtain ⟨hx, hrows, hdisj⟩ := List.nodup_append.mp hd
    rw [State.each_cons]
    rcases List.mem_cons.mp hr with rfl | hr
    · have hout : ∀ r' ∈ rows, ∀ o' ∈ rowOffs r', page + o ≠ page + o' ∨ keptOffset (page + o) := fun r' hr' o' ho' =>
        .inl fun e => hdisj o ho o' (List.mem_flatMap.mpr ⟨r', hr', ho'⟩) (Nat.add_left_cancel e)
      rw [softRows_other _ page _ rows hout]
      exact softRegs_same s page r _ hx ho hk
    · have hout : ∀ o' ∈ rowOffs x, page + o ≠ page + o' ∨ keptOffset (page + o) := fun o' ho' =>
        .inl fun e => hdisj o' ho' o (List.mem_flatMap.mpr ⟨r, hr, ho⟩) (Nat.add_left_cancel e).symm
      rw [ih _ hrows hr]
      exact congrArg _ (softRegs_other s page x _ _ hout)

/-- What no register write changes, a soft reset of rows keeps. -/
theorem softRows_keeps {β : Type} (P : State → β) (hP : ∀ (s : State) (a : Nat) (f : Word → Word), P (s.modReg a f) = P s)
    (page : Nat) (rows : List RegRow) : P (s.each rows (softRow page)) = P s := by
  refine s.each_keeps P rows _ fun s r => s.each_keeps P (rowOffs r) _ fun s o => ?_
  unfold softReg
  split
  · rfl
  · exact hP s _ _

/-- Beside its registers, a soft reset of a tile page ends the resync of its twins (page 9), and changes nothing else. -/
theorem softSide_tile (t : Tile) {n : Nat} (hn : n < 16) :
    softSide s (tilePage t n) = if n = 9 then s.modMem t fun m => { m with resync := [] } else s := by
  unfold softSide
  rw [pageOf_tilePage_base t hn]
  by_cases h9 : n = 9
  · subst h9
    rfl
  · rw [if_neg h9]
    split
    case h_4 heq => exact absurd (PageKind.tile.inj heq).2 h9
    case h_5 => rfl
    all_goals contradiction

end Sys2Proof.Machine
end

section
/-!
SUPPORT. Writes and reads of registers (R9, R30, R32, R257): the path of a plain register of a tile page, an unmapped
address, and a read that only clears its own bits.
-/

namespace Sys2Proof.Machine

variable (s : State)

/-! ## Soft reset of a tile page -/

/-- A master that may write a page resets it. -/
theorem execSoftReset_tile {m : Master} {page : BitVec 48} {t : Tile} {n : Nat}
    (hp : pageBase page.toNat = tilePage t n) (hn : n < 14) (hm : mayWrite s m (tilePage t n) = true) :
    execSoftReset m page s = .next (softReset s (tilePage t n)) := by
  have hbase : pageBase (tilePage t n + 0x008) = tilePage t n := pageBase_tilePage t n (by omega)
  unfold execSoftReset onPage withHeader
  simp only [hp, bufferPage_tilePage t (show n < 16 by omega), pageExists_tilePage t hn, Bool.false_eq_true, if_false, if_true]
  rw [owned_yes _ _ _ _ _ (by rw [hbase]; exact hm)]

/-- A soft reset of a tile page leaves every byte and every general register. -/
theorem softReset_tile_frame (t : Tile) {n : Nat} (hn : n < 14) :
    SameMemory s (softReset s (tilePage t n)) ∧ ∀ u r, (softReset s (tilePage t n)).g u r = s.g u r := by
  have hwells : (softReset s (tilePage t n)).wells = (softSide s (tilePage t n)).wells := by
    rw [softReset_tile s t hn]
    exact softRows_keeps _ State.wells (fun _ _ _ => rfl) _ _
  have hcores : (softReset s (tilePage t n)).cores = (softSide s (tilePage t n)).cores := by
    rw [softReset_tile s t hn]
    exact softRows_keeps _ State.cores (fun _ _ _ => rfl) _ _
  have hmem : ∀ u, (softReset s (tilePage t n)).mem u = (softSide s (tilePage t n)).mem u := fun u => by
    simp only [State.mem, State.core, hcores]
  have hg : ∀ u r, (softReset s (tilePage t n)).g u r = (softSide s (tilePage t n)).g u r := fun u r => by
    simp only [State.g, State.seq, State.core, hcores]
  simp only [SameMemory, hwells, hmem, hg, softSide_tile s t (show n < 16 by omega)]
  split
  · refine ⟨⟨fun _ => rfl, fun u a => ?_⟩, fun u r => s.g_modMem t u _ r⟩
    by_cases hu : u = t
    · rw [hu, State.mem_modMem_same]
    · rw [State.mem_modMem_other _ _ _ _ hu]
  · exact ⟨⟨fun _ => rfl, fun _ _ => rfl⟩, fun _ _ => rfl⟩

/-- Each register of a soft-reset tile page is reset by its own row, and every other register of the module stays. -/
theorem softReset_tile_reg (t : Tile) {n : Nat} (hn : n < 14) :
    (∀ o r, o < 0x1000 → rowOf (tilePage t n + o) = some r → ¬ keptOffset (tilePage t n + o) →
      (softReset s (tilePage t n)).reg (tilePage t n + o) = softWord r (s.reg (tilePage t n + o)))
    ∧ (∀ a, pageBase a ≠ tilePage t n ∨ keptOffset a → (softReset s (tilePage t n)).reg a = s.reg a) := by
  have hside : ∀ a, (softSide s (tilePage t n)).reg a = s.reg a := by
    intro a
    rw [softSide_tile s t (by omega)]
    split <;> rfl
  rw [softReset_tile s t hn]
  refine ⟨fun o r ho hrow hk => ?_, fun a ha => ?_⟩
  · obtain ⟨hr, hmem⟩ := rowOf_tilePage hn ho hrow
    rw [softRows_same _ _ _ (tilePageRows_nodup n hn) hr hmem hk, hside]
  · rw [softRows_other, hside]
    intro r hr o ho
    refine ha.imp_left fun hne e => hne ?_
    rw [e, pageBase_tilePage t n (tilePageRows_offs n hn r hr o ho)]

/-! ## Writes -/

/-- A register write that R258 lets through, where the row has no bit that a written 1 clears. -/
theorem plainWrite_rw {a : Nat} {r : RegRow} (v : Word) (hrow : rowOf a = some r) (hw : r.w1c = 0) :
    plainWrite s a v
      = s.setReg a ((s.reg a &&& ~~~(BitVec.ofNat 32 r.rw)) ||| (v &&& BitVec.ofNat 32 r.rw)) := by
  unfold plainWrite State.modReg
  simp only [hrow, hw, BitVec.and_zero, BitVec.not_zero, BitVec.and_allOnes]

/-- Plain registers of tile pages: TVEC, STEP_LIMIT, SCRUB_LEN, CTR_CTL and the guard table. -/
def plainTileReg (n o : Nat) : Prop :=
  (n = 0 ∧ (o = 0x058 ∨ o = 0x068)) ∨ (n = 9 ∧ o = 0x078) ∨ (n = 13 ∧ (o = 0x040 ∨ (0x080 ≤ o ∧ o < 0x180)))

theorem plainTileReg.bounds {n o : Nat} (h : plainTileReg n o) : n ∈ [0, 9, 13] ∧ n < 14 ∧ 0x040 ≤ o ∧ o < 0x1000 := by
  unfold plainTileReg at h
  simp only [List.mem_cons, List.not_mem_nil, or_false]
  omega

/-- None of them has a write that does more than R258 says. -/
theorem tileWrite_plain {n o : Nat} (h : plainTileReg n o) (m : Master) (t : Tile) (a : Nat) (v : Word) :
    tileWrite s m t n o a v = owned s m a v.toNat fun s => plainWrite s a v := by
  rcases h with ⟨rfl, rfl | rfl⟩ | ⟨rfl, rfl⟩ | ⟨rfl, ho⟩
  · rfl
  · rfl
  · rfl
  · simp [tileWrite]

/-- A write of a block-specific register of a tile page reaches the tile's own rules. -/
theorem execRegisterWrite_tile {m : Master} {addr : BitVec 48} {t : Tile} {n o : Nat} (v : Word)
    (ha : addr.toNat / 4 * 4 = tilePage t n + o) (hn : n < 14) (h0 : 0x040 ≤ o) (h1 : o < 0x1000) :
    execRegisterWrite m addr v s = .next (tileWrite s m t n o (tilePage t n + o) v) := by
  have hpage := pageOf_tilePage t (show n < 16 by omega) h1
  unfold execRegisterWrite regWrite blockWrite
  simp only [ha, hpage, pageBase_tilePage t n h1, offset_tilePage t n h1, bufferPage_tilePage t (show n < 16 by omega),
    pageExists_tilePage t hn, Bool.false_eq_true, if_false, Bool.not_true, Nat.not_lt.mpr h0]

/-- An address that no row of Table 1.5 maps lies in no register page. -/
theorem pageOf_of_nowhere {a : Nat} (h : placeOf a = .nowhere) : pageOf a = .none := by
  unfold placeOf at h
  split at h
  · cases h
  split at h
  · cases h
  split at h
  · unfold pageOf
    simp only [show ¬ (0x0F0000000000 ≤ a ∧ a < 0x0F0010800000) by omega, show ¬ (0x0F1000000000 ≤ a ∧ a < 0x0F1003000000) by omega,
      show ¬ (0x0F2000000000 ≤ a ∧ a < 0x0F2001800000) by omega, show ¬ (0x0F3000000000 ≤ a ∧ a < 0x0F3000100000) by omega,
      show ¬ (0x0F4000000000 ≤ a ∧ a < 0x0F4001000000) by omega, show ¬ (0x0F5000000000 ≤ a ∧ a < 0x0F5000100000) by omega,
      dif_neg, if_neg, not_false_eq_true]
  · split at h
    · assumption
    · cases h

theorem execRegisterWrite_nowhere {m : Master} {addr : BitVec 48} (v : Word) (h : placeOf (addr.toNat / 4 * 4) = .nowhere) :
    execRegisterWrite m addr v s = .next (unmapped s (addr.toNat / 4 * 4) m) := by
  unfold execRegisterWrite noRegister
  simp only [pageOf_of_nowhere h, h]

/-- An unmapped access is counted in the page that decodes it, and changes no other register. -/
theorem unmapped_reg (a : Nat) (m : Master) (b : Nat) :
    (unmapped s a m).reg b = (s.count (decodePage a m + 0x024) 1).reg b := by
  unfold unmapped
  rw [logEv_reg]
  rfl

theorem unmapped_cores (a : Nat) (m : Master) : (unmapped s a m).cores = s.cores := by
  unfold unmapped
  simp

theorem unmapped_wells (a : Nat) (m : Master) : (unmapped s a m).wells = s.wells := by
  unfold unmapped
  simp

/-! ## Reads -/

/-- A read of a register whose read has no other effect. -/
theorem execReadToClear_plain {m : Master} {addr : BitVec 48} (hp : pageOf (addr.toNat / 4 * 4) ≠ .none)
    (hs : readSpecial s m (addr.toNat / 4 * 4) = none) :
    execReadToClear m addr s = .next
      ((s.modReg (addr.toNat / 4 * 4) (· &&& ~~~rcMask (addr.toNat / 4 * 4))).emit (.value m (regView s (addr.toNat / 4 * 4)))) := by
  unfold execReadToClear regRead readWord
  simp only [hs]

end Sys2Proof.Machine
end

section
/-!
Reads, writes and the soft reset of registers (R9, R30, R32, R256 … R258), and the registers at reset.
-/

namespace Sys2Proof

open Machine Claims

/-! ## Register accesses -/

theorem softResetOfATilePage : SoftResetOfATilePage := by
  intro m page t n s p hpage hn hm
  have hp : p = tilePage t n := by
    rw [← pageBase_of_pageOf_tile hpage]
    show page.toNat / 0x1000 * 0x1000 = page.toNat / 0x1000 * 0x1000 / 0x1000 * 0x1000
    omega
  obtain ⟨hmem, hg⟩ := softReset_tile_frame s t hn
  obtain ⟨hreset, hkept⟩ := softReset_tile_reg s t hn
  refine Completes.of_eq ((exec_softReset s m page).trans (execSoftReset_tile s hp hn (hp ▸ hm))) ?_
  rw [hp]
  refine ⟨fun a r ha hrow howner hlock => ?_, hkept _ (.inr ?_), hkept _ (.inr ?_), fun a ha => hkept a (.inl ha), hmem, hg⟩
  · have he : a = tilePage t n + a % 0x1000 := by
      rw [← ha]
      exact (Nat.div_add_mod' a 0x1000).symm
    rw [he] at hrow ⊢
    exact hreset _ r (by omega) hrow (by rw [← he]; exact not_or.mpr ⟨howner, hlock⟩)
  · exact .inl (offset_tilePage t n (by omega))
  · exact .inr (offset_tilePage t n (by omega))

theorem registerWrites : RegisterWrites := by
  intro m addr v s a
  refine ⟨fun t n o r ha hplain hrow => ?_, fun hnowhere => ?_⟩
  · obtain ⟨hpages, hn, h0, h1⟩ := plainTileReg.bounds hplain
    have hw : r.w1c = 0 := by
      obtain ⟨hr, ho⟩ := rowOf_tilePage hn h1 (ha ▸ hrow)
      exact tilePageRows_w1c n hpages r hr o ho h0
    have hbase : pageBase a = tilePage t n := ha ▸ pageBase_tilePage t n h1
    have hexec : exec (.registerWrite m addr v) s = .next (owned s m a v.toNat fun s => plainWrite s a v) := by
      rw [exec_registerWrite, execRegisterWrite_tile s v ha hn h0 h1, tileWrite_plain s hplain, ← ha]
    refine ⟨fun hm => ?_, fun hm => ?_⟩
    · rw [owned_yes _ _ _ _ _ (hbase ▸ hm), plainWrite_rw s v hrow hw] at hexec
      exact Completes.of_eq hexec ⟨State.reg_setReg_same _ _ _, fun b hb => State.reg_setReg_other _ _ _ _ (by simpa using hb), rfl,
        SameRest.refl s⟩
    · rw [owned_no _ _ _ _ _ (hbase ▸ hm)] at hexec
      have hhub : a ≠ hubPage 0 + 0x044 := by
        have ht := t.isLt
        rw [ha]
        unfold tilePage tileBase hubPage
        omega
      exact Completes.of_eq hexec ⟨ownReject_count _ _ _ _, ownReject_reg _ _ _ _ _ hhub, ownReject_cores _ _ _ _⟩
  · refine Completes.of_eq ((exec_registerWrite s m addr v).trans (execRegisterWrite_nowhere s v hnowhere)) ?_
    refine ⟨?_, fun b hb => ?_, ⟨fun b => ?_, fun u b => ?_⟩, unmapped_cores s a m⟩
    · rw [unmapped_reg, State.reg_count_same]
    · rw [unmapped_reg, State.reg_count_other _ _ _ _ (by simpa using hb)]
    · rw [unmapped_wells]
    · simp only [State.mem, State.core, unmapped_cores]

theorem registerReads : RegisterReads := by
  intro m addr s a hp hs
  refine Completes.of_eq ((exec_readToClear s m addr).trans (execReadToClear_plain s hp hs)) ?_
  refine ⟨rfl, ?_, fun b hb => ?_, rfl, rfl, SameRest.refl s⟩
  · rw [State.emit_reg, State.reg_modReg_same]
  · rw [State.emit_reg, State.reg_modReg_other _ _ _ _ (by simpa using hb)]

/-- Settles O26. No offset of a tile page is listed twice, so each register is reset and written by its own row alone. -/
theorem registerAccesses : Obligations.RegisterAccesses := ⟨softResetOfATilePage, registerWrites, registerReads⟩

/-! ## The state at reset -/

/-- DROP_CTL at reset (R277): ratio 15, hold time 10 ms, crack step 60 mV (R275, R276). -/
theorem reset_dropCtl : State.reset.reg (fieldPage 0 240 + 0x060) = 0x003C0A0F := by decide +kernel

/-- Refutes O56: DROP_CTL of field 0 reads 0x003C_0A0F at reset; ResetState gives it 0x0A0F, which leaves out the crack step
of 60 mV in bits [23:16]. -/
theorem not_resetAndIdle : ¬ Obligations.ResetAndIdle := by
  rintro ⟨hreset, -⟩
  obtain ⟨-, -, -, -, -, hfield, -⟩ := hreset
  obtain ⟨-, -, hdrop⟩ := hfield 0
  exact absurd (reset_dropCtl.symm.trans hdrop) (by decide)

end Sys2Proof
end
